-- ==== Sys2Proof/Word.lean ====
section
/-!
DEFINITION. The machine word, the eight lanes of an element (R39), and total access to fixed register files.
-/
namespace Sys2Proof

/-- A 32-bit lane. -/
abbrev Word := BitVec 32
/-- A byte of memory. -/
abbrev Byte := BitVec 8

/-- Eight 32-bit lanes: a register's or a payload's value (R39, R41). -/
structure Lanes where
  l0 : Word
  l1 : Word
  l2 : Word
  l3 : Word
  l4 : Word
  l5 : Word
  l6 : Word
  l7 : Word
  deriving DecidableEq, Repr

/-- The lanes as a list, lane 0 first. -/
def Lanes.toList (v : Lanes) : List Word := [v.l0, v.l1, v.l2, v.l3, v.l4, v.l5, v.l6, v.l7]

/-- Lane `i mod 8`. -/
def Lanes.get (v : Lanes) (i : Nat) : Word := v.toList.getD (i % 8) 0

/-- The lanes given by a function of the lane number. -/
def Lanes.ofFn (f : Nat → Word) : Lanes := ⟨f 0, f 1, f 2, f 3, f 4, f 5, f 6, f 7⟩

/-- One value in every lane. -/
def Lanes.rep (w : Word) : Lanes := ⟨w, w, w, w, w, w, w, w⟩

/-- Eight zero lanes. -/
def Lanes.zero : Lanes := Lanes.rep 0

/-- A value in lane 0, and perhaps lane 1, with zero elsewhere. -/
def Lanes.two (a b : Word) : Lanes := ⟨a, b, 0, 0, 0, 0, 0, 0⟩

/-- The lanes of a list, missing lanes zero. -/
def Lanes.ofList (l : List Word) : Lanes := Lanes.ofFn fun i => l.getD i 0

/-- Lane-by-lane map. -/
def Lanes.map (f : Word → Word) (v : Lanes) : Lanes := Lanes.ofFn fun i => f (v.get i)

/-- Read entry `i` of a register file; the index is taken modulo the file's size. -/
def vget {α : Type} {n : Nat} (v : Vector α (n + 1)) (i : Nat) : α :=
  v[i % (n + 1)]'(Nat.mod_lt _ (Nat.succ_pos n))

/-- Write entry `i` of a register file; the index is taken modulo the file's size. -/
def vset {α : Type} {n : Nat} (v : Vector α (n + 1)) (i : Nat) (a : α) : Vector α (n + 1) :=
  v.set (i % (n + 1)) a (Nat.mod_lt _ (Nat.succ_pos n))

@[simp] theorem vget_vset_same {α : Type} {n : Nat} (v : Vector α (n + 1)) (i : Nat) (a : α) :
    vget (vset v i a) i = a := by simp [vget, vset]

theorem vget_vset_ne {α : Type} {n : Nat} (v : Vector α (n + 1)) (i j : Nat) (a : α)
    (h : i % (n + 1) ≠ j % (n + 1)) : vget (vset v i a) j = vget v j := by
  simp [vget, vset, h]

/-- Bits `lo + n - 1 : lo` of a number. -/
def fld (w lo n : Nat) : Nat := w / 2 ^ lo % 2 ^ n

/-- The number of a Bool. -/
def b2n (b : Bool) : Nat := if b then 1 else 0

end Sys2Proof
end

