-- ==== Sys2Proof/Syntax.lean ====
section
/-!
DEFINITION. The syntax: operand selectors (R67), step conditions (R75) and `Instr`, one constructor for every row of
spec/opcode_table.json: element words (R83, R86), controller commands (R87) and the events the device itself performs.
-/
namespace Sys2Proof

/-- A source operand (R56, R67). An immediate is its 5-bit pattern, two's complement. -/
inductive Src where
  | lat
  | o (n : Nat)
  | c (n : Nat)
  | k (n : Nat)
  | imm (v : Nat)
  deriving DecidableEq, Repr

/-- A destination (R57, R67): `c n` is the output handle c4 to c7 of number `n`. -/
inductive Dst where
  | lat
  | o (n : Nat)
  | c (n : Nat)
  deriving DecidableEq, Repr

/-- A step condition (R75). -/
inductive Cond where
  | always
  | token (n : Nat)
  | node (n : Nat)
  | idle (n : Nat)
  deriving DecidableEq, Repr

/-- The bytes of one remote row and its poison (R228). -/
structure RowData where
  bytes : List Byte
  poison : Bool
  deriving DecidableEq, Repr

/-- A row's refusal (R204, R228): the copy channel it comes back to, and the fault code and detail the destination names. -/
structure RowAnswer where
  ch : Nat
  code : Nat
  detail : Nat
  deriving DecidableEq, Repr

/-- An image or a signed record the boot root loads (R230): whether its signature holds, its bytes, and the spare map a record
gives: defective tile, spare tile. -/
structure BootFile where
  ok : Bool
  bytes : List (BitVec 8)
  spares : List (Nat × Nat)
  deriving DecidableEq, Repr

/-- What the hardware answers to the boot root's steps at a power-on (R230). -/
structure BootInput where
  image : BootFile
  altImage : BootFile
  keyTries : Nat
  record : BootFile
  altRecord : BootFile
  badTiles : List Nat
  badDram : List Nat
  hostLanes : Nat
  weft : List (Nat × Nat)
  tables : List (List (BitVec 8))
  deriving DecidableEq, Repr

/-- The registers of R223 that have no row of their own in the opcode table: their writes are REGISTER_WRITE. -/
inductive RegName where
  | errOwed (vf : Nat) | errMuslin (vf : Nat)
  | fqBase (vf : Nat) | fqCfg (vf : Nat) | fqTail (vf : Nat) | fqLost (vf : Nat)
  | partAcct (vf : Nat)
  | trcBase (vf : Nat) | trcCfg (vf : Nat) | trcStat (vf : Nat)
  | digBase (vf : Nat) | digCfg (vf : Nat)
  | lqBase (vf ps : Nat) | lqCfg (vf ps : Nat) | lqAcc (vf ps : Nat)
  | ifSched (vf ps : Nat) | quotaLimit (vf ps : Nat) | quotaUsed (vf ps : Nat)
  | xlRoot (vf ps : Nat) | ifPeer (vf ps : Nat)
  | votCnt (l v : Nat) | votLast (l v : Nat)
  | ctrVal (l tile n : Nat) | ctrSel (l tile n : Nat) | ctrStat (l tile : Nat)
  | bellows (l n : Nat) | cntNode (l tile n : Nat)
  | frameMap (vf fr : Nat) | poolMap (vf fr : Nat)
  | weftDev | weftStat (p : Nat)
  deriving DecidableEq, Repr

/-- Every row of the opcode table. An element word has its trigger `t` first, a command its step condition `cd`;
an event names the objects it acts on (a line, a tile of the line, an access, a partition `vf`, an interface `ps`). -/
inductive Instr where
  /-- NOP. -/
  | nop (t : Nat)
  /-- TRAP. -/
  | trap (t : Nat) (c : Nat)
  /-- BRK. -/
  | brk (t : Nat) (c : Nat)
  /-- CTRRD. -/
  | ctrrd (t : Nat) (d : Dst) (a : Src)
  /-- EBRD. -/
  | ebrd (t : Nat) (d : Dst)
  /-- ADD. -/
  | add (t : Nat) (d : Dst) (a : Src) (b : Src)
  /-- ADDI. -/
  | addi (t : Nat) (d : Dst) (i : Nat)
  /-- SUB. -/
  | sub (t : Nat) (d : Dst) (a : Src) (b : Src)
  /-- MUL. -/
  | mul (t : Nat) (d : Dst) (a : Src) (b : Src)
  /-- MULH. -/
  | mulh (t : Nat) (d : Dst) (a : Src) (b : Src)
  /-- MULHU. -/
  | mulhu (t : Nat) (d : Dst) (a : Src) (b : Src)
  /-- MAD. -/
  | mad (t : Nat) (d : Dst) (a : Src) (b : Src)
  /-- ABS. -/
  | abs (t : Nat) (d : Dst) (a : Src)
  /-- AND. -/
  | and (t : Nat) (d : Dst) (a : Src) (b : Src)
  /-- OR. -/
  | or (t : Nat) (d : Dst) (a : Src) (b : Src)
  /-- XOR. -/
  | xor (t : Nat) (d : Dst) (a : Src) (b : Src)
  /-- ANDN. -/
  | andn (t : Nat) (d : Dst) (a : Src) (b : Src)
  /-- SHL. -/
  | shl (t : Nat) (d : Dst) (a : Src) (b : Src)
  /-- SHR. -/
  | shr (t : Nat) (d : Dst) (a : Src) (b : Src)
  /-- SRA. -/
  | sra (t : Nat) (d : Dst) (a : Src) (b : Src)
  /-- ROT. -/
  | rot (t : Nat) (d : Dst) (a : Src) (b : Src)
  /-- MIN. -/
  | min (t : Nat) (d : Dst) (a : Src) (b : Src)
  /-- MAX. -/
  | max (t : Nat) (d : Dst) (a : Src) (b : Src)
  /-- MINU. -/
  | minu (t : Nat) (d : Dst) (a : Src) (b : Src)
  /-- MAXU. -/
  | maxu (t : Nat) (d : Dst) (a : Src) (b : Src)
  /-- CLZ. -/
  | clz (t : Nat) (d : Dst) (a : Src)
  /-- POPC. -/
  | popc (t : Nat) (d : Dst) (a : Src)
  /-- BFX. -/
  | bfx (t : Nat) (d : Dst) (a : Src) (b : Src)
  /-- BFI. -/
  | bfi (t : Nat) (d : Dst) (a : Src) (b : Src)
  /-- CMP. -/
  | cmp (t : Nat) (v : Nat) (d : Dst) (a : Src) (b : Src)
  /-- BSEL. -/
  | bsel (t : Nat) (d : Dst) (a : Src) (b : Src)
  /-- GETM. -/
  | getm (t : Nat) (d : Dst) (m : Nat)
  /-- PUTM. -/
  | putm (t : Nat) (a : Src) (m : Nat)
  /-- MOV. -/
  | mov (t : Nat) (d : Dst) (a : Src)
  /-- PSET. -/
  | pset (t : Nat) (p : Nat) (v : Bool)
  /-- PLOG. -/
  | plog (t : Nat) (p : Nat) (pa : Nat) (pb : Nat) (tt : Nat)
  /-- PANY. -/
  | pany (t : Nat) (p : Nat)
  /-- PALL. -/
  | pall (t : Nat) (p : Nat)
  /-- LI. -/
  | li (t : Nat) (d : Dst) (i : Nat)
  /-- LIH. -/
  | lih (t : Nat) (d : Dst) (i : Nat)
  /-- LBC. -/
  | lbc (t : Nat) (d : Dst) (a : Src) (b : Src)
  /-- LSHF. -/
  | lshf (t : Nat) (d : Dst) (a : Src) (b : Src)
  /-- LRED. -/
  | lred (t : Nat) (v : Nat) (d : Dst) (a : Src)
  /-- LSCAN. -/
  | lscan (t : Nat) (v : Nat) (d : Dst) (a : Src)
  /-- FADD. -/
  | fadd (t : Nat) (d : Dst) (a : Src) (b : Src)
  /-- FSUB. -/
  | fsub (t : Nat) (d : Dst) (a : Src) (b : Src)
  /-- FMUL. -/
  | fmul (t : Nat) (d : Dst) (a : Src) (b : Src)
  /-- FMA. -/
  | fma (t : Nat) (d : Dst) (a : Src) (b : Src)
  /-- FMIN. -/
  | fmin (t : Nat) (d : Dst) (a : Src) (b : Src)
  /-- FMAX. -/
  | fmax (t : Nat) (d : Dst) (a : Src) (b : Src)
  /-- FRCP. -/
  | frcp (t : Nat) (d : Dst) (a : Src)
  /-- FRSQ. -/
  | frsq (t : Nat) (d : Dst) (a : Src)
  /-- FEXP2. -/
  | fexp2 (t : Nat) (d : Dst) (a : Src)
  /-- FLOG2. -/
  | flog2 (t : Nat) (d : Dst) (a : Src)
  /-- FTANH. -/
  | ftanh (t : Nat) (d : Dst) (a : Src)
  /-- FCVTI. -/
  | fcvti (t : Nat) (d : Dst) (a : Src)
  /-- FCVTF. -/
  | fcvtf (t : Nat) (d : Dst) (a : Src)
  /-- FRND. -/
  | frnd (t : Nat) (d : Dst) (a : Src)
  /-- FSCL. -/
  | fscl (t : Nat) (d : Dst) (a : Src) (b : Src)
  /-- ADVR. -/
  | advr (t : Nat) (h : Nat) (n : Nat)
  /-- ADVW. -/
  | advw (t : Nat) (h : Nat) (n : Nat)
  /-- PEEK. -/
  | peek (t : Nat) (h : Nat) (k : Nat) (d : Dst)
  /-- EMIT. -/
  | emit (t : Nat) (h : Nat) (g : Nat) (a : Src)
  /-- EOS. -/
  | eos (t : Nat) (h : Nat) (g : Nat)
  /-- CHQ. -/
  | chq (t : Nat) (h : Nat) (d : Dst)
  /-- STEER. -/
  | steer (t : Nat) (i : Nat) (x : Nat) (y : Nat) (p : Nat)
  /-- MERGE. -/
  | merge (t : Nat) (c : Nat) (a : Nat) (b : Nat) (o : Nat)
  /-- LD. -/
  | ld (t : Nat) (d : Dst) (o : Src) (w : Nat) (q : Bool) (e : Nat)
  /-- LDV. -/
  | ldv (t : Nat) (d : Dst) (o : Src) (w : Nat) (q : Bool) (e : Nat)
  /-- ST. -/
  | st (t : Nat) (a : Src) (o : Src) (w : Nat) (q : Bool) (e : Nat)
  /-- STV. -/
  | stv (t : Nat) (a : Src) (o : Src) (w : Nat) (q : Bool) (e : Nat)
  /-- ATOM_ADD. -/
  | atomAdd (t : Nat) (a : Src) (o : Src) (w : Nat) (q : Bool) (e : Nat)
  /-- ATOM_MIN. -/
  | atomMin (t : Nat) (a : Src) (o : Src) (w : Nat) (q : Bool) (e : Nat)
  /-- ATOM_MAX. -/
  | atomMax (t : Nat) (a : Src) (o : Src) (w : Nat) (q : Bool) (e : Nat)
  /-- ATOM_AND. -/
  | atomAnd (t : Nat) (a : Src) (o : Src) (w : Nat) (q : Bool) (e : Nat)
  /-- ATOM_OR. -/
  | atomOr (t : Nat) (a : Src) (o : Src) (w : Nat) (q : Bool) (e : Nat)
  /-- ATOM_XOR. -/
  | atomXor (t : Nat) (a : Src) (o : Src) (w : Nat) (q : Bool) (e : Nat)
  /-- ATOM_XCHG. -/
  | atomXchg (t : Nat) (a : Src) (o : Src) (w : Nat) (q : Bool) (e : Nat)
  /-- ATOM_FADD. -/
  | atomFadd (t : Nat) (a : Src) (o : Src) (w : Nat) (q : Bool) (e : Nat)
  /-- CAS. -/
  | cas (t : Nat) (a : Src) (o : Src) (w : Nat) (q : Bool) (e : Nat)
  /-- FENCE. -/
  | fence (t : Nat) (w : Nat) (q : Bool) (e : Nat)
  /-- GNEW. -/
  | gnew (t : Nat) (d : Dst)
  /-- GFREE. -/
  | gfree (t : Nat) (a : Src)
  /-- JOIN. -/
  | join (t : Nat) (a : Src)
  /-- LEAVE. -/
  | leave (t : Nat) (a : Src)
  /-- STEP. -/
  | step (t : Nat) (a : Src)
  /-- FCMP. -/
  | fcmp (t : Nat) (v : Nat) (d : Dst) (a : Src) (b : Src)
  /-- DONE. -/
  | done (t : Nat)
  /-- BEATQ. -/
  | beatq (t : Nat) (d : Dst) (i : Nat)
  /-- SEQ. -/
  | seq (t : Nat) (d : Dst)
  /-- RANGE. -/
  | range (t : Nat) (d : Dst) (a : Src)
  /-- SPAWN. -/
  | spawn (t : Nat) (d : Dst) (a : Src)
  /-- MXQ. -/
  | mxq (t : Nat) (d : Dst) (o : Src) (w : Nat)
  /-- WPR. -/
  | wpr (t : Nat) (d : Dst) (a : Src)
  /-- BIND. -/
  | bind (cd : Cond) (g : Nat) (p : Nat) (r : Nat)
  /-- GO. -/
  | go (cd : Cond) (g : Nat)
  /-- BAR. -/
  | bar (cd : Cond)
  /-- WAITN. -/
  | waitn (cd : Cond) (n : Nat) (v : Nat)
  /-- WAITN_ARG. -/
  | waitnArg (cd : Cond) (n : Nat) (j : Nat)
  /-- ENAB. -/
  | enab (cd : Cond) (n : Nat)
  /-- SIGD. -/
  | sigd (cd : Cond)
  /-- CNTW. -/
  | cntw (cd : Cond) (n : Nat) (e : Nat) (d : Nat)
  /-- LOOP. -/
  | loop (cd : Cond) (n : Nat) (k : Nat)
  /-- LOOP_ARG. -/
  | loopArg (cd : Cond) (n : Nat) (j : Nat)
  /-- ARM. -/
  | arm (cd : Cond) (q : Nat) (j : Nat)
  /-- DISARM. -/
  | disarm (cd : Cond) (q : Nat)
  /-- QFEN. -/
  | qfen (cd : Cond) (m : Nat)
  /-- BEAT_POLICY. -/
  | beatPolicy (cd : Cond) (j : Nat)
  /-- BEAT_FIXED. -/
  | beatFixed (cd : Cond) (l : Nat)
  /-- BEAT_SET. -/
  | beatSet (cd : Cond) (l : Nat)
  /-- MARK. -/
  | mark (cd : Cond)
  /-- RECFG. -/
  | recfg (cd : Cond) (j : Nat)
  /-- RSZ. -/
  | rsz (cd : Cond) (x : Nat) (j : Nat)
  /-- HALTC. -/
  | haltc (cd : Cond)
  /-- BEAT_EDGE. -/
  | beatEdge (l : Nat)
  /-- STRETCH_EDGE. -/
  | stretchEdge (l : Nat)
  /-- TRACE_WALK. -/
  | traceWalk (l : Nat)
  /-- LINE_FIRST_EDGE. -/
  | lineFirstEdge (l : Nat)
  /-- REWORK_RESUME. -/
  | reworkResume (l : Nat) (st : Nat)
  /-- LINE_STALL. -/
  | lineStall (l : Nat)
  /-- EOS_COMMIT. -/
  | eosCommit (l : Nat) (th : Nat) (h : Nat)
  /-- LOAD_RETURN. -/
  | loadReturn (id : Nat)
  /-- ATOMIC_RETURN. -/
  | atomicReturn (id : Nat)
  /-- STORE_ACCEPT. -/
  | storeAccept (id : Nat)
  /-- XLAT_LOOKUP. -/
  | xlatLookup (id : Nat)
  /-- WALK_RESULT. -/
  | walkResult (id : Nat)
  /-- PATTERN_VISIT. -/
  | patternVisit (l : Nat) (tile : Nat) (g : Nat)
  /-- COPY_ENTRY. -/
  | copyEntry (l : Nat) (tile : Nat) (q : Nat)
  /-- COPY_BEAT. -/
  | copyBeat (l : Nat) (tile : Nat) (ch : Nat)
  /-- ARM_COMPLETE. -/
  | armComplete (l : Nat) (tile : Nat) (q : Nat)
  /-- DISARM_ACK. -/
  | disarmAck (l : Nat) (tile : Nat) (q : Nat)
  /-- COUNT_ACK. -/
  | countAck (id : Nat)
  /-- COUNT_TOKEN_COMMIT. -/
  | countTokenCommit (l : Nat) (tile : Nat) (n : Nat)
  /-- MCAST_JOIN_TOKEN. -/
  | mcastJoinToken (l : Nat) (tile : Nat) (q : Nat) (k : Nat)
  /-- MXQ_RECORD_READ. -/
  | mxqRecordRead (id : Nat)
  /-- MX_TASK_ISSUE. -/
  | mxTaskIssue (l : Nat) (bolt : Nat)
  /-- MX_TASK_COMPLETE. -/
  | mxTaskComplete (l : Nat) (id : Nat)
  /-- VOTER_TOKEN. -/
  | voterToken (l : Nat) (v : Nat) (copy : Nat)
  /-- SWAGE_CONVERT. -/
  | swageConvert (l : Nat) (ch : Nat)
  /-- PLANE_SWAP_DONE. -/
  | planeSwapDone (vf : Nat) (g : Nat)
  /-- LQ_DB. -/
  | lqDb (vf : Nat) (ps : Nat) (tail : Nat)
  /-- LAUNCH_RECORD. -/
  | launchRecord (vf : Nat) (ps : Nat)
  /-- LINE_PLACEMENT. -/
  | linePlacement (id : Nat)
  /-- PREREQUISITES_MET. -/
  | prerequisitesMet (l : Nat)
  /-- SPAWN_ANSWER. -/
  | spawnAnswer (id : Nat)
  /-- RANGE_ANSWER. -/
  | rangeAnswer (id : Nat)
  /-- LINE_COMPLETE. -/
  | lineComplete (l : Nat)
  /-- BOLT_SCRUB_DONE. -/
  | boltScrubDone (bolt : Nat)
  /-- SP_SCRUB_COMPLETE. -/
  | spScrubComplete (fr : Nat)
  /-- SLICE_EXPIRY. -/
  | sliceExpiry (l : Nat)
  /-- ROUND_ENTRY. -/
  | roundEntry (l : Nat) (tile : Nat)
  /-- TILE_SAVE. -/
  | tileSave (l : Nat) (tile : Nat)
  /-- QUIESCENT_PREEMPT. -/
  | quiescentPreempt (l : Nat)
  /-- LINE_RESTORE. -/
  | lineRestore (l : Nat)
  /-- RECFG_DRAINED. -/
  | recfgDrained (l : Nat)
  /-- RSZ_COMPLETE. -/
  | rszComplete (id : Nat)
  /-- LST_RSZ. -/
  | lstRsz (l : Nat) (rg : Nat) (v : Nat)
  /-- FLT_RESUME_RESUME. -/
  | fltResumeResume (vf : Nat) (ix : Nat)
  /-- FLT_RESUME_END. -/
  | fltResumeEnd (vf : Nat) (ix : Nat)
  /-- FLT_RESUME_SKIP. -/
  | fltResumeSkip (vf : Nat) (ix : Nat)
  /-- FLT_RESUME_NONE. -/
  | fltResumeNone (vf : Nat) (ix : Nat)
  /-- RESUME_PORT_TOKEN. -/
  | resumePortToken (l : Nat) (ch : Nat)
  /-- FQ_HEAD. -/
  | fqHead (vf : Nat) (v : Nat)
  /-- ERR_BUDGET. -/
  | errBudget (vf : Nat) (pf : Bool) (v : Nat)
  /-- PART_GRANT. -/
  | partGrant (vf : Nat) (pf : Bool) (v : Nat)
  /-- XL_SHOOT. -/
  | xlShoot (vf : Nat) (ps : Nat) (v : Nat)
  /-- SHOOTDOWN_DONE. -/
  | shootdownDone (vf : Nat) (ps : Nat)
  /-- ATS_INVALIDATION. -/
  | atsInvalidation (vf : Nat) (ps : Nat) (v : Nat)
  /-- REMOTE_WRITE. -/
  | remoteWrite (vf : Nat) (ps : Nat) (dev : Nat) (addr : Nat) (row : RowData)
  /-- GUARD_DROP. -/
  | guardDrop (l : Nat) (ch : Nat)
  /-- COUNTER_WRAP. -/
  | counterWrap (l : Nat) (tile : Nat) (n : Nat)
  /-- POWER_THROTTLE. -/
  | powerThrottle (on : Bool)
  /-- POWER_ON. -/
  | powerOn (out : BootInput)
  /-- ATTESTATION_REQUEST. -/
  | attestationRequest (nonce : Nat)
  /-- REGISTER_WRITE. -/
  | registerWrite (pf : Bool) (r : RegName) (v : Nat)
  /-- ROW_REFUSED. -/
  | rowRefused (l : Nat) (tile : Nat) (ans : RowAnswer)
  /-- ENDED_BY_HOST. -/
  | endedByHost (l : Nat)
  deriving DecidableEq, Repr

end Sys2Proof
end

