-- ==== Sys2Proof/WellFormed.lean ====
section
/-!
DEFINITION. Well-formed instructions: the checks of the loader on a word or command alone (R81 causes 4 to 11; R67, R69,
R73, R75, R84 to R86) and the ranges of an event's numbers. An operand outside these cannot be encoded.
-/
namespace Sys2Proof

/-- The selector names a register, handle, constant or immediate that exists (R67). -/
def Src.wf : Src → Bool
  | .lat => true
  | .o n => n < 8
  | .c n => n < 4
  | .k n => n < 8
  | .imm v => v < 32

/-- The destination is `lat`, o0 to o7 or c4 to c7 (R67). -/
def Dst.wf : Dst → Bool
  | .lat => true
  | .o n => n < 8
  | .c n => 4 ≤ n && n < 8

/-- The destination is `lat` or o0 to o7 (R69, R271, R272, R277, R299, R308, R327, R342). -/
def Dst.isReg : Dst → Bool
  | .lat => true
  | .o n => n < 8
  | .c _ => false

/-- The step condition's argument is in the range of its kind (R75). -/
def Cond.wf : Cond → Bool
  | .always => true
  | .token n => n < 8
  | .node n => n < 16
  | .idle n => n < 4

/-- An input handle c0 to c3. -/
def isIn (h : Nat) : Bool := h < 4
/-- An output handle c4 to c7. -/
def isOut (h : Nat) : Bool := 4 ≤ h && h < 8
/-- A partition is one of the functions 1 to 48 (R222). -/
def isVf (vf : Nat) : Bool := 1 ≤ vf && vf ≤ 48

/-- The check of one instruction. -/
def Instr.wf : Instr → Bool
  | .nop t => t < 64
  | .trap t c => t < 64 && c < 4096
  | .brk t c => t < 64 && c < 4096
  | .ctrrd t d a => t < 64 && d.wf && a.wf
  | .ebrd t d => t < 64 && d.wf
  | .add t d a b => t < 64 && d.wf && a.wf && b.wf
  | .addi t d i => t < 64 && d.isReg && i < 4096
  | .sub t d a b => t < 64 && d.wf && a.wf && b.wf
  | .mul t d a b => t < 64 && d.wf && a.wf && b.wf
  | .mulh t d a b => t < 64 && d.wf && a.wf && b.wf
  | .mulhu t d a b => t < 64 && d.wf && a.wf && b.wf
  | .mad t d a b => t < 64 && d.isReg && a.wf && b.wf
  | .abs t d a => t < 64 && d.wf && a.wf
  | .and t d a b => t < 64 && d.wf && a.wf && b.wf
  | .or t d a b => t < 64 && d.wf && a.wf && b.wf
  | .xor t d a b => t < 64 && d.wf && a.wf && b.wf
  | .andn t d a b => t < 64 && d.wf && a.wf && b.wf
  | .shl t d a b => t < 64 && d.wf && a.wf && b.wf
  | .shr t d a b => t < 64 && d.wf && a.wf && b.wf
  | .sra t d a b => t < 64 && d.wf && a.wf && b.wf
  | .rot t d a b => t < 64 && d.wf && a.wf && b.wf
  | .min t d a b => t < 64 && d.wf && a.wf && b.wf
  | .max t d a b => t < 64 && d.wf && a.wf && b.wf
  | .minu t d a b => t < 64 && d.wf && a.wf && b.wf
  | .maxu t d a b => t < 64 && d.wf && a.wf && b.wf
  | .clz t d a => t < 64 && d.wf && a.wf
  | .popc t d a => t < 64 && d.wf && a.wf
  | .bfx t d a b => t < 64 && d.wf && a.wf && b.wf
  | .bfi t d a b => t < 64 && d.isReg && a.wf && b.wf
  | .cmp t v d a b => t < 64 && v < 6 && d.wf && a.wf && b.wf
  | .bsel t d a b => t < 64 && d.wf && a.wf && b.wf
  | .getm t d m => t < 64 && d.isReg && m < 64
  | .putm t a m => t < 64 && a.wf && m < 64
  | .mov t d a => t < 64 && d.wf && a.wf
  | .pset t p _ => t < 64 && p < 7
  | .plog t p pa pb tt => t < 64 && p < 7 && pa < 8 && pb < 8 && tt < 16
  | .pany t p => t < 64 && p < 7
  | .pall t p => t < 64 && p < 7
  | .li t d i => t < 64 && d.isReg && i < 4096
  | .lih t d i => t < 64 && d.isReg && i < 4096
  | .lbc t d a b => t < 64 && d.wf && a.wf && b.wf
  | .lshf t d a b => t < 64 && d.wf && a.wf && b.wf
  | .lred t v d a => t < 64 && v < 4 && d.wf && a.wf
  | .lscan t v d a => t < 64 && v < 4 && d.wf && a.wf
  | .fadd t d a b => t < 64 && d.wf && a.wf && b.wf
  | .fsub t d a b => t < 64 && d.wf && a.wf && b.wf
  | .fmul t d a b => t < 64 && d.wf && a.wf && b.wf
  | .fma t d a b => t < 64 && d.isReg && a.wf && b.wf
  | .fmin t d a b => t < 64 && d.wf && a.wf && b.wf
  | .fmax t d a b => t < 64 && d.wf && a.wf && b.wf
  | .frcp t d a => t < 64 && d.wf && a.wf
  | .frsq t d a => t < 64 && d.wf && a.wf
  | .fexp2 t d a => t < 64 && d.wf && a.wf
  | .flog2 t d a => t < 64 && d.wf && a.wf
  | .ftanh t d a => t < 64 && d.wf && a.wf
  | .fcvti t d a => t < 64 && d.wf && a.wf
  | .fcvtf t d a => t < 64 && d.wf && a.wf
  | .frnd t d a => t < 64 && d.wf && a.wf
  | .fscl t d a b => t < 64 && d.wf && a.wf && b.wf
  | .advr t h n => t < 64 && isIn h && 1 ≤ n && n < 16
  | .advw t h n => t < 64 && isOut h && 1 ≤ n && n < 16
  | .peek t h k d => t < 64 && isIn h && k < 15 && d.isReg
  | .emit t h g a => t < 64 && isOut h && g < 6 && a.wf
  | .eos t h g => t < 64 && isOut h && 3 ≤ g && g < 6
  | .chq t h d => t < 64 && h < 8 && d.isReg
  | .steer t i x y p => t < 64 && isIn i && isOut x && isOut y && x != y && p < 8
  | .merge t c a b o => t < 64 && isIn c && isIn a && isIn b && isOut o && c != a && c != b && a != b
  | .ld t d o w _ e => t < 64 && d.wf && o.wf && w < 8 && e < 4
  | .ldv t d o w _ e => t < 64 && d.wf && o.wf && w < 8 && e < 4
  | .st t a o w _ e => t < 64 && a.wf && o.wf && w < 8 && e < 4
  | .stv t a o w _ e => t < 64 && a.wf && o.wf && w < 8 && e < 4
  | .atomAdd t a o w _ e => t < 64 && a.wf && o.wf && w < 8 && e < 4
  | .atomMin t a o w _ e => t < 64 && a.wf && o.wf && w < 8 && e < 4
  | .atomMax t a o w _ e => t < 64 && a.wf && o.wf && w < 8 && e < 4
  | .atomAnd t a o w _ e => t < 64 && a.wf && o.wf && w < 8 && e < 4
  | .atomOr t a o w _ e => t < 64 && a.wf && o.wf && w < 8 && e < 4
  | .atomXor t a o w _ e => t < 64 && a.wf && o.wf && w < 8 && e < 4
  | .atomXchg t a o w _ e => t < 64 && a.wf && o.wf && w < 8 && e < 4
  | .atomFadd t a o w _ e => t < 64 && a.wf && o.wf && w < 8 && e < 4
  | .cas t a o w _ e => t < 64 && a.wf && o.wf && w < 8 && e < 4
  | .fence t w _ e => t < 64 && w < 8 && e < 4
  | .gnew t d => t < 64 && d.wf
  | .gfree t a => t < 64 && a.wf
  | .join t a => t < 64 && a.wf
  | .leave t a => t < 64 && a.wf
  | .step t a => t < 64 && a.wf
  | .fcmp t v d a b => t < 64 && v < 6 && d.wf && a.wf && b.wf
  | .done t => t < 64
  | .beatq t d i => t < 64 && d.isReg && i < 16
  | .seq t d => t < 64 && d.wf
  | .range t d a => t < 64 && d.wf && a.wf
  | .spawn t d a => t < 64 && d.wf && a.wf
  | .mxq t d o w => t < 64 && d.wf && o.wf && w < 8
  | .wpr t d a => t < 64 && d.wf && a.wf
  | .bind cd g p r => cd.wf && g < 4 && p < 64 && r < 256
  | .go cd g => cd.wf && g < 4
  | .bar cd => cd.wf
  | .waitn cd n v => cd.wf && n < 16 && v < 8192
  | .waitnArg cd n j => cd.wf && n < 16 && j < 4096
  | .enab cd n => cd.wf && n < 8
  | .sigd cd => cd.wf
  | .cntw cd n e d => cd.wf && n < 8 && 1 ≤ e && e ≤ 16 && 1 ≤ d && d ≤ 16
  | .loop cd n k => cd.wf && 1 ≤ n && n < 32 && 1 ≤ k && k ≤ 4096
  | .loopArg cd n j => cd.wf && 1 ≤ n && n < 32 && j < 4096
  | .arm cd q j => cd.wf && q < 8 && j < 4096
  | .disarm cd q => cd.wf && q < 8
  | .qfen cd m => cd.wf && 1 ≤ m && m < 256
  | .beatPolicy cd j => cd.wf && j < 4096
  | .beatFixed cd l => cd.wf && l < 65536
  | .beatSet cd l => cd.wf && l < 65536
  | .mark cd => cd.wf
  | .recfg cd j => cd.wf && j < 4096
  | .rsz cd x j => cd.wf && x < 64 && j < 4096
  | .haltc cd => cd.wf
  | .beatEdge _ => true
  | .stretchEdge _ => true
  | .traceWalk _ => true
  | .lineFirstEdge _ => true
  | .reworkResume _ _ => true
  | .lineStall _ => true
  | .eosCommit _ th h => th < 12288 && isOut h
  | .loadReturn _ => true
  | .atomicReturn _ => true
  | .storeAccept _ => true
  | .xlatLookup _ => true
  | .walkResult _ => true
  | .patternVisit _ tile g => tile < 768 && g < 4
  | .copyEntry _ tile q => tile < 768 && q < 8
  | .copyBeat _ tile ch => tile < 768 && ch < 2
  | .armComplete _ tile q => tile < 768 && q < 8
  | .disarmAck _ tile q => tile < 768 && q < 8
  | .countAck _ => true
  | .countTokenCommit _ tile n => tile < 768 && n < 16
  | .mcastJoinToken _ tile q k => tile < 768 && q < 8 && k < 16
  | .mxqRecordRead _ => true
  | .mxTaskIssue _ bolt => bolt < 48
  | .mxTaskComplete _ _ => true
  | .voterToken _ _ copy => copy < 3
  | .swageConvert _ _ => true
  | .planeSwapDone vf g => isVf vf && g < 4096
  | .lqDb vf ps tail => isVf vf && ps < 64 && tail < 2 ^ 32
  | .launchRecord vf ps => isVf vf && ps < 64
  | .linePlacement _ => true
  | .prerequisitesMet _ => true
  | .spawnAnswer _ => true
  | .rangeAnswer _ => true
  | .lineComplete _ => true
  | .boltScrubDone bolt => bolt < 48
  | .spScrubComplete _ => true
  | .sliceExpiry _ => true
  | .roundEntry _ tile => tile < 768
  | .tileSave _ tile => tile < 768
  | .quiescentPreempt _ => true
  | .lineRestore _ => true
  | .recfgDrained _ => true
  | .rszComplete _ => true
  | .lstRsz _ _ v => v < 2 ^ 32
  | .fltResumeResume vf _ => isVf vf
  | .fltResumeEnd vf _ => isVf vf
  | .fltResumeSkip vf _ => isVf vf
  | .fltResumeNone vf _ => isVf vf
  | .resumePortToken _ _ => true
  | .fqHead vf v => isVf vf && v < 2 ^ 32
  | .errBudget vf _ v => isVf vf && v < 2 ^ 32
  | .partGrant vf _ v => isVf vf && v < 2 ^ 48
  | .xlShoot vf ps v => isVf vf && ps < 64 && v < 2 ^ 64
  | .shootdownDone vf ps => isVf vf && ps < 64
  | .atsInvalidation vf ps v => isVf vf && ps < 64 && v < 2 ^ 64
  | .remoteWrite vf ps dev _ _ => isVf vf && ps < 64 && dev < 2 ^ 22
  | .guardDrop _ _ => true
  | .counterWrap _ tile n => tile < 768 && n < 16
  | .powerThrottle _ => true
  | .powerOn _ => true
  | .attestationRequest _ => true
  | .registerWrite _ _ _ => true
  | .rowRefused _ tile x => tile < 768 && x.ch < 2 && ((x.code == 3 && x.detail < 256) || (x.code == 4 && x.detail == 0))
  | .endedByHost _ => true

end Sys2Proof
end

