-- ==== Sys2Proof/Decode.lean ====
section
/-!
DEFINITION. The decoder and the encoder of element words (R65 to R73, R83 to R86) and controller commands (R75, R87).
A word is a natural number below 2^32, bit 0 least significant. What the loader refuses is refused here by name (R81).
-/
namespace Sys2Proof

/-- Why the loader refuses a word: the causes of R81 that concern a word alone. -/
inductive Reject where
  /-- cause 3: an unassigned opcode (R88). -/
  | unassigned
  /-- cause 4: a nonzero reserved bit (R65, R84). -/
  | reservedBit
  /-- cause 5: a selector illegal in its position, or a handle of the wrong direction (R67, R73). -/
  | selector
  /-- cause 8: p7 as a predicate destination (R59). -/
  | predicateSeven
  /-- cause 9: a count or tag outside its range. -/
  | countOrTag
  /-- cause 11: a step condition out of range (R75). -/
  | stepCondition
  /-- cause 1: a field of a command out of its stated range. -/
  | range
  /-- cause 16: a switch port of 64 or above (R273). -/
  | port
  deriving DecidableEq, Repr

/-- The causes of R81 from 1 on, those that a word alone can give by name. -/
def Reject.causes : List (Option Reject) :=
  [some .range, none, some .unassigned, some .reservedBit, some .selector, none, none, some .predicateSeven, some .countOrTag, none,
   some .stepCondition, none, none, none, none, some .port]

/-- The cause number of R81. -/
def Reject.cause (r : Reject) : Nat := Reject.causes.idxOf (some r) + 1

/-- A source selector (R67). -/
def decSrc (x : Nat) : Option Src :=
  if x = 0 then some .lat
  else if x < 8 then none
  else if x < 16 then some (.o (x - 8))
  else if x < 20 then some (.c (x - 16))
  else if x < 24 then none
  else if x < 32 then some (.k (x - 24))
  else some (.imm (x - 32))

/-- A destination selector (R67). -/
def decDst (x : Nat) : Option Dst :=
  if x = 0 then some .lat
  else if x < 8 then none
  else if x < 16 then some (.o (x - 8))
  else if x < 20 then none
  else if x < 24 then some (.c (x - 16))
  else none

/-- A destination that must be `lat` or o0 to o7 (R69). -/
def decReg (x : Nat) : Option Dst :=
  if x = 0 then some .lat
  else if x < 8 then none
  else if x < 16 then some (.o (x - 8))
  else none

/-- The selector of a source. -/
def encSrc : Src → Nat
  | .lat => 0
  | .o n => 8 + n
  | .c n => 16 + n
  | .k n => 24 + n
  | .imm v => 32 + v

/-- The selector of a destination. -/
def encDst : Dst → Nat
  | .lat => 0
  | .o n => 8 + n
  | .c n => 16 + n

/-- One destination. -/
def need1 (d : Option Dst) (k : Dst → Instr) : Except Reject Instr :=
  match d with
  | some d => .ok (k d)
  | none => .error .selector

/-- One source. -/
def needA (a : Option Src) (k : Src → Instr) : Except Reject Instr :=
  match a with
  | some a => .ok (k a)
  | none => .error .selector

/-- A destination and a source. -/
def need2 (d : Option Dst) (a : Option Src) (k : Dst → Src → Instr) : Except Reject Instr :=
  match d, a with
  | some d, some a => .ok (k d a)
  | _, _ => .error .selector

/-- A destination and two sources. -/
def need3 (d : Option Dst) (a b : Option Src) (k : Dst → Src → Src → Instr) : Except Reject Instr :=
  match d, a, b with
  | some d, some a, some b => .ok (k d a b)
  | _, _, _ => .error .selector

/-- Two sources. -/
def needAA (a b : Option Src) (k : Src → Src → Instr) : Except Reject Instr :=
  match a, b with
  | some a, some b => .ok (k a b)
  | _, _ => .error .selector

/-- A check that must hold before the rest. -/
def want (b : Bool) (r : Reject) (x : Except Reject Instr) : Except Reject Instr :=
  if b then x else .error r

/-- The element word of format fields `f = w[17:0]` under opcode `op` and trigger `t` (R83). -/
def decodeOp (op t f : Nat) : Except Reject Instr :=
  let d6 := f / 4096 % 64
  let a6 := f / 64 % 64
  let b6 := f % 64
  let i12 := f % 4096
  let p3 := f / 32768 % 8
  let n4 := f / 2048 % 16
  let g3 := f / 256 % 8
  let x3 := f / 4096 % 8
  let y3 := f / 512 % 8
  let z3 := f / 64 % 8
  let w3 := f / 8 % 8
  let q1 := f / 4 % 2 == 1
  let e2 := f % 4
  match op with
  | 0x00 => want (f == 0) .reservedBit (.ok (.nop t))
  | 0x01 => want (d6 == 0) .reservedBit (.ok (.trap t i12))
  | 0x02 => want (d6 == 0) .reservedBit (.ok (.brk t i12))
  | 0x03 => want (b6 == 0) .reservedBit (need2 (decDst d6) (decSrc a6) (.ctrrd t))
  | 0x04 => want (i12 == 0) .reservedBit (need1 (decDst d6) (.ebrd t))
  | 0x08 => need3 (decDst d6) (decSrc a6) (decSrc b6) (.add t)
  | 0x09 => need1 (decReg d6) (fun d => .addi t d i12)
  | 0x0A => need3 (decDst d6) (decSrc a6) (decSrc b6) (.sub t)
  | 0x0B => need3 (decDst d6) (decSrc a6) (decSrc b6) (.mul t)
  | 0x0C => need3 (decDst d6) (decSrc a6) (decSrc b6) (.mulh t)
  | 0x0D => need3 (decDst d6) (decSrc a6) (decSrc b6) (.mulhu t)
  | 0x0E => need3 (decReg d6) (decSrc a6) (decSrc b6) (.mad t)
  | 0x0F => want (b6 == 0) .reservedBit (need2 (decDst d6) (decSrc a6) (.abs t))
  | 0x10 => need3 (decDst d6) (decSrc a6) (decSrc b6) (.and t)
  | 0x11 => need3 (decDst d6) (decSrc a6) (decSrc b6) (.or t)
  | 0x12 => need3 (decDst d6) (decSrc a6) (decSrc b6) (.xor t)
  | 0x13 => need3 (decDst d6) (decSrc a6) (decSrc b6) (.andn t)
  | 0x14 => need3 (decDst d6) (decSrc a6) (decSrc b6) (.shl t)
  | 0x15 => need3 (decDst d6) (decSrc a6) (decSrc b6) (.shr t)
  | 0x16 => need3 (decDst d6) (decSrc a6) (decSrc b6) (.sra t)
  | 0x17 => need3 (decDst d6) (decSrc a6) (decSrc b6) (.rot t)
  | 0x18 => need3 (decDst d6) (decSrc a6) (decSrc b6) (.min t)
  | 0x19 => need3 (decDst d6) (decSrc a6) (decSrc b6) (.max t)
  | 0x1A => need3 (decDst d6) (decSrc a6) (decSrc b6) (.minu t)
  | 0x1B => need3 (decDst d6) (decSrc a6) (decSrc b6) (.maxu t)
  | 0x1C => want (b6 == 0) .reservedBit (need2 (decDst d6) (decSrc a6) (.clz t))
  | 0x1D => want (b6 == 0) .reservedBit (need2 (decDst d6) (decSrc a6) (.popc t))
  | 0x1E => need3 (decDst d6) (decSrc a6) (decSrc b6) (.bfx t)
  | 0x1F => need3 (decReg d6) (decSrc a6) (decSrc b6) (.bfi t)
  | 0x20 => need3 (decDst d6) (decSrc a6) (decSrc b6) (.cmp t 0)
  | 0x21 => need3 (decDst d6) (decSrc a6) (decSrc b6) (.cmp t 1)
  | 0x22 => need3 (decDst d6) (decSrc a6) (decSrc b6) (.cmp t 2)
  | 0x23 => need3 (decDst d6) (decSrc a6) (decSrc b6) (.cmp t 3)
  | 0x24 => need3 (decDst d6) (decSrc a6) (decSrc b6) (.cmp t 4)
  | 0x25 => need3 (decDst d6) (decSrc a6) (decSrc b6) (.cmp t 5)
  | 0x28 => need3 (decDst d6) (decSrc a6) (decSrc b6) (.bsel t)
  | 0x29 => want (b6 == 0) .reservedBit (need1 (decReg d6) (fun d => .getm t d a6))
  | 0x2A => want (b6 == 0) .reservedBit (needA (decSrc d6) (fun a => .putm t a a6))
  | 0x2B => want (b6 == 0) .reservedBit (need2 (decDst d6) (decSrc a6) (.mov t))
  | 0x2C => want (f / 512 % 64 == 0 && f % 32 == 0 && (f / 32 % 16 == 0 || f / 32 % 16 == 15)) .reservedBit
        (want (p3 != 7) .predicateSeven (.ok (.pset t p3 (f / 32 % 16 == 15))))
  | 0x2D => want (f % 32 == 0) .reservedBit
        (want (p3 != 7) .predicateSeven (.ok (.plog t p3 x3 y3 (f / 32 % 16))))
  | 0x2E => want (f % 32768 == 0) .reservedBit (want (p3 != 7) .predicateSeven (.ok (.pany t p3)))
  | 0x2F => want (f % 32768 == 0) .reservedBit (want (p3 != 7) .predicateSeven (.ok (.pall t p3)))
  | 0x30 => need1 (decReg d6) (fun d => .li t d i12)
  | 0x31 => need1 (decReg d6) (fun d => .lih t d i12)
  | 0x32 => need3 (decDst d6) (decSrc a6) (decSrc b6) (.lbc t)
  | 0x33 => need3 (decDst d6) (decSrc a6) (decSrc b6) (.lshf t)
  | 0x38 => want (b6 == 0) .reservedBit (need2 (decDst d6) (decSrc a6) (.lred t 0))
  | 0x39 => want (b6 == 0) .reservedBit (need2 (decDst d6) (decSrc a6) (.lred t 1))
  | 0x3A => want (b6 == 0) .reservedBit (need2 (decDst d6) (decSrc a6) (.lred t 2))
  | 0x3B => want (b6 == 0) .reservedBit (need2 (decDst d6) (decSrc a6) (.lred t 3))
  | 0x3C => want (b6 == 0) .reservedBit (need2 (decDst d6) (decSrc a6) (.lscan t 0))
  | 0x3D => want (b6 == 0) .reservedBit (need2 (decDst d6) (decSrc a6) (.lscan t 1))
  | 0x3E => want (b6 == 0) .reservedBit (need2 (decDst d6) (decSrc a6) (.lscan t 2))
  | 0x3F => want (b6 == 0) .reservedBit (need2 (decDst d6) (decSrc a6) (.lscan t 3))
  | 0x40 => need3 (decDst d6) (decSrc a6) (decSrc b6) (.fadd t)
  | 0x41 => need3 (decDst d6) (decSrc a6) (decSrc b6) (.fsub t)
  | 0x42 => need3 (decDst d6) (decSrc a6) (decSrc b6) (.fmul t)
  | 0x43 => need3 (decReg d6) (decSrc a6) (decSrc b6) (.fma t)
  | 0x44 => need3 (decDst d6) (decSrc a6) (decSrc b6) (.fmin t)
  | 0x45 => need3 (decDst d6) (decSrc a6) (decSrc b6) (.fmax t)
  | 0x46 => want (b6 == 0) .reservedBit (need2 (decDst d6) (decSrc a6) (.frcp t))
  | 0x47 => want (b6 == 0) .reservedBit (need2 (decDst d6) (decSrc a6) (.frsq t))
  | 0x48 => want (b6 == 0) .reservedBit (need2 (decDst d6) (decSrc a6) (.fexp2 t))
  | 0x49 => want (b6 == 0) .reservedBit (need2 (decDst d6) (decSrc a6) (.flog2 t))
  | 0x4A => want (b6 == 0) .reservedBit (need2 (decDst d6) (decSrc a6) (.ftanh t))
  | 0x4B => want (b6 == 0) .reservedBit (need2 (decDst d6) (decSrc a6) (.fcvti t))
  | 0x4C => want (b6 == 0) .reservedBit (need2 (decDst d6) (decSrc a6) (.fcvtf t))
  | 0x4D => want (b6 == 0) .reservedBit (need2 (decDst d6) (decSrc a6) (.frnd t))
  | 0x4E => need3 (decDst d6) (decSrc a6) (decSrc b6) (.fscl t)
  | 0x50 => want (f % 2048 == 0) .reservedBit (want (isIn p3) .selector (want (n4 != 0) .countOrTag (.ok (.advr t p3 n4))))
  | 0x51 => want (f % 2048 == 0) .reservedBit (want (isOut p3) .selector (want (n4 != 0) .countOrTag (.ok (.advw t p3 n4))))
  | 0x52 => want (f / 64 % 32 == 0) .reservedBit (want (isIn p3 && (decReg b6).isSome) .selector
        (want (n4 != 15) .countOrTag (need1 (decReg b6) (.peek t p3 n4))))
  | 0x53 => want (n4 == 0 && f / 64 % 4 == 0) .reservedBit (want (isOut p3 && (decSrc b6).isSome) .selector
        (want (g3 < 6) .countOrTag (needA (decSrc b6) (.emit t p3 g3))))
  | 0x54 => want (n4 == 0 && f % 256 == 0) .reservedBit (want (isOut p3) .selector
        (want (3 ≤ g3 && g3 < 6) .countOrTag (.ok (.eos t p3 g3))))
  | 0x55 => want (f / 64 % 512 == 0) .reservedBit (need1 (decReg b6) (.chq t p3))
  | 0x58 => want (b6 == 0) .reservedBit (want (isIn p3 && isOut x3 && isOut y3 && x3 != y3) .selector (.ok (.steer t p3 x3 y3 z3)))
  | 0x59 => want (b6 == 0) .reservedBit (want (isIn p3 && isIn x3 && isIn y3 && isOut z3 && p3 != x3 && p3 != y3 && x3 != y3) .selector
        (.ok (.merge t p3 x3 y3 z3)))
  | 0x60 => need2 (decDst d6) (decSrc a6) (fun d o => .ld t d o w3 q1 e2)
  | 0x61 => need2 (decDst d6) (decSrc a6) (fun d o => .ldv t d o w3 q1 e2)
  | 0x62 => needAA (decSrc d6) (decSrc a6) (fun a o => .st t a o w3 q1 e2)
  | 0x63 => needAA (decSrc d6) (decSrc a6) (fun a o => .stv t a o w3 q1 e2)
  | 0x64 => needAA (decSrc d6) (decSrc a6) (fun a o => .atomAdd t a o w3 q1 e2)
  | 0x65 => needAA (decSrc d6) (decSrc a6) (fun a o => .atomMin t a o w3 q1 e2)
  | 0x66 => needAA (decSrc d6) (decSrc a6) (fun a o => .atomMax t a o w3 q1 e2)
  | 0x67 => needAA (decSrc d6) (decSrc a6) (fun a o => .atomAnd t a o w3 q1 e2)
  | 0x68 => needAA (decSrc d6) (decSrc a6) (fun a o => .atomOr t a o w3 q1 e2)
  | 0x69 => needAA (decSrc d6) (decSrc a6) (fun a o => .atomXor t a o w3 q1 e2)
  | 0x6A => needAA (decSrc d6) (decSrc a6) (fun a o => .atomXchg t a o w3 q1 e2)
  | 0x6B => needAA (decSrc d6) (decSrc a6) (fun a o => .atomFadd t a o w3 q1 e2)
  | 0x6C => needAA (decSrc d6) (decSrc a6) (fun a o => .cas t a o w3 q1 e2)
  | 0x6D => want (d6 == 0 && a6 == 0) .reservedBit (.ok (.fence t w3 q1 e2))
  | 0x70 => want (i12 == 0) .reservedBit (need1 (decDst d6) (.gnew t))
  | 0x71 => want (d6 == 0 && b6 == 0) .reservedBit (needA (decSrc a6) (.gfree t))
  | 0x72 => want (d6 == 0 && b6 == 0) .reservedBit (needA (decSrc a6) (.join t))
  | 0x73 => want (d6 == 0 && b6 == 0) .reservedBit (needA (decSrc a6) (.leave t))
  | 0x74 => want (d6 == 0 && b6 == 0) .reservedBit (needA (decSrc a6) (.step t))
  | 0x78 => need3 (decDst d6) (decSrc a6) (decSrc b6) (.fcmp t 0)
  | 0x79 => need3 (decDst d6) (decSrc a6) (decSrc b6) (.fcmp t 1)
  | 0x7A => need3 (decDst d6) (decSrc a6) (decSrc b6) (.fcmp t 2)
  | 0x7B => need3 (decDst d6) (decSrc a6) (decSrc b6) (.fcmp t 3)
  | 0x7C => need3 (decDst d6) (decSrc a6) (decSrc b6) (.fcmp t 4)
  | 0x7D => need3 (decDst d6) (decSrc a6) (decSrc b6) (.fcmp t 5)
  | 0x80 => want (f == 0) .reservedBit (.ok (.done t))
  | 0x81 => want (f / 16 % 256 == 0) .reservedBit (need1 (decReg d6) (fun d => .beatq t d (f % 16)))
  | 0x82 => want (i12 == 0) .reservedBit (need1 (decDst d6) (.seq t))
  | 0x84 => want (b6 == 0) .reservedBit (need2 (decDst d6) (decSrc a6) (.range t))
  | 0x85 => want (b6 == 0) .reservedBit (need2 (decDst d6) (decSrc a6) (.spawn t))
  | 0x86 => want (f % 8 == 0) .reservedBit (need2 (decDst d6) (decSrc a6) (fun d o => .mxq t d o w3))
  | 0x87 => want (b6 == 0) .reservedBit (need2 (decDst d6) (decSrc a6) (.wpr t))
  | _ => .error .unassigned

/-- The element word `w` (R65). -/
def decodeElem (w : Nat) : Except Reject Instr := decodeOp (w / 262144 % 256) (w / 67108864 % 64) (w % 262144)

/-- The step condition of a command (R75). -/
def decCond (x : Nat) : Option Cond :=
  let a := x % 16
  if x / 16 % 4 = 0 then (if a = 0 then some .always else none)
  else if x / 16 % 4 = 1 then (if a < 8 then some (.token a) else none)
  else if x / 16 % 4 = 2 then some (.node a)
  else if a < 4 then some (.idle a) else none

/-- The bits of a step condition. -/
def encCond : Cond → Nat
  | .always => 0
  | .token n => 16 + n
  | .node n => 32 + n
  | .idle n => 48 + n

/-- The command of fields `f = w[17:0]` under opcode `op` and step condition `cd` (R87). -/
def decodeCmdOp (op : Nat) (cd : Cond) (f : Nat) : Except Reject Instr :=
  let q3 := f / 32768 % 8
  let j12 := f % 4096
  match op with
  | 0x01 => want (f / 256 % 256 < 64) .port (.ok (.bind cd (f / 65536 % 4) (f / 256 % 256) (f % 256)))
  | 0x02 => want (f % 65536 == 0) .reservedBit (.ok (.go cd (f / 65536 % 4)))
  | 0x03 => want (f == 0) .reservedBit (.ok (.bar cd))
  | 0x04 =>
    if f / 8192 % 2 = 0 then .ok (.waitn cd (f / 16384 % 16) (f % 8192))
    else want (f / 4096 % 2 == 0) .reservedBit (.ok (.waitnArg cd (f / 16384 % 16) j12))
  | 0x05 => want (f % 32768 == 0) .reservedBit (.ok (.enab cd q3))
  | 0x06 => want (f == 0) .reservedBit (.ok (.sigd cd))
  | 0x07 => want (f % 128 == 0) .reservedBit (.ok (.cntw cd q3 (f / 2048 % 16 + 1) (f / 128 % 16 + 1)))
  | 0x08 =>
    want (f / 8192 % 32 != 0) .range
      (if f / 4096 % 2 = 0 then .ok (.loop cd (f / 8192 % 32) (j12 + 1)) else .ok (.loopArg cd (f / 8192 % 32) j12))
  | 0x09 => want (f / 4096 % 8 == 0) .reservedBit (.ok (.arm cd q3 j12))
  | 0x0A => want (f % 32768 == 0) .reservedBit (.ok (.disarm cd q3))
  | 0x0B => want (f / 256 == 0) .reservedBit (want (f % 256 != 0) .range (.ok (.qfen cd (f % 256))))
  | 0x0C =>
    if f / 65536 % 4 = 0 then want (f / 4096 % 16 == 0) .reservedBit (.ok (.beatPolicy cd j12))
    else if f / 65536 % 4 = 1 then .ok (.beatFixed cd (f % 65536))
    else if f / 65536 % 4 = 2 then .ok (.beatSet cd (f % 65536))
    else .error .reservedBit
  | 0x0D => want (f == 0) .reservedBit (.ok (.mark cd))
  | 0x0E => want (f / 4096 == 0) .reservedBit (.ok (.recfg cd j12))
  | 0x0F => .ok (.rsz cd (f / 4096 % 64) j12)
  | 0x10 => want (f == 0) .reservedBit (.ok (.haltc cd))
  | _ => .error .unassigned

/-- The controller command `w` (R75). -/
def decodeCmd (w : Nat) : Except Reject Instr :=
  match decCond (w / 67108864 % 64) with
  | some cd => decodeCmdOp (w / 262144 % 256) cd (w % 262144)
  | none => if 1 ≤ w / 262144 % 256 && w / 262144 % 256 ≤ 16 then .error .stepCondition else .error .unassigned

/-- Trigger or condition bits, opcode and fields as one word. -/
def word (t op f : Nat) : Nat := t * 67108864 + op * 262144 + f

/-- The word of an instruction; an event has none. -/
def encode : Instr → Option Nat
  | .nop t => some (word t 0x00 (0))
  | .trap t c => some (word t 0x01 (c))
  | .brk t c => some (word t 0x02 (c))
  | .ctrrd t d a => some (word t 0x03 (encDst d * 4096 + encSrc a * 64))
  | .ebrd t d => some (word t 0x04 (encDst d * 4096))
  | .add t d a b => some (word t 0x08 (encDst d * 4096 + encSrc a * 64 + encSrc b))
  | .addi t d i => some (word t 0x09 (encDst d * 4096 + i))
  | .sub t d a b => some (word t 0x0A (encDst d * 4096 + encSrc a * 64 + encSrc b))
  | .mul t d a b => some (word t 0x0B (encDst d * 4096 + encSrc a * 64 + encSrc b))
  | .mulh t d a b => some (word t 0x0C (encDst d * 4096 + encSrc a * 64 + encSrc b))
  | .mulhu t d a b => some (word t 0x0D (encDst d * 4096 + encSrc a * 64 + encSrc b))
  | .mad t d a b => some (word t 0x0E (encDst d * 4096 + encSrc a * 64 + encSrc b))
  | .abs t d a => some (word t 0x0F (encDst d * 4096 + encSrc a * 64))
  | .and t d a b => some (word t 0x10 (encDst d * 4096 + encSrc a * 64 + encSrc b))
  | .or t d a b => some (word t 0x11 (encDst d * 4096 + encSrc a * 64 + encSrc b))
  | .xor t d a b => some (word t 0x12 (encDst d * 4096 + encSrc a * 64 + encSrc b))
  | .andn t d a b => some (word t 0x13 (encDst d * 4096 + encSrc a * 64 + encSrc b))
  | .shl t d a b => some (word t 0x14 (encDst d * 4096 + encSrc a * 64 + encSrc b))
  | .shr t d a b => some (word t 0x15 (encDst d * 4096 + encSrc a * 64 + encSrc b))
  | .sra t d a b => some (word t 0x16 (encDst d * 4096 + encSrc a * 64 + encSrc b))
  | .rot t d a b => some (word t 0x17 (encDst d * 4096 + encSrc a * 64 + encSrc b))
  | .min t d a b => some (word t 0x18 (encDst d * 4096 + encSrc a * 64 + encSrc b))
  | .max t d a b => some (word t 0x19 (encDst d * 4096 + encSrc a * 64 + encSrc b))
  | .minu t d a b => some (word t 0x1A (encDst d * 4096 + encSrc a * 64 + encSrc b))
  | .maxu t d a b => some (word t 0x1B (encDst d * 4096 + encSrc a * 64 + encSrc b))
  | .clz t d a => some (word t 0x1C (encDst d * 4096 + encSrc a * 64))
  | .popc t d a => some (word t 0x1D (encDst d * 4096 + encSrc a * 64))
  | .bfx t d a b => some (word t 0x1E (encDst d * 4096 + encSrc a * 64 + encSrc b))
  | .bfi t d a b => some (word t 0x1F (encDst d * 4096 + encSrc a * 64 + encSrc b))
  | .cmp t v d a b => some (word t (32 + v) (encDst d * 4096 + encSrc a * 64 + encSrc b))
  | .bsel t d a b => some (word t 0x28 (encDst d * 4096 + encSrc a * 64 + encSrc b))
  | .getm t d m => some (word t 0x29 (encDst d * 4096 + m * 64))
  | .putm t a m => some (word t 0x2A (encSrc a * 4096 + m * 64))
  | .mov t d a => some (word t 0x2B (encDst d * 4096 + encSrc a * 64))
  | .pset t p v => some (word t 0x2C (p * 32768 + (if v then 480 else 0)))
  | .plog t p pa pb tt => some (word t 0x2D (p * 32768 + pa * 4096 + pb * 512 + tt * 32))
  | .pany t p => some (word t 0x2E (p * 32768))
  | .pall t p => some (word t 0x2F (p * 32768))
  | .li t d i => some (word t 0x30 (encDst d * 4096 + i))
  | .lih t d i => some (word t 0x31 (encDst d * 4096 + i))
  | .lbc t d a b => some (word t 0x32 (encDst d * 4096 + encSrc a * 64 + encSrc b))
  | .lshf t d a b => some (word t 0x33 (encDst d * 4096 + encSrc a * 64 + encSrc b))
  | .lred t v d a => some (word t (56 + v) (encDst d * 4096 + encSrc a * 64))
  | .lscan t v d a => some (word t (60 + v) (encDst d * 4096 + encSrc a * 64))
  | .fadd t d a b => some (word t 0x40 (encDst d * 4096 + encSrc a * 64 + encSrc b))
  | .fsub t d a b => some (word t 0x41 (encDst d * 4096 + encSrc a * 64 + encSrc b))
  | .fmul t d a b => some (word t 0x42 (encDst d * 4096 + encSrc a * 64 + encSrc b))
  | .fma t d a b => some (word t 0x43 (encDst d * 4096 + encSrc a * 64 + encSrc b))
  | .fmin t d a b => some (word t 0x44 (encDst d * 4096 + encSrc a * 64 + encSrc b))
  | .fmax t d a b => some (word t 0x45 (encDst d * 4096 + encSrc a * 64 + encSrc b))
  | .frcp t d a => some (word t 0x46 (encDst d * 4096 + encSrc a * 64))
  | .frsq t d a => some (word t 0x47 (encDst d * 4096 + encSrc a * 64))
  | .fexp2 t d a => some (word t 0x48 (encDst d * 4096 + encSrc a * 64))
  | .flog2 t d a => some (word t 0x49 (encDst d * 4096 + encSrc a * 64))
  | .ftanh t d a => some (word t 0x4A (encDst d * 4096 + encSrc a * 64))
  | .fcvti t d a => some (word t 0x4B (encDst d * 4096 + encSrc a * 64))
  | .fcvtf t d a => some (word t 0x4C (encDst d * 4096 + encSrc a * 64))
  | .frnd t d a => some (word t 0x4D (encDst d * 4096 + encSrc a * 64))
  | .fscl t d a b => some (word t 0x4E (encDst d * 4096 + encSrc a * 64 + encSrc b))
  | .advr t h n => some (word t 0x50 (h * 32768 + n * 2048))
  | .advw t h n => some (word t 0x51 (h * 32768 + n * 2048))
  | .peek t h k d => some (word t 0x52 (h * 32768 + k * 2048 + encDst d))
  | .emit t h g a => some (word t 0x53 (h * 32768 + g * 256 + encSrc a))
  | .eos t h g => some (word t 0x54 (h * 32768 + g * 256))
  | .chq t h d => some (word t 0x55 (h * 32768 + encDst d))
  | .steer t i x y p => some (word t 0x58 (i * 32768 + x * 4096 + y * 512 + p * 64))
  | .merge t c a b o => some (word t 0x59 (c * 32768 + a * 4096 + b * 512 + o * 64))
  | .ld t d o w q e => some (word t 0x60 (encDst d * 4096 + encSrc o * 64 + w * 8 + b2n q * 4 + e))
  | .ldv t d o w q e => some (word t 0x61 (encDst d * 4096 + encSrc o * 64 + w * 8 + b2n q * 4 + e))
  | .st t a o w q e => some (word t 0x62 (encSrc a * 4096 + encSrc o * 64 + w * 8 + b2n q * 4 + e))
  | .stv t a o w q e => some (word t 0x63 (encSrc a * 4096 + encSrc o * 64 + w * 8 + b2n q * 4 + e))
  | .atomAdd t a o w q e => some (word t 0x64 (encSrc a * 4096 + encSrc o * 64 + w * 8 + b2n q * 4 + e))
  | .atomMin t a o w q e => some (word t 0x65 (encSrc a * 4096 + encSrc o * 64 + w * 8 + b2n q * 4 + e))
  | .atomMax t a o w q e => some (word t 0x66 (encSrc a * 4096 + encSrc o * 64 + w * 8 + b2n q * 4 + e))
  | .atomAnd t a o w q e => some (word t 0x67 (encSrc a * 4096 + encSrc o * 64 + w * 8 + b2n q * 4 + e))
  | .atomOr t a o w q e => some (word t 0x68 (encSrc a * 4096 + encSrc o * 64 + w * 8 + b2n q * 4 + e))
  | .atomXor t a o w q e => some (word t 0x69 (encSrc a * 4096 + encSrc o * 64 + w * 8 + b2n q * 4 + e))
  | .atomXchg t a o w q e => some (word t 0x6A (encSrc a * 4096 + encSrc o * 64 + w * 8 + b2n q * 4 + e))
  | .atomFadd t a o w q e => some (word t 0x6B (encSrc a * 4096 + encSrc o * 64 + w * 8 + b2n q * 4 + e))
  | .cas t a o w q e => some (word t 0x6C (encSrc a * 4096 + encSrc o * 64 + w * 8 + b2n q * 4 + e))
  | .fence t w q e => some (word t 0x6D (w * 8 + b2n q * 4 + e))
  | .gnew t d => some (word t 0x70 (encDst d * 4096))
  | .gfree t a => some (word t 0x71 (encSrc a * 64))
  | .join t a => some (word t 0x72 (encSrc a * 64))
  | .leave t a => some (word t 0x73 (encSrc a * 64))
  | .step t a => some (word t 0x74 (encSrc a * 64))
  | .fcmp t v d a b => some (word t (120 + v) (encDst d * 4096 + encSrc a * 64 + encSrc b))
  | .done t => some (word t 0x80 (0))
  | .beatq t d i => some (word t 0x81 (encDst d * 4096 + i))
  | .seq t d => some (word t 0x82 (encDst d * 4096))
  | .range t d a => some (word t 0x84 (encDst d * 4096 + encSrc a * 64))
  | .spawn t d a => some (word t 0x85 (encDst d * 4096 + encSrc a * 64))
  | .mxq t d o w => some (word t 0x86 (encDst d * 4096 + encSrc o * 64 + w * 8))
  | .wpr t d a => some (word t 0x87 (encDst d * 4096 + encSrc a * 64))
  | .bind cd g p r => some (word (encCond cd) 0x01 (g * 65536 + p * 256 + r))
  | .go cd g => some (word (encCond cd) 0x02 (g * 65536))
  | .bar cd => some (word (encCond cd) 0x03 (0))
  | .waitn cd n v => some (word (encCond cd) 0x04 (n * 16384 + v))
  | .waitnArg cd n j => some (word (encCond cd) 0x04 (n * 16384 + 8192 + j))
  | .enab cd n => some (word (encCond cd) 0x05 (n * 32768))
  | .sigd cd => some (word (encCond cd) 0x06 (0))
  | .cntw cd n e d => some (word (encCond cd) 0x07 (n * 32768 + (e - 1) * 2048 + (d - 1) * 128))
  | .loop cd n k => some (word (encCond cd) 0x08 (n * 8192 + (k - 1)))
  | .loopArg cd n j => some (word (encCond cd) 0x08 (n * 8192 + 4096 + j))
  | .arm cd q j => some (word (encCond cd) 0x09 (q * 32768 + j))
  | .disarm cd q => some (word (encCond cd) 0x0A (q * 32768))
  | .qfen cd m => some (word (encCond cd) 0x0B (m))
  | .beatPolicy cd j => some (word (encCond cd) 0x0C (j))
  | .beatFixed cd l => some (word (encCond cd) 0x0C (65536 + l))
  | .beatSet cd l => some (word (encCond cd) 0x0C (131072 + l))
  | .mark cd => some (word (encCond cd) 0x0D (0))
  | .recfg cd j => some (word (encCond cd) 0x0E (j))
  | .rsz cd x j => some (word (encCond cd) 0x0F (x * 4096 + j))
  | .haltc cd => some (word (encCond cd) 0x10 (0))
  | .beatEdge _ => none
  | .stretchEdge _ => none
  | .traceWalk _ => none
  | .lineFirstEdge _ => none
  | .reworkResume _ _ => none
  | .lineStall _ => none
  | .eosCommit _ _ _ => none
  | .loadReturn _ => none
  | .atomicReturn _ => none
  | .storeAccept _ => none
  | .xlatLookup _ => none
  | .walkResult _ => none
  | .patternVisit _ _ _ => none
  | .copyEntry _ _ _ => none
  | .copyBeat _ _ _ => none
  | .armComplete _ _ _ => none
  | .disarmAck _ _ _ => none
  | .countAck _ => none
  | .countTokenCommit _ _ _ => none
  | .mcastJoinToken _ _ _ _ => none
  | .mxqRecordRead _ => none
  | .mxTaskIssue _ _ => none
  | .mxTaskComplete _ _ => none
  | .voterToken _ _ _ => none
  | .swageConvert _ _ => none
  | .planeSwapDone _ _ => none
  | .lqDb _ _ _ => none
  | .launchRecord _ _ => none
  | .linePlacement _ => none
  | .prerequisitesMet _ => none
  | .spawnAnswer _ => none
  | .rangeAnswer _ => none
  | .lineComplete _ => none
  | .boltScrubDone _ => none
  | .spScrubComplete _ => none
  | .sliceExpiry _ => none
  | .roundEntry _ _ => none
  | .tileSave _ _ => none
  | .quiescentPreempt _ => none
  | .lineRestore _ => none
  | .recfgDrained _ => none
  | .rszComplete _ => none
  | .lstRsz _ _ _ => none
  | .fltResumeResume _ _ => none
  | .fltResumeEnd _ _ => none
  | .fltResumeSkip _ _ => none
  | .fltResumeNone _ _ => none
  | .resumePortToken _ _ => none
  | .fqHead _ _ => none
  | .errBudget _ _ _ => none
  | .partGrant _ _ _ => none
  | .xlShoot _ _ _ => none
  | .shootdownDone _ _ => none
  | .atsInvalidation _ _ _ => none
  | .remoteWrite _ _ _ _ _ => none
  | .guardDrop _ _ => none
  | .counterWrap _ _ _ => none
  | .powerThrottle _ => none
  | .powerOn _ => none
  | .attestationRequest _ => none
  | .registerWrite _ _ _ => none
  | .rowRefused _ _ _ => none
  | .endedByHost _ => none

/-- A controller command (R87). -/
def Instr.isCommand : Instr → Bool
  | .bind .. | .go .. | .bar .. | .waitn .. | .waitnArg .. | .enab .. | .sigd ..
  | .cntw .. | .loop .. | .loopArg .. | .arm .. | .disarm .. | .qfen .. | .beatPolicy ..
  | .beatFixed .. | .beatSet .. | .mark .. | .recfg .. | .rsz .. | .haltc .. => true
  | _ => false

/-- The number of 32-bit words an encoded instruction takes. -/
def wordsOf (_ : Instr) : Nat := 1

/-- The instruction the decoder reads from a word numbered as the opcode table numbers it. The element and the command
maps overlap (04_opcode_map.md): a word is read as an element word when it is one with a trigger other than g0, which never
fires (R66), else as a command, else as an element word under g0 (log 10). -/
def decodeTableWord (nbits w : Nat) : Option Instr :=
  if nbits ≠ 32 ∨ 4294967296 ≤ w then none
  else if w / 67108864 = 0 then
    match decodeCmd w with
    | .ok i => some i
    | .error _ => (decodeElem w).toOption
  else
    match decodeElem w with
    | .ok i => some i
    | .error _ => (decodeCmd w).toOption

end Sys2Proof
end

