-- ==== Sys2Proof/Config.lean ====
section
/-!
DEFINITION. What the spec leaves open (opaque constants: no proof can see a value) and what one implementation fixes.
-/
namespace Sys2Proof

/-- The free choice number `n` of a partition: the scheduler's answers where the spec gives no order or time, and the choice among the
values the spec allows a read to return (R46, R116, R135, R142, R174, R375; log 1, log 7). -/
opaque Config.choice : Nat → Nat → Nat

/-- The sequence number of a token written while the station holds no item (R45 names none; log 11). -/
opaque Config.freeSeq : Nat → Nat → BitVec 16

/-- SHAKE256, 32 or 64 bytes out (R230, R232, R239 name it and leave its definition outside the spec; log 12). -/
opaque Config.shake256 : Nat → List Byte → List Byte

/-- The ML-DSA-65 signature made with the key derived from the identity key (R230; log 12). -/
opaque Config.mlDsa : List Byte → List Byte

/-- Whether bolt `b2` adjoins bolt `b1` on side `side` (0 N, 1 E, 2 S, 3 W): R190 uses it, no rule gives it (log 13). -/
opaque Config.adjacent : Nat → Nat → Nat → Bool

/-- What a byte of memory that nothing has written reads as (R118, R134, R220, R221; log 6). -/
def Config.unwritten : Byte := 0

/-- Mailboxes a partition and the highest spawn depth (R231). -/
def Config.mailboxes : Nat := 256
def Config.spawnDepth : Nat := 4

/-- The device code, the revision and the SKU code (R231, R232 name them and give no value; log 12). -/
opaque Config.deviceCode : Word
opaque Config.revision : Word
opaque Config.skuCode : List Byte

/-- The version of a capability, by its place in the list, and what chooses its offset (R231 gives neither; log 12). -/
opaque Config.capVersion : Nat → BitVec 4
opaque Config.capPlace : Nat → Nat

/-- The offsets a capability's eight bytes may have: 4-aligned, in the identification area, behind its registers (R231). -/
def Config.capSlots (from_ : Nat) : List Nat := (List.range 1007).map fun k => 0x40 + 4 * ((from_ + k) % 1007)

/-- The offsets of the first `n` capabilities, the newest first: none overlaps another. -/
def Config.capOffsets : Nat → List Nat
  | 0 => []
  | n + 1 =>
    let old := Config.capOffsets n
    (((Config.capSlots (Config.capPlace n)).find? fun o => old.all fun p => p + 8 ≤ o || o + 8 ≤ p).getD 0x40) :: old

/-- The offset of a capability (R231; log 12). -/
def Config.capOffset (n : Nat) : Nat := (Config.capOffsets (n + 1)).headD 0x40

/-- The capabilities: identifier and body (R231). -/
def Config.capabilities : List (Nat × Nat) :=
  [(1, 8192), (2, 7), (3, 4), (4, 1), (5, 64), (6, 1), (7, Config.mailboxes), (8, Config.spawnDepth)]

/-- The header of the capability at a place in the list: next offset, version, identifier; the last offset is 0 (R231). -/
def Config.capHeader (n : Nat) : Nat :=
  (if n + 1 < Config.capabilities.length then Config.capOffset (n + 1) else 0) * 2 ^ 20 + (Config.capVersion n).toNat * 2 ^ 16
    + ((Config.capabilities[n]?).map Prod.fst).getD 0

/-- The four bytes of a word, little-endian (R9). -/
def Config.bytes4 (v : Nat) : List Byte := (List.range 4).map fun i => BitVec.ofNat 8 (v / 256 ^ i)

/-- What CFG_FP digests: the SKU code and the capability list, headers and bodies (R232). -/
def Config.fingerprint : List Byte :=
  Config.skuCode ++ (List.range Config.capabilities.length).flatMap fun n =>
    Config.bytes4 (Config.capHeader n) ++ Config.bytes4 (((Config.capabilities[n]?).map Prod.snd).getD 0)

end Sys2Proof
end

