-- ==== Sys2Proof/Machine/State.lean ====
section
/-!
DEFINITION. The state: every piece of state the spec gives the machine, as plain data, and the state after reset.
`Fabric` is everything but memory; `State` adds memory, in one canonical form. A line is named by `vf * 64 + number`
(R222, R224), a tile of a line by logical bolt * 16 + tile, an element by its logical thread number (R40).
-/
namespace Sys2Proof.Machine

/-- A register's lanes and its poison bit (R39). -/
structure Reg where
  v : Lanes
  poison : Bool
  deriving DecidableEq, Repr

/-- Zero, not poisoned: the reset value of `lat`, o0 to o7 and m0 to m63 (R39). -/
def Reg.zero : Reg := ⟨Lanes.zero, false⟩

/-- A token (R41): payload 256 bits, tag 4, poison 1, source node 12, sequence number 16; `rel` lists the accesses its
commit releases (R143). -/
structure Token where
  payload : Lanes
  tag : Nat
  poison : Bool
  node : Nat
  seq : Nat
  rel : List Nat
  deriving DecidableEq, Repr

/-- An end of a channel (R43, R104, R162, R167, R177, R195, R211). -/
inductive End where
  | elem (l th h : Nat)
  | inbox (l st : Nat)
  | gen (tile g : Nat)
  | queue (tile q : Nat)
  | join (tile q k : Nat)
  | count (tile n : Nat)
  | chain (tile : Nat)
  | voterIn (v copy : Nat)
  | voterOut (v : Nat)
  | sink
  | boundary
  | resume
  deriving DecidableEq, Repr

/-- A committed slot: its token and the cycle from which the reader sees it (R46). -/
structure Slot where
  tok : Token
  seen : Nat
  deriving DecidableEq, Repr

/-- A staged slot: its token, the access whose value it awaits (R318), and whether a commit of it has fired. -/
structure Staged where
  tok : Token
  await : Option Nat
  committed : Bool
  deriving DecidableEq, Repr

/-- A channel (R43, R46, R48, R105, R287, R374). Channels of a line are keyed by its number and their record index;
mailboxes and links by the partition key. -/
structure Chan where
  line : Nat
  num : Nat
  writer : End
  reader : End
  depth : Nat
  conv : Nat
  delay : Nat
  gate : Bool
  crossTile : Bool          -- its ends lie in different tiles: a round input of its reader's tile (R215)
  swage : Option Nat        -- the tile of the swage node its route passes (R104)
  swageHop : Nat            -- how many of its `ports` the route passes before that node (R226, R255)
  ports : List Nat          -- the edge ports its route leaves bolts by: logical bolt * 16 + side * 4 + k (R4, R226, R255)
  bnode : Bool              -- its route passes a boundary node of the partition (R145, R226)
  q : List Slot
  raw : List Slot           -- committed tokens the swage node has not taken (R104)
  part : List Token         -- the partial pack (R105)
  staged : List Staged
  pend : Option Token       -- the pending end-of-stream (R48)
  nodePend : Option Token   -- the end-of-stream pending at the swage node's output (R105)
  nodeEos : Nat             -- the cycle in which the node last took an end-of-stream token (R105)
  freed : List Nat          -- cycles from which popped slots are free for the writer (R46)
  closed : Bool             -- a closed mailbox or link (R194, R195)
  gateRec : Option (List Token)   -- what a gate recorded from its reader's round entry to the marker, once that came (R216)
  deriving DecidableEq, Repr

/-- A handle's binding (R79, R16, R370). -/
inductive Handle where
  | unbound
  | inbox
  | outbox
  | chan (l n : Nat)
  deriving DecidableEq, Repr

/-- A window (R114): the base is a virtual address; `region` is the region record it lies over, if any. -/
structure Window where
  base : Nat
  len : Nat
  scope : Nat
  gen : Nat
  region : Option Nat
  deriving DecidableEq, Repr

/-- A result still awaited from access or request `id` (R50): its destination and whether it is to be discarded (R20). -/
structure Await where
  id : Nat
  d : Dst
  drop : Bool
  deriving DecidableEq, Repr

/-- A last-arrival record (R236). -/
structure Arrival where
  node : Nat
  code : Nat
  cycle : Nat
  deriving DecidableEq, Repr

/-- What a release made visible: its party (a line and a thread or engine), scope and the accesses before it. -/
structure Release where
  line : Nat
  th : Nat
  scope : Nat
  ids : List Nat
  deriving DecidableEq, Repr

/-- An element (R39). -/
structure Elem where
  line : Nat
  thread : Nat
  station : Nat
  slots : Vector Word 32
  guards : Vector (BitVec 64) 64
  nodes : List (Nat × Nat × Nat)   -- slot, source node 12 bits, loop-index register (R80)
  preds : BitVec 7
  lat : Reg
  o : Vector Reg 8
  m : Vector Reg 64
  k : Vector Lanes 8
  h : Vector Handle 8
  w : Vector (Option Window) 8
  ifmt : Nat
  ffmt : Nat
  rnd : Nat
  sat : Bool
  rot : Bool
  start : BitVec 7
  rotPtr : Nat
  awaits : List Await
  arrivals : Vector Arrival 8
  eosNow : List Nat          -- output handles that took an end-of-stream write this cycle (R48)
  lastFire : Nat             -- cycle of its previous firing (R236)
  loads : List (Nat × Nat)   -- registers that hold a load's value (0 `lat`, n + 1 on), with its cycle of return (R236)
  redo : Option Nat          -- the slot whose faulting firing a resume re-executes (R64)
  know : List Nat            -- accesses hb-before its later ones (R138 to R141)
  mine : List Nat            -- every access it has issued
  wins : List (Nat × Nat)    -- window and access of each (R135)
  fences : List (Nat × List Nat)   -- release fences: scope and what they cover (R139)
  reads : List Release       -- releases its plain loads have read (R139, acquire fence)
  deriving DecidableEq, Repr

/-- An item at a station (R15, R17, R284). -/
structure Item where
  seq : Nat
  desc : Token
  out : Option Token
  marks : List Nat
  done : Option Nat
  late : Bool                -- completed after the beat's last cycle (R19)
  deriving DecidableEq, Repr

/-- A rework slot (R21, R23): states 0 free, 1 waiting, 2 finished, 3 resuming. -/
structure LoopSlot where
  state : Nat
  tok : Token
  spilled : Nat
  carry : List Reg
  age : Nat
  deriving DecidableEq, Repr

/-- A station (R16 to R26). Carry entries: an element's thread and o0 to o7 as 0 to 7, m0 to m63 as 64 to 127. -/
structure Station where
  line : Nat
  num : Nat
  tile : Nat
  elems : List Nat
  doneSet : List Nat
  carry : List (Nat × Nat)
  mx : Bool                  -- it includes its tile's MX (R16)
  vote : Option (Nat × Nat)  -- it is a copy of a voted station: its voter and which copy (R177)
  route : Nat                -- cycles of its hand-off route
  ports : List Nat           -- the edge ports its hand-off route leaves bolts by (R226, R255)
  item : Option Item
  loop : List LoopSlot
  resumed : Option (Nat × Item)
  restore : Nat
  ageCtr : Nat
  itemAt : Nat               -- cycle in which its inbox took the item (R236)
  deriving DecidableEq, Repr

/-- The bellows registers (R32), each 32 bits, and the pending BEAT (R270). -/
structure Bellows where
  fixed : Bool
  ovfRaise : Bool
  stretched : Bool
  beat : Nat
  floor : Nat
  min : Nat
  max : Nat
  up : Nat
  down : Nat
  window : Nat
  low : Nat
  high : Nat
  wovr : Nat
  wbeats : Nat
  wstr : Bool
  stall : Nat
  ovr : Nat
  ovf : Nat
  str : Nat
  deriving DecidableEq, Repr

/-- A BEAT command (R269): the policy fields, or a fixed or set length. -/
inductive BeatCmd where
  | policy (lanes : Lanes)
  | fixed (l : Nat)
  | set (l : Nat)
  deriving DecidableEq, Repr

/-- A BEAT or MARK on its way to the source tile: when it is accepted, and the controller it came from (R270, R328). -/
structure Posted where
  at_ : Nat
  tile : Nat
  ct : Nat
  cmd : Nat
  beat : Option BeatCmd
  deriving DecidableEq, Repr

/-- A range unit (R196). -/
structure RangeUnit where
  given : Bool
  next : Nat
  stop : Nat
  minChunk : Nat
  memb : Nat
  deriving DecidableEq, Repr

/-- A critical-path walk in progress (R237): sequence number, beat, the element and output handle it starts from. -/
structure Walk where
  seq : Nat
  beat : Nat
  th : Nat
  h : Nat
  deriving DecidableEq, Repr

/-- A line (R15 to R38, R185, R189, R212 to R219). -/
structure Line where
  id : Nat
  vf : Nat
  pasid : Nat
  tag : Nat
  depth : Nat                -- spawn depth (R193)
  spawner : Option Nat       -- the spawning element's line and thread, line * 16384 + thread
  image : Nat                -- virtual address of its image
  args : Nat                 -- virtual address of its argument block
  nargs : Nat
  cpl : Nat
  msix : Bool
  vec : Nat
  persist : Bool
  handler : Bool
  pre : List (Nat × Nat × Nat × Nat)   -- prerequisites: TAG, tile, node, count (R187)
  state : Nat                -- LST_STATE (R185)
  cls : Nat
  unordered : Bool
  gap : Nat
  bolts : List Nat           -- physical bolt of each logical bolt (R185)
  links : List (Nat × Nat × Nat)   -- edge links: logical bolt, port side * 4 + k, logical bolt (R4, R190)
  source : Nat
  sinkStation : Nat
  srcChan : Option (Nat × Nat)         -- the channel its input is read from (R369)
  routes : List (Nat × Nat)  -- route latency from a tile to the source tile (R270, R328, R348)
  swPorts : List (Nat × Nat × Nat × Nat)   -- switch ports the route report names: tile, port, its channel's key and number (R273)
  placedAt : Nat
  sliceFrom : Nat
  begun : Bool               -- the edge that opens beat 0 has come (R368)
  beatIx : Nat
  beats : Nat
  cyc : Nat
  overflowing : List Nat
  stretch : Nat
  stallFrom : Nat
  noEdge : Bool              -- pre-emption markers committed: no further edge (R217)
  stop : Option Nat          -- the fault code that stopped it (R377)
  stopSoon : Option Nat      -- stops at the end of this cycle (R64)
  bel : Bellows
  pendBeat : Option BeatCmd
  posted : List Posted
  marks : List Nat           -- accepted MARK commands not yet served (R328)
  nextSeq : Nat
  lastSeq : Option Nat
  eosTok : Option Token      -- the end of the input, once it has come (R31)
  eosDone : Bool             -- the sink has emitted the closing end-of-stream
  next : Nat
  held : List Token
  emitq : List Token         -- emitted tokens not yet committed to the line's output (R30)
  kept : List (Token × Nat)  -- kept descriptors and their re-injection counts (R212)
  reinject : List Nat
  bad : List Token           -- poisoned results that raised MEM_UNCORR (R213)
  admitted : Nat
  emitted : Nat
  round : Nat
  ranges : List RangeUnit
  closing : Bool             -- source closed by RECFG (R183)
  recfg : List (Nat × Nat × Nat)   -- queued RECFG: image, tile, controller
  saved : Bool
  dirty : List (Nat × Nat × Nat)   -- dirty frames: virtual page, physical frame, class (R129, R239)
  walk : Option Walk
  quiet : Nat                -- cycles with no firing and no token moved (R217)
  moved : Bool
  know : List Nat            -- what its launch acquired: every access of the line comes after it (R154, R356)
  saveFrames : List Nat      -- frames of its save area (R218)
  launchId : Nat
  runFrom : Nat              -- the first cycle its beat counts: a start, a resume or a restore acts within the cycle before
  preempt : Bool             -- pre-emption markers are due at the next edge (R217, R252)
  rounds : List (Nat × Bool) -- rounds whose markers are committed: number, pre-emption (R214)
  endStatus : Option Nat     -- the status its completion record is to carry once its work is done
  deriving DecidableEq, Repr

/-- An address pattern (R159) with its window's base and length. -/
structure Pattern where
  write : Bool
  eosend : Bool
  size : Nat
  base : Nat
  counts : Nat × Nat × Nat
  strides : Int × Int × Int
  win : Window
  winNum : Nat               -- the number its element gives that window (R160)
  who : Nat                  -- the thread whose window it is
  deriving DecidableEq, Repr

/-- A token in a switch port's input link register, and the generator that delivered it (R253, R312). -/
structure Linked where
  port : Nat
  gen : Nat
  tok : Token
  deriving DecidableEq, Repr

/-- An address generator's pattern side (R158 to R161) and its halt (R207). -/
structure AGen where
  line : Nat
  tile : Nat
  num : Nat
  pat : Option Pattern
  port : Nat
  running : Bool
  visit : Nat
  lanes : List (Word × Bool)     -- lanes of the token being gathered, or left of the token being written
  halted : Bool
  skip : Bool                    -- its visit is to be dropped, once its port's link register has room (R206, R253)
  kept : List (Nat × Nat × Nat × Bool)   -- window (its element's thread * 8 + its number), leaf's cache key, leaf entry, obtained by a write or a compare-and-swap (R200)
  ended : Bool                   -- the bound pattern has ended (R182)
  id : Nat                       -- the access number of its run
  know : List Nat
  deriving DecidableEq, Repr

/-- A word's memory request (R158). -/
inductive AccKind where
  | ld | ldv | st | stv | fence | mxq
  | atom (op : Nat)
  | cas
  deriving DecidableEq, Repr

/-- A decoupling-queue entry (R158). -/
structure Acc where
  id : Nat
  line : Nat
  th : Nat
  slot : Nat
  kind : AccKind
  gen : Nat
  win : Nat
  d : Dst
  off : Lanes
  data : Lanes
  cmp : Lanes
  poison : Bool
  ordered : Bool             -- bit [2] of the word
  scope : Nat
  seq : Nat
  node : Nat
  loopv : Nat
  phys : List (Option (Nat × Bool × Nat))   -- per word: physical address, region or page writable by class, class
  keys : List Nat            -- cache keys of the leaves it is translated with (R199, R205)
  miss : Bool                -- a miss token is with the walker (R198)
  halted : Bool
  need : List Nat            -- accesses that must be performed first
  know : List Nat
  base : List Nat            -- what its element had acquired when it issued, and what its record's read came after: an MXQ's task comes after that (R336)
  late : List Nat            -- writes of swaps that come after it: it reads none of them (R142, R151, R152)
  negOff : Bool              -- its offset is a negative immediate (R317)
  got : List (Nat × Word × Bool)    -- an atomic's lanes performed so far, with what they read (R266)
  gotRels : List Release     -- the releases those lanes read
  result : Option (Lanes × Bool)    -- an MXQ result waiting for queue room (R335)
  rels : List Release        -- the releases its write makes (R137, R139)
  stepAt : List (Nat × Nat)  -- for each region it stores to, the step its contributions belong to (R120)
  deriving DecidableEq, Repr

/-- A write in a word's history (R142): its access, the word, its value and poison, what is hb-before it, its release. `sub`
orders the writes one access makes to one word (R146), `whole` marks those of an STV, and `stamp` tells which launches it precedes: it
is at most the number of a launch accepted after it, and 0 for an initial value (R134). -/
structure HistW where
  id : Nat
  sub : Nat
  whole : Bool
  word : Nat
  val : Word
  poison : Bool
  know : List Nat
  rel : List Release
  stamp : Nat
  deriving DecidableEq, Repr

/-- A copy channel (R162, R164, R165). -/
structure CopyCh where
  line : Nat
  tile : Nat
  num : Nat
  wp : Nat
  entry : Nat
  queue : Nat
  busy : Bool
  tok : Token
  row : Nat
  branch : Nat
  off : Nat
  rows : Nat
  id : Nat
  scope : Nat                -- the SCOPE of its entry's template (R165)
  ids : List Nat             -- the writes of its entry's beats delivered so far (R165)
  know : List Nat
  beatsDone : Bool           -- every beat is delivered; acknowledgements may be outstanding
  poi : Bool                 -- a beat of the current row was poisoned
  src : Option (Nat × Bool)  -- gather: the row's index and its poison, once read
  halted : Bool
  last : Nat                 -- the queue served last, for the round robin
  deriving DecidableEq, Repr

/-- The control block's fields (R163). -/
structure Template where
  addr : Nat
  gather : Bool
  cross : Bool
  remote : Bool
  mcast : Bool
  wbuf : Bool
  scope : Nat
  node : Nat
  count : Bool
  decl : Nat
  src : Nat
  dst : Nat
  rowb : Nat
  rows : Nat
  sstr : Int
  dstr : Int
  idx : Nat
  dev : Nat
  mbr : Nat
  mbuf : Nat
  bstr : Int
  deriving DecidableEq, Repr

/-- A hardware queue (R162, R166, R169, R347). `arming` is the address of a block being read for command `armCmd`. -/
structure HwQ where
  line : Nat
  tile : Nat
  num : Nat
  tmpl : Option Template
  arming : Option Nat
  armCmd : Nat
  disarm : Option Nat
  halted : Bool
  entries : Nat              -- entries completed
  started : Nat
  joins : List (List (List Nat))  -- spaces held from each branch, each with what its token released (R143, R169)
  fens : List (List (Nat × Nat) × Nat)   -- QFEN recordings: (queue, tokens placed) and this queue's own recorded count
  doneIds : List (List Nat)  -- for each completed entry, oldest first, its accesses and what they came after (R141)
  permits : List (List Nat)  -- permits held, the oldest first, each with what its spaces' tokens released (R169)
  know : List Nat            -- what its ARM comes after (R265)
  deriving DecidableEq, Repr

/-- A count node (R167, R168). -/
structure Cnt where
  line : Nat
  tile : Nat
  num : Nat
  chan : Option Nat
  scope : Nat
  pois : Bool
  tgt : Nat
  val : Nat
  tot : Nat
  addr : Option Nat          -- virtual address of its counter word
  queue : List Token         -- completion tokens waiting for room: PEND is their number
  ids : List Nat             -- the writes it has counted, and what they came after (R141, R149)
  fired : Nat
  rel : List Nat             -- accesses its firings have released at line scope or wider (R149)
  deriving DecidableEq, Repr

/-- Words acknowledged at their home and not yet taken by their count node. -/
structure Ack where
  id : Nat
  line : Nat
  tile : Nat
  num : Nat
  words : Nat
  poison : Bool
  acc : Nat                  -- the entry or task that awaits it
  wid : Nat                  -- the write it acknowledges (R149, R168)
  know : List Nat            -- what that write came after (R141)
  counted : Bool             -- it counts at a count node
  remote : Option (Nat × Nat × Nat)   -- a remote row: its channel, row and branch (R164)
  deriving DecidableEq, Repr

/-- A fetched column of B: its bytes, the S20 codes of its blocks for QN4, and its poison (R98, R100, R171). -/
structure Col where
  bytes : List Byte
  scales : List Nat
  poison : Bool
  deriving DecidableEq, Repr

/-- A tile-task record (R172), its issuer and its progress (R175). -/
structure Task where
  id : Nat
  line : Nat
  th : Nat
  seq : Nat
  node : Nat
  pair : Nat
  init : Bool
  mir : Bool
  bwb : Bool
  queue : Nat
  scope : Nat
  cnt : Nat
  count : Bool
  wtile : Nat
  m : Nat
  n : Nat
  k : Nat
  a : Nat
  sa : Nat
  woff : Nat
  b : Nat
  c : Nat
  sc : Nat
  sb : Nat
  chain : Option Nat
  decl : Nat
  know : List Nat
  arr : Nat                  -- the array it runs on
  mismatch : List (Nat × Nat)  -- outputs whose two halves differ, drawn freely when the task issues (R176)
  halted : Bool
  cols : List Col            -- columns of B fetched so far
  row : Nat                  -- rows written
  rowA : Option (List Byte × Bool)   -- the current row of A, once read, with its poison (R175)
  rowC : Option (List Byte × Bool)   -- the current row of C, once read
  put : Nat                  -- words of the current row written
  wid : Nat                  -- the access number of the current row's writes
  out : List Token           -- chain tokens of the last row, not yet committed
  deriving DecidableEq, Repr

/-- A bolt's task scheduler (R173, R174). -/
structure MxBolt where
  line : Nat
  bolt : Nat
  ticket : Nat
  queues : List (List Task)
  flight : List Task
  deriving DecidableEq, Repr

/-- A voter node (R177): VOT_CNT and VOT_LAST, the tokens held and those forwarded. -/
structure Voter where
  line : Nat
  num : Nat
  dis0 : Nat
  dis1 : Nat
  dis2 : Nat
  lastCopy : Nat
  lastSeq : Nat
  held : List (Nat × Token)
  fwd : List (Nat × Token)   -- forwarded, with a copy still to come
  wait : List (Nat × Token)  -- handed on by the copies of a voted station and not yet taken, in order
  out : List Token           -- forwarded and not yet taken by the station behind a voted one
  tile : Nat                 -- the consumer's tile
  deriving DecidableEq, Repr

/-- A tile of a line: round (R215), counters (R240), weight buffer (R170), translation cache (R199). -/
structure Tile where
  line : Nat
  num : Nat
  round : Nat
  roundAt : Nat              -- cycle in which it entered its round (R215)
  inRound : Bool             -- it has entered a pre-emption round and fires nothing
  saved : Bool
  ctr : Vector Nat 16
  sel : Vector Nat 16
  ien : BitVec 16
  ovf : BitVec 16
  swage : Option (Nat × Nat × Nat)   -- its swage node's last step: channel and cycle (R104)
  links : List Linked        -- the input link registers of its switch's ports, the oldest token first, up to two for a port (R253)
  captured : List Linked     -- what they held at a pre-emption's save (R217, R219)
  now : List Nat             -- event codes of this cycle
  wrote : List (Nat × Nat)   -- counters written in this cycle, with their values, the newest first (R242)
  wbuf : List (Nat × Byte)
  wbufPoison : List Nat
  xlat : List (Nat × Nat × Nat)    -- interface, virtual page, the leaf entry; the newest first
  cmdAccs : List Nat               -- accesses of its commands, and what they came after (R141)
  barKnow : List Nat               -- those its BARs have ordered (R148)
  mxAccs : List Nat                -- accesses of its matrix tasks' rows
  deriving DecidableEq, Repr

/-- A controller (R178 to R182). -/
structure Ctl where
  line : Nat
  tile : Nat
  num : Nat
  mode : Nat                 -- 0 seq, 1 pipe, 2 stream
  parent : Nat
  table : List Word
  pats : List Pattern
  started : Bool
  stopped : Bool
  pos : Nat
  nodeBase : List (Nat × Nat)  -- per position, its node's firings when the command was reached
  loops : List (Nat × Nat)     -- running LOOP counts by position
  once : List Nat            -- stream commands of kind 00 already issued
  enabWin : Nat              -- windows of the edge from its parent (R179)
  doneWin : Nat
  enabWait : Nat             -- enable tokens waiting
  enabOut : List Nat         -- outstanding enables to it: the parent's commands, oldest first
  doneWait : Nat             -- its done tokens waiting at the parent
  sigs : Nat
  haltAt : Option Nat        -- a pipe HALTC issued, stopping when earlier commands complete
  know : List Nat            -- accesses it has acquired (R149, R265)
  deriving DecidableEq, Repr

/-- A command of a tile not yet complete (R181, R182). -/
structure Cmd where
  id : Nat
  line : Nat
  tile : Nat
  ct : Nat
  pos : Nat
  kind : Nat                 -- its opcode (R87)
  arg : Nat
  val : Nat
  placed : List (Nat × Nat)  -- a BAR's: the armed queues and the tokens placed on each when it issued (R268)
  deriving DecidableEq, Repr

/-- A contribution to a planed word in the current step (R119, R121). -/
structure Contrib where
  word : Nat
  who : Nat
  val : Word
  poison : Bool
  slot : Nat
  node : Nat
  seq : Nat
  entry : Nat                -- 0 the next plane, 1 a collision-buffer entry, n + 2 overflow entry n (R123)
  step : Nat
  deriving DecidableEq, Repr

/-- A region of a line (R113, R376). -/
structure Region where
  line : Nat
  num : Nat
  name : Nat                 -- its `.region` name, by which RECFG keeps its contents (R183)
  size : Nat
  cls : Nat
  planes : Nat
  collide : Nat
  discard : Bool
  slice : Bool
  group : Option Nat
  ovf : Nat
  tile : Nat
  at_ : Nat                  -- offset in the region area
  base : Nat                 -- slice region: offset in the slice
  pages : List (Nat × Bool)  -- DRAM region: physical frame address of each page, quota charged
  ovfPages : List Nat        -- frames of its overflow area (R123)
  contribs : List Contrib
  swapping : Bool            -- a beat-bound swap held by a collision
  deriving DecidableEq, Repr

/-- A group (R62, R63, R120). -/
structure Group where
  vf : Nat
  num : Nat
  line : Nat
  members : List Nat
  arrived : List Nat
  joining : List Nat
  step : Nat
  swapBy : Option Nat        -- a completed step waits for its swap, to be done by this cycle
  collided : Bool            -- the swap is held by a collision, or resumed after one (R122)
  waiting : List Nat         -- members of the step just completed, until its swap is done (R120)
  relIds : List Nat          -- accesses before the members' STEPs (R151)
  stepIds : List (Nat × Nat) -- the STEPs of the current step: thread and number (R151)
  doneIds : List Nat         -- the STEPs of the steps completed whose swap is not done
  swapIds : List Nat         -- those before the STEPs of the steps completed
  deriving DecidableEq, Repr

/-- The unit a record halts, for its resume (R206). -/
inductive Unit_ where
  | none
  | firing (th slot : Nat)
  | access (id : Nat)
  | pattern (tile g : Nat)
  | copy (tile ch : Nat)
  | row (tile ch : Nat)
  | arm (tile q : Nat)
  | task (id : Nat)
  | sink (seq : Nat)
  | bellows
  | planes (g : Option Nat)
  | budget
  | guard (port cycle count : Nat)
  | image                    -- none: the record tells of an image that failed a check (R81)
  deriving DecidableEq, Repr

/-- A fault record (R208) and what its resume acts on. -/
structure Rec where
  vf : Nat
  code : Nat
  resumable : Bool
  halted : Bool
  pasid : Nat
  line : Nat                 -- the line's key; its number is the key mod 64
  hasLine : Bool
  bolt : Nat
  tile : Nat
  elem : Nat
  slot : Nat
  mask : Nat
  kind : Nat
  unit : Nat
  seq : Nat
  node : Nat
  loopv : Nat
  addr : Nat
  beat : Nat
  detail : Nat
  index : Option Nat         -- its ring index once written
  what : Unit_
  deriving DecidableEq, Repr

/-- An error cost to be charged (R130) and the unit it names in an EBUDGET record (R131). -/
structure Charge where
  vf : Nat
  cost : Nat
  rec_ : Rec
  index : Nat                -- its unit's index, by which charges of one cycle are ordered (R210)
  deriving DecidableEq, Repr

/-- A partition's registers (R130, R209, R222, R223, R238, R239) and the state behind them. -/
structure Part where
  vf : Nat
  remain : Nat
  owed : Nat
  muslin : Nat
  fqBase : Nat
  fqVec : Nat
  fqHen : Bool
  fqLog : Nat
  fqHead : Nat
  fqTail : Nat
  fqLost : Nat
  lostFlag : Bool
  grant : Nat
  acct : Nat
  trcBase : Nat
  trcPeriod : Nat
  trcLog : Nat
  trcLost : Nat
  trcTail : Nat
  digBase : Nat
  digLen : Nat
  digOver : Nat
  ebudget : Bool             -- stopped by EBUDGET (R131)
  digCount : Nat             -- records of the digest array in use
  frames : List Nat          -- frame map (R225)
  pool : List Nat            -- pool map (R225)
  poolUsed : List Nat
  released : List Nat        -- accesses that completion records have released (R155)
  deriving DecidableEq, Repr

/-- An interface's registers (R132, R186, R191, R202, R205, R228). -/
structure Iface where
  vf : Nat
  ps : Nat
  lqBase : Nat
  lqLog : Nat
  lqTail : Nat
  lqAcc : Nat
  slice : Nat
  weight : Nat
  prio : Nat
  limit : Nat
  used : Nat
  rootFrame : Nat
  rootClass : Nat
  rootEn : Bool
  busy : Bool
  vpage : Nat
  npage : Nat
  heldShoot : List Nat       -- writes held while BUSY (R205)
  shootAccs : List Nat       -- accesses translated with a dropped entry, not yet performed
  ats : List (Nat × List Nat)   -- ATS invalidations not yet answered: the range, the accesses each awaits (R228)
  peerDev : Nat
  peerLen : Nat
  peerBase : Nat
  deriving DecidableEq, Repr

/-- An accepted launch or configuration request waiting for its line (R187, R188, R193). -/
structure Launch where
  id : Nat
  vf : Nat
  ps : Nat
  flags : Nat
  seq : Nat
  tag : Nat
  image : Nat
  args : Nat
  narg : Option Nat
  cpl : Nat
  pre : List (Nat × Nat × Nat × Nat)
  vec : Nat
  depth : Nat
  spawner : Option Nat
  since : Nat
  know : List Nat            -- accesses its line's accesses come after (R154, R356)
  deriving DecidableEq, Repr

/-- A SPAWN or RANGE request on its way (R193, R348). -/
structure Request where
  id : Nat
  line : Nat
  th : Nat
  spawn : Bool
  a : Lanes
  poison : Bool
  d : Dst
  seq : Nat
  node : Nat
  at_ : Nat
  need : List Nat            -- accesses a SPAWN's release waits for (R356)
  deriving DecidableEq, Repr

/-- A spawn port's link (R195): its channel among the partition's, the spawning element, the port, its direction, and the
launch and line it leads to. -/
structure Link where
  vf : Nat
  num : Nat
  line : Nat
  th : Nat
  port : Nat
  down : Bool
  handle : Nat
  launch : Option Nat
  deriving DecidableEq, Repr

/-- A row sent to another device (R164, R228). -/
structure Sent where
  dev : Nat
  ps : Nat
  addr : Nat
  bytes : List Byte
  poison : Bool
  deriving DecidableEq, Repr

/-- A resize request (R184): a command, or the host's LST_RSZ when `cmd` is 0. -/
structure Resize where
  id : Nat
  line : Nat
  region : Nat
  val : Nat
  cmd : Nat
  deriving DecidableEq, Repr

/-- A source-node entry of an image (R80). -/
structure NodeEntry where
  tile : Nat
  elem : Nat
  slot : Nat
  node : Nat
  loop : Nat
  zeroOk : Bool              -- its zero fields are zero
  deriving DecidableEq, Repr

/-- The element record of an image (R79, R80), with its handles and windows resolved to record indices. -/
structure ElemRec where
  tile : Nat
  elem : Nat
  station : Nat
  slots : List Word
  guards : List (BitVec 64)
  consts : List Lanes
  constArg : List (Option Nat)
  constGroup : List (Option Nat)
  cfg : Nat
  handles : List (Option Nat)
  windows : List (Option Nat)
  nodes : List (Nat × Nat × Nat)
  zeroOk : Bool              -- its zero bytes are zero (R79)
  deriving DecidableEq, Repr

/-- A station record of an image: a copy of a voted station names its voter and which copy it is (R177). -/
structure StationRec where
  tile : Nat
  elems : List Nat
  doneSet : List Nat
  depth : Nat
  carry : List (Nat × Nat)
  mx : Bool
  vote : Option (Nat × Nat)
  route : Nat
  ports : List Nat
  deriving DecidableEq, Repr

/-- A channel record of an image (R43, R195, R253) with what the route report says of it: its latency (R46), the tile of
its swage node (R104), the edge ports it leaves bolts by (R226), how many of them come before that node, and whether it passes a boundary node (R145). Link forms: 1
mailbox, 2 spawn, 3 parent. -/
structure ChanRec where
  writer : End
  reader : End
  depth : Nat
  conv : Nat
  gate : Bool
  route : Nat
  swage : Option Nat
  swageHop : Nat
  ports : List Nat
  bnode : Bool
  link : Nat
  linkNum : Nat
  handoff : Bool
  deriving DecidableEq, Repr

/-- A controller table of an image (R178): commands, and pattern records of 32 bytes each (R159). -/
structure CtlRec where
  tile : Nat
  num : Nat
  mode : Nat
  parent : Nat
  table : List Word
  pats : List (List Byte)
  deriving DecidableEq, Repr

/-- A line image at a virtual address of an interface. `bytes` are the image's own, from its header on: the header, the
section table, and the sections whose record layout the spec gives: element, region and window records and the source-node
table (R78 to R80, R113, R114). The other sections, whose record layout it does not give, stand beside them (log 8). -/
structure ImageFile where
  vf : Nat
  ps : Nat
  va : Nat
  bytes : List Byte
  cls : Nat
  gap : Nat
  nargs : Nat
  seq : Nat
  bel : Bellows
  stations : List StationRec
  chans : List ChanRec
  ctls : List CtlRec
  names : List Nat           -- the name of each region record (R183)
  constGroups : List (Nat × Nat × Nat × Nat)   -- `.const kN = group name`: tile, element, constant, group (R246)
  lens : List (Nat × Nat)    -- windows whose length is an argument: window record, argument slot (R246)
  groups : Nat
  votes : Nat
  cnts : List (Nat × Nat × Option Nat × Option Nat)   -- tile, node, channel, counter word: region * 2^32 + offset
  ranges : List (Option Nat)
  data : List (Nat × Nat × List Word)
  links : List (Nat × Nat × Nat)
  routes : List (Nat × Nat)
  swPorts : List (Nat × Nat × Nat)     -- switch ports the route report names: tile, port, the channel record it serves (R273)
  deriving DecidableEq, Repr

/-- A decoded line image (R78 to R80, R113, R114, R159, R177, R196), with what its bytes failed. -/
structure Image where
  vf : Nat
  ps : Nat
  va : Nat
  formOk : Bool              -- magic, version, section table and section bounds (R78, R81 cause 1)
  reservedOk : Bool          -- zero fields of header, tables and records (R81 cause 4)
  fingerprint : List Byte
  unordered : Bool
  bolts : Nat
  cls : Nat
  gap : Nat
  nargs : Nat
  seq : Nat
  bel : Bellows
  elems : List ElemRec
  nodes : List NodeEntry
  stations : List StationRec
  chans : List ChanRec
  ctls : List CtlRec
  regions : List Region      -- `group` and `tile` as the records give them
  windows : List (Window × Option Nat × Option Nat)   -- window, base argument, length argument (R114, R246)
  groups : Nat
  votes : Nat
  cnts : List (Nat × Nat × Option Nat × Option Nat)   -- tile, node, channel, counter word: region * 2^32 + offset
  ranges : List (Option Nat)
  data : List (Nat × Nat × List Word)
  links : List (Nat × Nat × Nat)
  routes : List (Nat × Nat)
  swPorts : List (Nat × Nat × Nat)
  deriving DecidableEq, Repr

/-- An MSI-X message sent (R189, R210, R240). -/
structure Msix where
  vf : Nat
  vec : Nat
  deriving DecidableEq, Repr

/-- A soft error in a 64-byte DRAM line or in an 8-byte row of a slice or weight buffer (R124, R125, R170): the error-free
bytes, and the bits that are wrong in its check bytes. -/
structure SoftErr where
  at_ : Nat
  good : List Byte
  chk : Nat
  deriving DecidableEq, Repr

/-- What the running cycle still has to do, in order (log 1). -/
inductive Todo where
  | fire (l th slot : Nat)
  | issue (l tile ct pos : Nat)
  | event (i : Instr)
  | endCycle
  | closeCycle
  deriving DecidableEq, Repr

/-- Whose word is being executed. -/
inductive Cur where
  | none
  | elem (l th slot : Nat)
  | ctl (l tile ct pos : Nat)
  deriving DecidableEq, Repr

/-- The module (R229 to R233). -/
structure Module where
  weftDev : Nat
  weft : List (Nat × Nat × Nat)      -- port up, lanes, peer
  startRec : List (Nat × Nat × Nat × Nat)   -- step, outcome, attempts, detail
  measures : List Nat
  booted : Bool
  spares : List (Nat × Nat)          -- defective tile, spare tile
  throttle : Bool
  reports : List (List Byte)
  scrubbing : List (Nat × Nat)       -- bolt being zeroed and the cycle it was freed (R220)
  drops : List (Nat × Nat × Option Nat)   -- edge port, physical bolt * 16 + side * 4 + k: tokens dropped since its last record,
                                          -- the cycle of that record's drop (R227)
  deriving DecidableEq, Repr

/-- A page-table entry with SP = 1 whose frames are being zeroed for their owner (R221): the leaf it was found to be, and where. -/
structure SpEntry where
  first : Nat    -- first frame
  at_ : Nat      -- address of the entry
  big : Bool     -- 512 MiB leaf
  cls : Nat
  vf : Nat
  ps : Nat
  key : Nat      -- the pages it maps, as a cache names them (R199)
  deriving DecidableEq, Repr

/-- Everything but memory. `posted` holds the bytes the running instruction has written, the newest first; they reach
memory when it ends. -/
structure Fabric where
  cycle : Nat
  agenda : List Todo
  cur : Cur
  inputs : List Instr
  nextId : Nat
  freeCtr : List (Nat × Nat)      -- free choices each partition has drawn (R256)
  posted : List (Nat × Byte)
  elems : List Elem
  chans : List Chan
  stations : List Station
  lines : List Line
  gens : List AGen
  accs : List Acc
  hist : List HistW
  learnt : List (Nat × List Nat)  -- the model's own: what an acquire, or the swap behind a STEP, has made its later accesses come after (R138, R141, R151)
  copies : List CopyCh
  hqs : List HwQ
  cnts : List Cnt
  acks : List Ack
  mx : List MxBolt
  voters : List Voter
  tiles : List Tile
  ctls : List Ctl
  cmds : List Cmd
  regions : List Region
  groups : List Group
  freed : List (Nat × Nat)        -- group numbers freed in this cycle: partition and number (R310)
  parts : List Part
  ifaces : List Iface
  launches : List Launch
  requests : List Request
  resizes : List Resize
  images : List ImageFile
  recs : List Rec
  newRecs : List Rec
  charges : List Charge
  msix : List Msix
  errs : List SoftErr
  met : List (Nat × List Byte × Bool)   -- what the access in progress got from each unit in error it met: bytes, poison (R125)
  counted : Bool                   -- the access in progress has counted for ERR_MUSLIN (R126)
  poison : List (Nat × List Nat)   -- 64-byte lines that hold the poison pattern, and their bytes not yet rewritten (R126)
  wpoison : List Nat               -- poisoned words of planed regions (R121)
  layouts : List (Nat × Nat × Bool)   -- DRAM frames that hold data, each with the class it is laid out in and whether no other frame was laid out over its units since (R124)
  scrub : List (Nat × Nat × List Nat)   -- frames mapped SP = 1: frame, owner, lines not yet zeroed (R221)
  spEntry : List SpEntry                -- page-table entries with SP = 1 in use
  links : List Link
  sent : List Sent
  answers : List (Nat × Nat × Nat)      -- ATS invalidations answered: function, interface, range (R228)
  module_ : Module
  deriving DecidableEq, Repr

/-- Memory over the 48-bit device physical address space (R112): addresses strictly rising, no entry equal to what an
unlisted address reads as. -/
abbrev Memory := List Host.Cell

/-- The state of the machine. -/
structure State where
  fab : Fabric
  mem : List Host.Cell
  deriving DecidableEq, Repr

/-- Faults of the model. -/
inductive Fault where
  /-- Raised by an event's meaning in a state in which the spec does not let that event happen. Safe. -/
  | eventNotDue
  deriving DecidableEq, Repr

/-- Refusals of the model. -/
inductive Refusal where
  /-- Raised by exec for an instruction that has no meaning yet. Safe. -/
  | notModelled (mnemonic : String)
  /-- Raised by step for a loaded word that the loader would have refused (R82); the cause is that of R81. Safe. -/
  | illegalWord (cause : Nat)
  deriving DecidableEq, Repr

/-- A partition's registers at reset (R130, R209, R222, R223, R238, R239; log 3). -/
def Part.reset (vf : Nat) : Part where
  vf := vf
  remain := 0x00100000
  owed := 0
  muslin := 0
  fqBase := 0
  fqVec := 0
  fqHen := false
  fqLog := 0
  fqHead := 0
  fqTail := 0
  fqLost := 0
  lostFlag := false
  grant := 0
  acct := 0
  trcBase := 0
  trcPeriod := 0
  trcLog := 0
  trcLost := 0
  trcTail := 0
  digBase := 0
  digLen := 0
  digOver := 0
  ebudget := false
  digCount := 0
  frames := []
  pool := []
  poolUsed := []
  released := []

/-- An interface's registers at reset (R132, R186, R191, R202, R205, R228). -/
def Iface.reset (vf ps : Nat) : Iface where
  vf := vf
  ps := ps
  lqBase := 0
  lqLog := 0
  lqTail := 0
  lqAcc := 0
  slice := 2000
  weight := 0
  prio := 0
  limit := 0xFFFFFFFF
  used := 0
  rootFrame := 0
  rootClass := 2
  rootEn := false
  busy := false
  vpage := 0
  npage := 0
  heldShoot := []
  shootAccs := []
  ats := []
  peerDev := 0x3FFFFF
  peerLen := 0
  peerBase := 0

/-- The module after its boot, with no optional link trained (R229, R230; log 2, log 3). DESIGN CHOICE its spare map is empty, no tile
replaced: R1 and R230 set the map at a boot and give it no value at reset (log 2). -/
def Module.reset : Module where
  weftDev := 0
  weft := List.replicate 64 (0, 0, 0x3FFFFF)
  startRec := []
  measures := []
  booted := true
  spares := []
  throttle := false
  reports := []
  scrubbing := []
  drops := []

/-- The fabric after reset: no line resident, no table filled (R185, R222). -/
def Fabric.reset : Fabric where
  cycle := 0
  agenda := []
  cur := .none
  inputs := []
  nextId := 1
  freeCtr := []
  posted := []
  elems := []
  chans := []
  stations := []
  lines := []
  gens := []
  accs := []
  hist := []
  learnt := []
  copies := []
  hqs := []
  cnts := []
  acks := []
  mx := []
  voters := []
  tiles := []
  ctls := []
  cmds := []
  regions := []
  groups := []
  freed := []
  parts := []
  ifaces := []
  launches := []
  requests := []
  resizes := []
  images := []
  recs := []
  newRecs := []
  charges := []
  msix := []
  errs := []
  met := []
  counted := false
  poison := []
  wpoison := []
  layouts := []
  scrub := []
  spEntry := []
  links := []
  sent := []
  answers := []
  module_ := Module.reset

/-- The machine right after reset. -/
def State.reset : State := ⟨Fabric.reset, []⟩

end Sys2Proof.Machine
end

