-- ==== Sys2Proof/Machine/Ops.lean ====
section
/-!
DEFINITION. The named operations over memory, tables, registers and channels, and taking a fault (R64, R206 to R210) as
one shared operation.
-/
namespace Sys2Proof.Machine

/-! ## Memory -/

/-- The byte at an address; an unlisted address reads as `Config.unwritten`. -/
def Memory.get : Memory → Nat → Byte
  | [], _ => Config.unwritten
  | (a, b) :: r, x => if x = a then b else if x < a then Config.unwritten else Memory.get r x

/-- Write one byte, keeping the canonical form. -/
def Memory.set : Memory → Nat → Byte → Memory
  | [], x, v => if v = Config.unwritten then [] else [(x, v)]
  | (a, b) :: r, x, v =>
    if x = a then (if v = Config.unwritten then r else (a, v) :: r)
    else if x < a then (if v = Config.unwritten then (a, b) :: r else (x, v) :: (a, b) :: r)
    else (a, b) :: Memory.set r x v

/-- Every address above `lo`, strictly rising, and no entry equal to what an unlisted address reads as. -/
def Memory.wfFrom : Nat → Memory → Bool
  | _, [] => true
  | lo, (a, b) :: r => lo ≤ a && b != Config.unwritten && Memory.wfFrom (a + 1) r

/-- The canonical form. -/
def Memory.wf (m : Memory) : Bool := Memory.wfFrom 0 m

/-- Apply posted bytes, the newest first in the list, so the oldest is applied first. -/
def Memory.apply (m : Memory) (ws : List (Nat × Byte)) : Memory := ws.foldr (fun w m => Memory.set m w.1 w.2) m

/-- The first posted byte at an address, if any. -/
def postedAt : List (Nat × Byte) → Nat → Option Byte
  | [], _ => none
  | (a, b) :: r, x => if x = a then some b else postedAt r x

/-- The byte a running instruction sees: what it has itself posted, else memory. -/
def readByte (m : Memory) (f : Fabric) (a : Nat) : Byte := (postedAt f.posted a).getD (Memory.get m a)

/-- Post one byte. -/
def writeByte (a : Nat) (b : Byte) (f : Fabric) : Fabric := { f with posted := (a, b) :: f.posted }

/-- Little-endian value of `n` bytes (R9). -/
def readN (m : Memory) (f : Fabric) (a : Nat) : Nat → Nat
  | 0 => 0
  | n + 1 => (readByte m f a).toNat + 256 * readN m f (a + 1) n

/-- Store the low `n` bytes of a value, little-endian (R9). -/
def writeN (a : Nat) : Nat → Nat → Fabric → Fabric
  | 0, _, f => f
  | n + 1, v, f => writeN (a + 1) n (v / 256) (writeByte a (BitVec.ofNat 8 v) f)

/-- Store a list of bytes. -/
def writeBytes (a : Nat) : List Byte → Fabric → Fabric
  | [], f => f
  | b :: r, f => writeBytes (a + 1) r (writeByte a b f)

/-- A list of `n` bytes. -/
def readBytes (m : Memory) (f : Fabric) (a n : Nat) : List Byte := (List.range n).map fun i => readByte m f (a + i)

/-- The `n` bytes of a value, little-endian. -/
def leBytes : Nat → Nat → List Byte
  | 0, _ => []
  | n + 1, v => BitVec.ofNat 8 v :: leBytes n (v / 256)

/-- The value of a list of bytes, little-endian. -/
def ofBytes : List Byte → Nat
  | [] => 0
  | b :: r => b.toNat + 256 * ofBytes r

/-- The `n`-byte field at an offset of a record. -/
def bfld (bs : List Byte) (at_ n : Nat) : Nat := ofBytes ((bs.drop at_).take n)

/-- The lanes of 32 bytes. -/
def lanesOf (bs : List Byte) : Lanes := Lanes.ofFn fun i => BitVec.ofNat 32 (bfld bs (4 * i) 4)

/-- The state at the end of an instruction: what it posted is in memory, in canonical form. -/
def State.commit (m : Memory) (f : Fabric) : State := ⟨{ f with posted := [] }, Memory.apply m f.posted⟩

/-! ## Tables -/

/-- Change the entries that meet a test. -/
def upd {α : Type} (p : α → Bool) (g : α → α) (l : List α) : List α := l.map fun x => if p x then g x else x

/-- A list with an element added unless it is there. -/
def addNew {α : Type} [BEq α] (x : α) (l : List α) : List α := if l.contains x then l else x :: l

/-- The union of two lists without repeats. -/
def union (a b : List Nat) : List Nat := a.foldr addNew b

/-- Insert in an ordered list, before the entries the new one is not above. -/
def insertBy {α : Type} (le : α → α → Bool) (x : α) : List α → List α
  | [] => [x]
  | y :: r => if le x y then x :: y :: r else y :: insertBy le x r

/-- Sort, keeping the order of equals. -/
def sortBy {α : Type} (le : α → α → Bool) (l : List α) : List α := l.foldr (insertBy le) []

def findElem (f : Fabric) (l th : Nat) : Option Elem := f.elems.find? fun e => e.line == l && e.thread == th
def updElem (l th : Nat) (g : Elem → Elem) (f : Fabric) : Fabric :=
  { f with elems := upd (fun e => e.line == l && e.thread == th) g f.elems }
def findChan (f : Fabric) (l n : Nat) : Option Chan := f.chans.find? fun c => c.line == l && c.num == n
def updChan (l n : Nat) (g : Chan → Chan) (f : Fabric) : Fabric :=
  { f with chans := upd (fun c => c.line == l && c.num == n) g f.chans }
def findStation (f : Fabric) (l n : Nat) : Option Station := f.stations.find? fun c => c.line == l && c.num == n
def updStation (l n : Nat) (g : Station → Station) (f : Fabric) : Fabric :=
  { f with stations := upd (fun c => c.line == l && c.num == n) g f.stations }
def findLine (f : Fabric) (l : Nat) : Option Line := f.lines.find? fun c => c.id == l
def updLine (l : Nat) (g : Line → Line) (f : Fabric) : Fabric := { f with lines := upd (fun c => c.id == l) g f.lines }
def findTile (f : Fabric) (l t : Nat) : Option Tile := f.tiles.find? fun c => c.line == l && c.num == t
def updTile (l t : Nat) (g : Tile → Tile) (f : Fabric) : Fabric :=
  { f with tiles := upd (fun c => c.line == l && c.num == t) g f.tiles }
def findGen (f : Fabric) (l t n : Nat) : Option AGen := f.gens.find? fun c => c.line == l && c.tile == t && c.num == n
def updGen (l t n : Nat) (g : AGen → AGen) (f : Fabric) : Fabric :=
  { f with gens := upd (fun c => c.line == l && c.tile == t && c.num == n) g f.gens }
def findAcc (f : Fabric) (id : Nat) : Option Acc := f.accs.find? fun c => c.id == id
def updAcc (id : Nat) (g : Acc → Acc) (f : Fabric) : Fabric := { f with accs := upd (fun c => c.id == id) g f.accs }
def findCopy (f : Fabric) (l t n : Nat) : Option CopyCh := f.copies.find? fun c => c.line == l && c.tile == t && c.num == n
def updCopy (l t n : Nat) (g : CopyCh → CopyCh) (f : Fabric) : Fabric :=
  { f with copies := upd (fun c => c.line == l && c.tile == t && c.num == n) g f.copies }
def findHq (f : Fabric) (l t n : Nat) : Option HwQ := f.hqs.find? fun c => c.line == l && c.tile == t && c.num == n
def updHq (l t n : Nat) (g : HwQ → HwQ) (f : Fabric) : Fabric :=
  { f with hqs := upd (fun c => c.line == l && c.tile == t && c.num == n) g f.hqs }
def findCnt (f : Fabric) (l t n : Nat) : Option Cnt := f.cnts.find? fun c => c.line == l && c.tile == t && c.num == n
def updCnt (l t n : Nat) (g : Cnt → Cnt) (f : Fabric) : Fabric :=
  { f with cnts := upd (fun c => c.line == l && c.tile == t && c.num == n) g f.cnts }
def findMx (f : Fabric) (l b : Nat) : Option MxBolt := f.mx.find? fun c => c.line == l && c.bolt == b
def updMx (l b : Nat) (g : MxBolt → MxBolt) (f : Fabric) : Fabric :=
  { f with mx := upd (fun c => c.line == l && c.bolt == b) g f.mx }
def findVoter (f : Fabric) (l v : Nat) : Option Voter := f.voters.find? fun c => c.line == l && c.num == v
def updVoter (l v : Nat) (g : Voter → Voter) (f : Fabric) : Fabric :=
  { f with voters := upd (fun c => c.line == l && c.num == v) g f.voters }
def findCtl (f : Fabric) (l t n : Nat) : Option Ctl := f.ctls.find? fun c => c.line == l && c.tile == t && c.num == n
def updCtl (l t n : Nat) (g : Ctl → Ctl) (f : Fabric) : Fabric :=
  { f with ctls := upd (fun c => c.line == l && c.tile == t && c.num == n) g f.ctls }
def findRegion (f : Fabric) (l n : Nat) : Option Region := f.regions.find? fun c => c.line == l && c.num == n
def updRegion (l n : Nat) (g : Region → Region) (f : Fabric) : Fabric :=
  { f with regions := upd (fun c => c.line == l && c.num == n) g f.regions }
def findGroup (f : Fabric) (vf n : Nat) : Option Group := f.groups.find? fun c => c.vf == vf && c.num == n
def updGroup (vf n : Nat) (g : Group → Group) (f : Fabric) : Fabric :=
  { f with groups := upd (fun c => c.vf == vf && c.num == n) g f.groups }
def findLaunch (f : Fabric) (id : Nat) : Option Launch := f.launches.find? fun c => c.id == id
def findRequest (f : Fabric) (id : Nat) : Option Request := f.requests.find? fun c => c.id == id

/-- A partition's registers; an unlisted partition is at reset. -/
def getPart (f : Fabric) (vf : Nat) : Part := (f.parts.find? fun p => p.vf == vf).getD (Part.reset vf)
/-- Change a partition's registers. -/
def updPart (vf : Nat) (g : Part → Part) (f : Fabric) : Fabric :=
  if f.parts.any (fun p => p.vf == vf) then { f with parts := upd (fun p => p.vf == vf) g f.parts }
  else { f with parts := g (Part.reset vf) :: f.parts }
/-- An interface's registers; an unlisted interface is at reset. -/
def getIface (f : Fabric) (vf ps : Nat) : Iface :=
  (f.ifaces.find? fun p => p.vf == vf && p.ps == ps).getD (Iface.reset vf ps)
/-- Change an interface's registers. -/
def updIface (vf ps : Nat) (g : Iface → Iface) (f : Fabric) : Fabric :=
  if f.ifaces.any (fun p => p.vf == vf && p.ps == ps) then
    { f with ifaces := upd (fun p => p.vf == vf && p.ps == ps) g f.ifaces }
  else { f with ifaces := g (Iface.reset vf ps) :: f.ifaces }

/-- The free choices a partition has drawn. Each partition draws from a sequence of its own, so no other function's activity
changes its values or its cycles (R225, R226, R256). -/
def drawn (f : Fabric) (vf : Nat) : Nat := ((f.freeCtr.find? fun x => x.1 == vf).map Prod.snd).getD 0

/-- A free choice for a partition: the next answer of its scheduler, below `n` when `n` is positive. -/
def pick (vf n : Nat) (f : Fabric) : Nat × Fabric :=
  (Config.choice vf (drawn f vf) % n, { f with freeCtr := (vf, drawn f vf + 1) :: f.freeCtr.filter fun x => x.1 != vf })

/-- A fresh number for an access, request or command. -/
def fresh (f : Fabric) : Nat × Fabric := (f.nextId, { f with nextId := f.nextId + 1 })

/-- The partition of a line, from its key. -/
def vfOf (l : Nat) : Nat := l / 64
/-- The key under which a partition's mailboxes and links are held. -/
def linkKey (vf : Nat) : Nat := 100000 + vf

/-- Saturation at `2 ^ n - 1`. -/
def satN (n v : Nat) : Nat := min v (2 ^ n - 1)

/-- A tile event for the counters of R241 in this cycle. -/
def countEvent (l t code : Nat) (f : Fabric) : Fabric := updTile l t (fun x => { x with now := code :: x.now }) f

/-- The tile an end of a line lies in (R4, R16, R215, R227). -/
def endTile (f : Fabric) (l : Nat) (e : End) : Option Nat :=
  match e with
  | .elem _ th _ => some (th / 16)
  | .inbox x n => (findStation f x n).map fun s => s.tile
  | .gen t _ | .queue t _ | .join t _ _ | .count t _ | .chain t => some t
  | .voterIn v _ | .voterOut v => (findVoter f l v).map fun x => x.tile
  | .sink => ((findLine f l).bind fun x => findStation f l x.sinkStation).map fun s => s.tile
  | .boundary | .resume => none

/-- An end that writes lies in a tile of a line; `cl` is the key its channel is held under. -/
def endIn (f : Fabric) (cl l tile : Nat) (e : End) : Bool :=
  (match e with | .elem x _ _ => x == l | _ => cl == l) && endTile f l e == some tile

/-- Poisoned tokens the units of a tile have committed in this cycle (R241, event 12). -/
def poisonedNow (f : Fabric) (l tile : Nat) : Nat :=
  ((f.chans.filter fun c => endIn f c.line l tile c.writer).map fun c =>
    ((if c.conv = 0 then c.q else c.raw).filter fun s => s.tok.poison && s.seen == f.cycle + c.delay).length).foldl (· + ·) 0

/-- The line has fired or moved a token in this cycle (R217). -/
def markMoved (l : Nat) (f : Fabric) : Fabric := updLine l (fun x => { x with moved := true }) f

/-! ## Registers and items -/

/-- The entry a carry-set code names: o0 to o7 as 0 to 7, m0 to m63 from 64 (R22). -/
def Elem.entry (e : Elem) (code : Nat) : Reg := if code < 64 then vget e.o code else vget e.m (code - 64)
def Elem.setEntry (e : Elem) (code : Nat) (r : Reg) : Elem :=
  if code < 64 then { e with o := vset e.o code r } else { e with m := vset e.m (code - 64) r }

/-- The item a station is working on: the resumed item during a resumption, else the current one (R283, R352). -/
def workItem (st : Station) : Option Item :=
  match st.resumed with
  | some (_, it) => some it
  | none => st.item

/-- p7: the station works on a resumed item (R39). -/
def isResuming (f : Fabric) (e : Elem) : Bool :=
  match findStation f e.line e.station with
  | some st => st.resumed.isSome
  | none => false

/-- p7 to p0 as one byte (R49). -/
def predBits (f : Fabric) (e : Elem) : Nat := e.preds.toNat + (if isResuming f e then 128 else 0)

/-- Predicate `n`. -/
def predVal (f : Fabric) (e : Elem) (n : Nat) : Bool := predBits f e / 2 ^ n % 2 == 1

/-- The source node of a slot; 0 where the image gives none (R80). R80 speaks of one entry for each nonzero slot and names no
refusal of a second one or of one for a zero slot: DESIGN CHOICE both are accepted, and a slot's first entry counts (log 67). -/
def nodeOf (e : Elem) (slot : Nat) : Nat := ((e.nodes.find? fun x => x.1 == slot).map fun x => x.2.1).getD 0

/-- Lane 0 of a loop-index register of an element's source-node entry, or zero for none (R80, R208). -/
def loopReg (e : Elem) (x : Option (Nat × Nat × Nat)) : Nat :=
  match x with
  | some (_, _, r) =>
    if r < 8 then (vget e.o r).v.l0.toNat else if 64 ≤ r && r < 128 then (vget e.m (r - 64)).v.l0.toNat else 0
  | none => 0

/-- Lane 0 of the slot's loop-index register, or zero (R80, R208). -/
def loopValue (e : Elem) (slot : Nat) : Nat := loopReg e (e.nodes.find? fun x => x.1 == slot)

/-- Lane 0 of the loop-index register of a thread's entry for a source node, or zero (R208). -/
def nodeLoop (f : Fabric) (l th node : Nat) : Nat :=
  match findElem f l th with
  | some e => loopReg e (e.nodes.find? fun x => x.2.1 == node)
  | none => 0

/-- The sequence number a token of this element carries (R45). -/
def seqOf (f : Fabric) (e : Elem) : Nat :=
  match (findStation f e.line e.station).bind workItem with
  | some it => it.seq
  | none => (Config.freeSeq (vfOf e.line) (drawn f (vfOf e.line))).toNat

/-- The sequence number a record names: that of the item in work, all ones for none (R208). -/
def recSeq (f : Fabric) (e : Elem) : Nat :=
  match (findStation f e.line e.station).bind workItem with
  | some it => it.seq
  | none => 0xFFFF

/-- The tile of a logical thread (R40). -/
def tileOf (th : Nat) : Nat := th / 16

/-! ## Channels -/

/-- The factor of a conversion code: packing (R104). -/
def packOf (conv : Nat) : Nat :=
  if conv = 1 ∨ conv = 2 ∨ conv = 9 then 2 else if conv = 3 ∨ conv = 4 ∨ conv = 10 then 4 else 1
/-- The factor of a conversion code: unpacking (R104). -/
def unpackOf (conv : Nat) : Nat :=
  if conv = 5 ∨ conv = 6 ∨ conv = 11 then 2 else if conv = 7 ∨ conv = 8 ∨ conv = 12 ∨ conv = 13 then 4 else 1

/-- An edge port passes a line's tokens: it is an edge link of the line's placement, at either of its ends (R190, R226, R255). A port is
numbered logical bolt * 16 + side * 4 + k (R4), and faces the port k of the opposite side. -/
def portPasses (x : Line) (p : Nat) : Bool :=
  x.links.any fun k => (k.1 == p / 16 && k.2.1 == p % 16) || (k.2.2 == p / 16 && (k.2.1 + 8) % 16 == p % 16)

/-- The first edge port of a line's route whose boundary guard drops its tokens (R226, R255). -/
def firstGuard (f : Fabric) (l : Nat) (ports : List Nat) : Option Nat :=
  match findLine f l with
  | some x => ports.find? fun p => !portPasses x p
  | none => none

/-- The guarded port at which a channel's route ends: none where it passes a boundary node of its partition (R226). -/
def guardPort (f : Fabric) (c : Chan) : Option Nat := if c.bnode then none else firstGuard f c.line c.ports

/-- The committed slots whose time has come, up to a round marker (R42, R46). -/
def seenSlots (f : Fabric) (c : Chan) : List Slot := c.q.takeWhile fun s => s.seen ≤ f.cycle && s.tok.tag != 6

/-- The tokens the reader sees now; none of a route that ends at a guarded port (R255). -/
def visible (f : Fabric) (c : Chan) : List Token :=
  if (guardPort f c).isSome then [] else (seenSlots f c).map fun s => s.tok

/-- Output slots taken by tokens the swage node has yet to convert, and the inputs of an open pack (R374). -/
def rawSlots (conv : Nat) : List Slot → Nat → Nat × Nat
  | [], k => (0, k)
  | s :: r, k =>
    if s.tok.tag = 0 then
      if packOf conv ≠ 1 then
        (if k + 1 = packOf conv then let x := rawSlots conv r 0; (x.1 + 1, x.2) else rawSlots conv r (k + 1))
      else let x := rawSlots conv r 0; (x.1 + unpackOf conv, x.2)
    else let x := rawSlots conv r 0; (x.1 + 1 + (if k = 0 then 0 else 1), x.2)

/-- The writer's free count (R46, R287, R374). -/
def freeOf (f : Fabric) (c : Chan) : Nat :=
  let x := rawSlots c.conv c.raw c.part.length
  let h := c.q.length + (c.freed.filter fun n => f.cycle < n).length + x.1 + b2n c.pend.isSome + b2n c.nodePend.isSome
    + (c.staged.filter fun x => decide (3 ≤ x.tok.tag)).length
  if packOf c.conv ≠ 1 then
    (if x.2 = 0 then packOf c.conv * (c.depth - h)
     else if c.depth ≤ h then 0 else packOf c.conv * (c.depth - h - 1) + (packOf c.conv - x.2))
  else (c.depth - h) / unpackOf c.conv

/-- The staged count: an end-of-stream waiting behind a staged slot is neither free nor staged (R287). -/
def stagedOf (c : Chan) : Nat := (c.staged.filter fun x => decide (x.tok.tag < 3)).length

/-- free − staged. -/
def roomOf (f : Fabric) (c : Chan) : Nat := freeOf f c - stagedOf c

/-- Pop `n` slots; the writer sees them free after the channel's delay (R46). -/
def popChan (n : Nat) (f : Fabric) (c : Chan) : Chan :=
  { c with q := c.q.drop n, freed := (c.freed.filter fun x => f.cycle < x) ++ List.replicate n (f.cycle + c.delay) }

/-- Drop the oldest token on its way to the swage node; the writer sees its slot free after the channel's delay (R46, R226). -/
def popRaw (f : Fabric) (c : Chan) : Chan :=
  { c with raw := c.raw.drop 1, freed := (c.freed.filter fun x => f.cycle < x) ++ [f.cycle + c.delay] }

/-- Commit one token to a channel: at a swage node's input when it converts. R46's delay, in whose route latency the node's is
counted (R104), is not divided at the node by the spec: DESIGN CHOICE the whole of it passes before the node (log 70). -/
def commitTok (t : Token) (f : Fabric) (c : Chan) : Chan :=
  if c.conv ≠ 0 then { c with raw := c.raw ++ [⟨t, f.cycle + c.delay⟩] }
  else { c with q := c.q ++ [⟨t, f.cycle + c.delay⟩] }

/-- Commit the leading staged slots that are committed and whose values have come (R318). A slot's commit releases what its
element has issued by then (R143). -/
def drainStaged (rel : List Nat) (f : Fabric) : Nat → Chan → Chan
  | 0, c => c
  | n + 1, c =>
    match c.staged with
    | s :: r =>
      if s.committed && s.await.isNone then
        drainStaged rel f n (commitTok { s.tok with rel := union rel s.tok.rel } f { c with staged := r })
      else c
    | [] => c

/-- Mark the oldest `n` staged slots whose commit has not fired yet. -/
def markStaged (rel : List Nat) : Nat → List Staged → List Staged
  | 0, l => l
  | _, [] => []
  | n + 1, s :: r =>
    if s.committed then s :: markStaged rel (n + 1) r
    else { s with committed := true, tok := { s.tok with rel := union rel s.tok.rel } } :: markStaged rel n r

/-- The staged slots no commit has fired for (log 15). -/
def uncommitted (c : Chan) : Nat := (c.staged.filter fun s => !s.committed).length

/-- Commit the oldest `n` staged slots in order; one whose value is awaited holds back itself and those behind it
(R262, R318). -/
def commitStaged (n : Nat) (rel : List Nat) (f : Fabric) (c : Chan) : Chan :=
  drainStaged [] f c.staged.length { c with staged := markStaged rel n c.staged }

/-- Put a token behind the staged slots and commit it. -/
def commitBehind (t : Token) (f : Fabric) (c : Chan) : Chan :=
  drainStaged [] f (c.staged.length + 1) { c with staged := c.staged ++ [⟨t, none, true⟩] }

/-- Commit the pending end-of-stream, if any (R48); its commit releases what its element has issued by then (R143). -/
def commitPend (rel : List Nat) (f : Fabric) (c : Chan) : Chan :=
  match c.pend with
  | some t => commitBehind { t with rel := union rel t.rel } f { c with pend := none }
  | none => c

/-- Fold an end-of-stream into the pending one, or make it pending after committing every staged slot (R48, R286). -/
def foldPend (t : Token) (rel : List Nat) (f : Fabric) (c : Chan) : Chan :=
  match c.pend with
  | some p => { c with pend := some { t with tag := max p.tag t.tag, poison := p.poison || t.poison, rel := union p.rel t.rel } }
  | none => { commitStaged c.staged.length rel f c with pend := some t }

/-- The channel a handle names. -/
def handleChan (f : Fabric) (e : Elem) (h : Nat) : Option Chan :=
  match vget e.h h with
  | .chan l n => findChan f l n
  | _ => none

/-- The tokens an element sees at an input handle, head first; an inbox shows the current item's descriptor (R16). -/
def inputView (f : Fabric) (e : Elem) (h : Nat) : List Token :=
  match vget e.h h with
  | .inbox =>
    match (findStation f e.line e.station).bind fun st => st.item with
    | some it => [it.desc]
    | none => []
  | .chan l n => match findChan f l n with | some c => visible f c | none => []
  | _ => []

/-- The cycle in which the last of the first `n` tokens of a handle became available (R236). -/
def arrivalOf (f : Fabric) (e : Elem) (h n : Nat) : Option Nat :=
  match vget e.h h with
  | .inbox => (findStation f e.line e.station).map fun st => st.itemAt
  | .chan l k => ((findChan f l k).bind fun c => (seenSlots f c)[n - 1]?).map fun s => s.seen
  | _ => none

/-- free − staged at an output handle; the outbox needs no room (R370). -/
def outRoom (f : Fabric) (e : Elem) (h : Nat) : Nat :=
  match vget e.h h with
  | .outbox => 1
  | .chan l n => match findChan f l n with | some c => roomOf f c | none => 0
  | _ => 0

/-- A pending end-of-stream stands at an output handle. -/
def hasPend (f : Fabric) (e : Elem) (h : Nat) : Bool :=
  match handleChan f e h with
  | some c => c.pend.isSome
  | none => false

/-- The tag test of a guard condition (R47). -/
def tagMatch (code tag : Nat) : Bool :=
  match code with
  | 0 => tag ≤ 5
  | 1 => tag == 0
  | 2 => tag == 1
  | 3 => tag == 2
  | 4 => tag == 3 || tag == 4 || tag == 5
  | 5 => tag == 4 || tag == 5
  | 6 => tag == 5
  | _ => tag ≤ 2

/-- One condition of a guard entry (R49, R74): handle, count and tag code in 10 bits. -/
def condHolds (f : Fabric) (e : Elem) (x : Nat) : Bool :=
  let h := x / 128 % 8
  let n := x / 8 % 16
  if n = 0 then true
  else if h < 4 then
    let v := inputView f e h
    n ≤ v.length && (match v.head? with | some t => tagMatch (x % 8) t.tag | none => false)
  else n ≤ outRoom f e h

/-- The four conditions of a guard entry (R74). -/
def guardConds (g : Nat) : List Nat := [g / 2 ^ 38 % 1024, g / 2 ^ 28 % 1024, g / 2 ^ 18 % 1024, g / 2 ^ 8 % 1024]

/-- A guard holds on the element's state (R49); g0 never does. -/
def guardHolds (f : Fabric) (e : Elem) (n : Nat) : Bool :=
  let g := (vget e.guards n).toNat
  n % 64 != 0 && g % 2 == 1
    && (predBits f e &&& (g / 2 ^ 56 % 256)) == ((g / 2 ^ 48 % 256) &&& (g / 2 ^ 56 % 256))
    && (guardConds g).all (condHolds f e)

/-- The input handles a guard's conditions name, each with the tokens its eligibility required. -/
def guardInputs (e : Elem) (n : Nat) : List (Nat × Nat) :=
  ((guardConds (vget e.guards n).toNat).filter fun x => x / 8 % 16 != 0 && x / 128 % 8 < 4).map fun x => (x / 128 % 8, x / 8 % 16)

/-- Put a token in the outbox for the station's item in work; after completion it belongs to none (R284, R370). -/
def putOutbox (t : Token) (st : Station) : Station :=
  match st.resumed with
  | some (i, it) => if it.done.isSome then st else { st with resumed := some (i, { it with out := some t }) }
  | none =>
    match st.item with
    | some it => if it.done.isSome then st else { st with item := some { it with out := some t } }
    | none => st

/-! ## Faults -/

/-- A record with no field filled but its code: fields that do not apply are all ones (R208). -/
def Rec.blank (vf code : Nat) : Rec where
  vf := vf
  code := code
  resumable := false
  halted := false
  pasid := 0xFFFF
  line := 0xFFFF
  hasLine := false
  bolt := 0xFF
  tile := 0xFF
  elem := 0xFF
  slot := 0xFF
  mask := 0xFF
  kind := 0xFF
  unit := 0xFF
  seq := 0xFFFF
  node := 0xFFF
  loopv := 0xFFFFFFFF
  addr := 0xFFFFFFFFFFFFFFFF
  beat := 0xFFFFFFFFFFFFFFFF
  detail := 0xFFFFFFFF
  index := none
  what := .none

/-- A record of a line: its partition, interface, number and beat index (R208). -/
def Rec.ofLine (f : Fabric) (l code : Nat) : Rec :=
  let r := { Rec.blank (vfOf l) code with line := l, hasLine := true }
  match findLine f l with
  | some x => { r with pasid := x.pasid, beat := x.beatIx }
  | none => r

/-- The record of an element's fault (R64): element, slot, lane mask, item and source node. -/
def Rec.ofElem (f : Fabric) (e : Elem) (slot code detail : Nat) : Rec :=
  { Rec.ofLine f e.line code with
    resumable := true
    halted := true
    bolt := e.thread / 256
    tile := e.thread / 16 % 16
    elem := e.thread % 16
    slot := slot
    mask := 0xFF
    kind := 0
    unit := 0xFF
    seq := recSeq f e
    node := nodeOf e slot
    loopv := loopValue e slot
    detail := detail
    what := .firing e.thread slot }

/-- TAKING A FAULT (R64, R206, R210): the record joins the faults of this cycle, which are ordered and written at its
end; a fault that stops the line stops it then. -/
def takeFault (r : Rec) (stops : Bool) (f : Fabric) : Fabric :=
  let g := { f with newRecs := f.newRecs ++ [r] }
  if stops then updLine r.line (fun x => { x with stopSoon := some (x.stopSoon.getD r.code) }) g else g

/-- A fault in a firing (R64): the firing has no other effect. The re-execution of an earlier fault, if it was one, is over (R206). -/
def elemFault (e : Elem) (slot code detail : Nat) (f : Fabric) : Fabric :=
  takeFault (Rec.ofElem f e slot code detail) true (updElem e.line e.thread (fun x => { x with redo := none }) f)

/-- The fault codes of R206. -/
def codeGroup : Nat := 11
def codeChan : Nat := 12
def codeMbox : Nat := 13
def codeTrap : Nat := 15
def codeBrk : Nat := 16

/-- A charge against a partition's error budget (R130), applied at the end of the cycle in the order of R210. -/
def charge (vf cost : Nat) (r : Rec) (f : Fabric) (index : Nat := 0) : Fabric :=
  if cost = 0 then f else { f with charges := f.charges ++ [⟨vf, cost, r, index⟩] }

/-- Send an MSI-X message: a function has 64 vectors (R228). One of a vector it does not have is not sent: DESIGN CHOICE (log 72). -/
def sendMsix (vf vec : Nat) (f : Fabric) : Fabric := if vec < 64 then { f with msix := f.msix ++ [⟨vf, vec⟩] } else f

/-- ERR_MUSLIN counts one value (R126, R127, R130). -/
def countMuslin (vf n : Nat) (f : Fabric) : Fabric := updPart vf (fun p => { p with muslin := satN 32 (p.muslin + n) }) f

/-! ## Regions -/

/-- The first address of the region area (R376). -/
def regionArea : Nat := 0x7F800000000000

/-- The region of a line that covers a virtual address (R376). -/
def regionAt (f : Fabric) (l va : Nat) : Option Region :=
  if va < regionArea then none
  else f.regions.find? fun r => r.line == l && r.at_ ≤ va - regionArea && va - regionArea < r.at_ + r.size

/-! ## Running -/

/-- The state of a line that runs or would run (R185): 5 while EBUDGET stops its partition (R131), 4 when its input has ended or
RECFG has closed its source, else 2. -/
def runState (f : Fabric) (x : Line) : Nat :=
  if (getPart f x.vf).ebudget then 5 else if x.closing || x.eosTok.isSome then 4 else 2

/-- The line's elements may fire (R51): it runs, is not stopped, and its partition is not stopped. -/
def lineRuns (f : Fabric) (l : Nat) : Bool :=
  match findLine f l with
  | some x => (x.state == 2 || x.state == 4) && x.stop.isNone && x.endStatus.isNone && !(getPart f x.vf).ebudget
  | none => false

/-- The element may fire (R51): besides its line, its station is not restoring and its tile is not saving. -/
def elemRuns (f : Fabric) (e : Elem) : Bool :=
  lineRuns f e.line
    && (match findStation f e.line e.station with | some st => st.restore == 0 | none => true)
    && (match findTile f e.line (tileOf e.thread) with | some t => !t.inRound && !t.saved | none => true)

end Sys2Proof.Machine
end

