-- ==== Sys2Proof/Machine/Numeric.lean ====
section
/-!
DEFINITION. Lane elements and exact number arithmetic: the formats of R90 to R95, one rounding (R94), and the functions of
R103 computed to about 480 fraction bits before that one rounding (log 14).
-/
namespace Sys2Proof.Machine

/-! ## Elements of a lane (R90, R101) -/

/-- Element `n` of width `w` of a lane, unsigned. -/
def elemU (x : Word) (n w : Nat) : Nat := x.toNat / 2 ^ (w * n) % 2 ^ w

/-- A `w`-bit pattern read in two's complement. -/
def toS (w v : Nat) : Int := if v < 2 ^ (w - 1) then v else (v : Int) - 2 ^ w

/-- The signed value of a 32-bit field of a record. -/
def sfld (bs : List Byte) (at_ : Nat) : Int := toS 32 (bfld bs at_ 4)

/-- Element `n` of width `w`, signed. -/
def elemS (x : Word) (n w : Nat) : Int := toS w (elemU x n w)

/-- An integer modulo `2 ^ w`. -/
def wrapU (w : Nat) (v : Int) : Nat := (v % (2 ^ w : Int)).toNat

/-- Saturation to the range of `w` bits (R91). -/
def clampS (w : Nat) (v : Int) : Int := max (-(2 ^ (w - 1) : Int)) (min v (2 ^ (w - 1) - 1))

/-- The governed result: clamped with SAT = 1, else wrapped (R91). -/
def satW (sat : Bool) (w : Nat) (v : Int) : Nat := wrapU w (if sat then clampS w v else v)

/-- A lane built from its elements. -/
def packElems (w : Nat) (g : Nat → Nat) : Word :=
  if w = 32 then BitVec.ofNat 32 (g 0)
  else if w = 16 then BitVec.ofNat 32 (g 0 % 65536 + g 1 % 65536 * 65536)
  else BitVec.ofNat 32 (g 0 % 256 + g 1 % 256 * 256 + g 2 % 256 * 65536 + g 3 % 256 * 16777216)

/-- The width of an integer lane format (R90). -/
def intWidth (ifmt : Nat) : Nat := if ifmt = 1 then 16 else if ifmt = 2 then 8 else 32

/-! ## Float formats (R92) -/

/-- A format: exponent and fraction widths, bias, and whether it is E4M3. -/
structure Fmt where
  eb : Nat
  fb : Nat
  bias : Nat
  e4m3 : Bool
  deriving DecidableEq, Repr

def fp32 : Fmt := ⟨8, 23, 127, false⟩
def bf16 : Fmt := ⟨8, 7, 127, false⟩
def fp16 : Fmt := ⟨5, 10, 15, false⟩
def fe4m3 : Fmt := ⟨4, 3, 7, true⟩
def fe5m2 : Fmt := ⟨5, 2, 15, false⟩

/-- The width of a format. -/
def Fmt.width (t : Fmt) : Nat := 1 + t.eb + t.fb

/-- The float lane format of an FFMT code (R79). -/
def floatFmt (ffmt : Nat) : Fmt :=
  if ffmt = 1 then bf16 else if ffmt = 2 then fp16 else if ffmt = 3 then fe4m3 else if ffmt = 4 then fe5m2 else fp32

/-- An exact value: NaN, an infinity, or (−1)^neg · m · 2^e. -/
inductive FV where
  | nan
  | inf (neg : Bool)
  | fin (neg : Bool) (m : Nat) (e : Int)
  deriving DecidableEq, Repr

/-- The value of a bit pattern (R92). -/
def fval (t : Fmt) (x : Nat) : FV :=
  let f := x % 2 ^ t.fb
  let e := x / 2 ^ t.fb % 2 ^ t.eb
  let s := x / 2 ^ (t.fb + t.eb) % 2 == 1
  if t.e4m3 then
    if e = 15 ∧ f = 7 then .nan
    else if e = 0 then .fin s f (1 - (t.bias : Int) - t.fb)
    else .fin s (2 ^ t.fb + f) ((e : Int) - t.bias - t.fb)
  else if e = 2 ^ t.eb - 1 then (if f = 0 then .inf s else .nan)
  else if e = 0 then .fin s f (1 - (t.bias : Int) - t.fb)
  else .fin s (2 ^ t.fb + f) ((e : Int) - t.bias - t.fb)

/-- The canonical NaN (R92). -/
def Fmt.nan (t : Fmt) : Nat := if t.e4m3 then 127 else (2 ^ t.eb - 1) * 2 ^ t.fb + 2 ^ (t.fb - 1)

/-- The code of the largest finite magnitude (R92). -/
def Fmt.maxCode (t : Fmt) : Nat := if t.e4m3 then 126 else (2 ^ t.eb - 1) * 2 ^ t.fb - 1

/-- The sign bit in place. -/
def Fmt.sign (t : Fmt) (neg : Bool) : Nat := if neg then 2 ^ (t.eb + t.fb) else 0

/-- An infinite result; E4M3 has ±448 in its place (R94). -/
def Fmt.infCode (t : Fmt) (neg : Bool) : Nat :=
  t.sign neg + (if t.e4m3 then t.maxCode else (2 ^ t.eb - 1) * 2 ^ t.fb)

/-- The result of an overflow (R94): modes 0 nearest-even, 1 toward zero, 2 up, 3 down. -/
def Fmt.overflow (t : Fmt) (rnd : Nat) (neg : Bool) : Nat :=
  if t.e4m3 then t.sign neg + t.maxCode
  else if rnd = 0 ∨ (rnd = 2 ∧ neg = false) ∨ (rnd = 3 ∧ neg = true) then t.infCode neg
  else t.sign neg + t.maxCode

/-- Round (−1)^neg · (m + s) · 2^e, with 0 < s < 1 when `sticky` and s = 0 otherwise, to an integer under a mode (R94). -/
def roundShift (rnd : Nat) (neg : Bool) (m sh : Nat) (sticky : Bool) : Nat :=
  let q := m / 2 ^ sh
  let r := m % 2 ^ sh
  let inexact := r != 0 || sticky
  let up :=
    if rnd = 0 then
      if sh = 0 then false
      else decide (r > 2 ^ (sh - 1)) || (r == 2 ^ (sh - 1) && (sticky || q % 2 == 1))
    else if rnd = 2 then inexact && !neg
    else if rnd = 3 then inexact && neg
    else false
  if up then q + 1 else q

/-- Round an exact nonzero magnitude once to a format (R94). -/
def roundMag (t : Fmt) (rnd : Nat) (neg : Bool) (m0 : Nat) (e0 : Int) (sticky : Bool) : Nat :=
  -- three more bits below, so that a sticky remainder lies under the rounding position
  let m := m0 * 2 ^ 64
  let e := e0 - 64
  let top : Int := (Nat.log2 m : Int) + e
  let qmin : Int := 1 - (t.bias : Int) - t.fb
  let q := max (top - t.fb) qmin
  let mant := if e < q then roundShift rnd neg m (q - e).toNat sticky else m * 2 ^ (e - q).toNat
  let code := (q - qmin).toNat * 2 ^ t.fb + mant
  if t.maxCode < code then t.overflow rnd neg else t.sign neg + code

/-- Round a value to a format (R93, R94). -/
def roundFV (t : Fmt) (rnd : Nat) (x : FV) : Nat :=
  match x with
  | .nan => t.nan
  | .inf n => t.infCode n
  | .fin n m e => if m = 0 then t.sign n else roundMag t rnd n m e false

/-! ## Exact operations -/

/-- The signed integer of a finite value over the exponent `e`, which is not above its own. -/
def scaled (n : Bool) (m : Nat) (x e : Int) : Int := (if n then -1 else 1) * (m : Int) * 2 ^ (x - e).toNat

/-- Exact sum; an exact zero from operands of opposite sign is +0, or −0 in mode down (R94, R291). -/
def fAdd (rnd : Nat) (a b : FV) : FV :=
  match a, b with
  | .nan, _ => .nan
  | _, .nan => .nan
  | .inf x, .inf y => if x = y then .inf x else .nan
  | .inf x, _ => .inf x
  | _, .inf y => .inf y
  | .fin s m e, .fin s' m' e' =>
    let lo := min e e'
    let v := scaled s m e lo + scaled s' m' e' lo
    if v = 0 then (if s = s' then .fin s 0 0 else .fin (rnd == 3) 0 0)
    else .fin (v < 0) v.natAbs lo

/-- Exact product (R301). -/
def fMul (a b : FV) : FV :=
  match a, b with
  | .nan, _ => .nan
  | _, .nan => .nan
  | .inf x, .inf y => .inf (x != y)
  | .inf x, .fin s m _ => if m = 0 then .nan else .inf (x != s)
  | .fin s m _, .inf y => if m = 0 then .nan else .inf (s != y)
  | .fin s m e, .fin s' m' e' => .fin (s != s') (m * m') (e + e')

/-- Negation. -/
def fNeg (a : FV) : FV :=
  match a with
  | .nan => .nan
  | .inf x => .inf !x
  | .fin s m e => .fin (!s) m e

/-- a < b on values that are not NaN, with −0 equal to +0 (R292). -/
def fLt (a b : FV) : Bool :=
  match a, b with
  | .nan, _ => false
  | _, .nan => false
  | .inf x, .inf y => x && !y
  | .inf x, .fin .. => x
  | .fin .., .inf y => !y
  | .fin s m e, .fin s' m' e' => decide (scaled s m e (min e e') < scaled s' m' e' (min e e'))

/-- a = b as values (R292). -/
def fEq (a b : FV) : Bool :=
  match a, b with
  | .nan, _ => false
  | _, .nan => false
  | .inf x, .inf y => x == y
  | .inf _, .fin .. => false
  | .fin .., .inf _ => false
  | .fin s m e, .fin s' m' e' => decide (scaled s m e (min e e') = scaled s' m' e' (min e e'))

def FV.isNan : FV → Bool
  | .nan => true
  | _ => false

/-- The sign of a value; NaN has none. -/
def FV.neg : FV → Bool
  | .nan => false
  | .inf s => s
  | .fin s _ _ => s

/-- Round a finite value to an integer under a mode (R102). -/
def roundInt (rnd : Nat) (n : Bool) (m : Nat) (e : Int) : Int :=
  let q := if 0 ≤ e then m * 2 ^ e.toNat else roundShift rnd n m (-e).toNat false
  if n then -(q : Int) else q

/-! ## The functions of R103 -/

/-- Fraction bits of the working precision (log 14). -/
def prec : Nat := 480

/-- The integer square root, one bit at a time from bit `k - 1` down. -/
def isqrtLoop : Nat → Nat → Nat → Nat
  | 0, _, acc => acc
  | k + 1, n, acc => if (acc + 2 ^ k) * (acc + 2 ^ k) ≤ n then isqrtLoop k n (acc + 2 ^ k) else isqrtLoop k n acc

/-- The integer square root. -/
def isqrt (n : Nat) : Nat := isqrtLoop (Nat.log2 n / 2 + 1) n 0

/-- Σ x^k / k! from the given term on, over 2^prec. -/
def expLoop : Nat → Nat → Nat → Nat → Nat → Nat
  | 0, _, _, _, acc => acc
  | n + 1, k, term, x, acc => expLoop n (k + 1) (term * x / 2 ^ prec / k) x (acc + term)

/-- e^x for 0 ≤ x < 1, over 2^prec. -/
def expFix (x : Nat) : Nat := expLoop 130 1 (2 ^ prec) x 0

/-- 2 · Σ z^(2k+1) / (2k+1), over 2^prec. -/
def atanhLoop : Nat → Nat → Nat → Nat → Nat → Nat
  | 0, _, _, _, acc => 2 * acc
  | n + 1, k, pow, z2, acc => atanhLoop n (k + 2) (pow * z2 / 2 ^ prec) z2 (acc + pow / k)

/-- ln f for 1 ≤ f ≤ 2 given as num / den, over 2^prec. -/
def lnFix (num den : Nat) : Nat :=
  let z := (num - den) * 2 ^ prec / (num + den)
  atanhLoop 160 1 z (z * z / 2 ^ prec) 0

/-- ln 2 over 2^prec. -/
def ln2Fix : Nat := lnFix 2 1

/-- 1 / a (R302). -/
def fRcp (t : Fmt) (rnd : Nat) (a : FV) : Nat :=
  match a with
  | .nan => t.nan
  | .inf s => t.sign s
  | .fin s m e =>
    if m = 0 then t.infCode s
    else
      let k := Nat.log2 m + 128
      roundMag t rnd s (2 ^ k / m) (-e - k) (2 ^ k % m != 0)

/-- 1 / √a (R304). -/
def fRsq (t : Fmt) (rnd : Nat) (a : FV) : Nat :=
  match a with
  | .nan => t.nan
  | .inf s => if s then t.nan else 0
  | .fin s m e =>
    if m = 0 then t.infCode s
    else if s then t.nan
    else
      let m' := if e % 2 = 0 then m else m * 2
      let e' := (if e % 2 = 0 then e else e - 1) / 2
      let k := Nat.log2 m' + 128
      let r := isqrt (2 ^ (2 * k) / m')
      roundMag t rnd false r (-e' - k) (r * r * m' != 2 ^ (2 * k))

/-- 2^a (R297). -/
def fExp2 (t : Fmt) (rnd : Nat) (a : FV) : Nat :=
  match a with
  | .nan => t.nan
  | .inf s => if s then 0 else t.infCode false
  | .fin s m e =>
    if m = 0 then roundMag t rnd false 1 0 false
    else if (Nat.log2 m : Int) + e ≥ 11 then
      (if s then roundMag t rnd false 1 (-2000) true else roundMag t rnd false 1 2000 true)
    else
      let sg : Int := if s then -1 else 1
      if 0 ≤ e then roundMag t rnd false 1 (sg * m * 2 ^ e.toNat) false
      else
        let d := (-e).toNat
        let v := sg * m
        let n := v / 2 ^ d                 -- floor
        let f := (v % 2 ^ d).toNat
        if f = 0 then roundMag t rnd false 1 n false
        else
          let x := f * ln2Fix / 2 ^ d
          roundMag t rnd false (expFix x) (n - prec) true

/-- log₂ a (R298). -/
def fLog2 (t : Fmt) (rnd : Nat) (a : FV) : Nat :=
  match a with
  | .nan => t.nan
  | .inf s => if s then t.nan else t.infCode false
  | .fin s m e =>
    if m = 0 then t.infCode true
    else if s then t.nan
    else
      let b := Nat.log2 m
      let n : Int := (b : Int) + e
      if m = 2 ^ b then (if n = 0 then 0 else roundMag t rnd (n < 0) n.natAbs 0 false)
      else
        let l := lnFix m (2 ^ b) * 2 ^ prec / ln2Fix
        let v : Int := n * 2 ^ prec + l
        roundMag t rnd (v < 0) v.natAbs (-prec) true

/-- tanh a (R307). -/
def fTanh (t : Fmt) (rnd : Nat) (a : FV) : Nat :=
  match a with
  | .nan => t.nan
  | .inf s => roundMag t rnd s 1 0 false
  | .fin s m e =>
    if m = 0 then t.sign s
    else
      let top : Int := (Nat.log2 m : Int) + e
      if top < -40 then roundMag t rnd s (m * 2 ^ 200 - 1) (e - 200) true
      else if 6 ≤ top then roundMag t rnd s (2 ^ 200 - 1) (-200) true
      else
        let y := if 0 ≤ e + 1 then m * 2 ^ (e + 1).toNat * 2 ^ prec else m * 2 ^ prec / 2 ^ (-(e + 1)).toNat
        let n := y / ln2Fix
        let ex := expFix (y % ln2Fix) * 2 ^ n
        roundMag t rnd s ((ex - 2 ^ prec) * 2 ^ prec / (ex + 2 ^ prec)) (-prec) true

/-! ## S20 scales and QN4 weights (R95 to R98) -/

/-- The value of an S20 code: none is poison. -/
def s20 (c : Nat) : Option (Nat × Int) :=
  if 1048576 ≤ c then none
  else if c / 4096 = 255 then none
  else if c / 4096 = 0 then some (0, 0)
  else some (4096 + c % 4096, (c / 4096 : Nat) - 127 - 12)

/-- The S20 code of a block (R98), from SUP as FP32 and q. -/
def blockScale (sup q : Nat) : Nat :=
  match fval fp32 sup with
  | .fin false m e =>
    if m = 0 then 0xFFFFF
    else if q = 0 then 0
    else
      let x := m * q
      let b := Nat.log2 x
      let y := if b ≤ 12 then x * 2 ^ (12 - b) else roundShift 0 false x (b - 12) false
      let top : Int := (if b ≤ 12 then (b : Int) else b) + (e - 8) + (if y = 8192 then 1 else 0)
      let g := if y = 8192 then 0 else y - 4096
      if top ≥ 128 then 0xFFFFF else if top < -126 then 0 else (top + 127).toNat * 4096 + g
  | _ => 0xFFFFF

/-- The magnitudes of R96, over 256. -/
def qn4Mag (m : Nat) : Nat := [11, 33, 55, 80, 107, 139, 181].getD m 256

/-- The value of a QN4 code (R96). -/
def qn4 (code : Nat) : FV := if 8 ≤ code then .fin false (qn4Mag (code - 8)) (-8) else .fin true (qn4Mag (7 - code)) (-8)

end Sys2Proof.Machine
end

