-- ==== Sys2Proof/Machine/ImageBytes.lean ====
section
/-!
DEFINITION. Reading a line image's bytes: header, section table, element, region and window records, source-node entries and
pattern records (R78 to R80, R113, R114, R159).
-/
namespace Sys2Proof.Machine

/-- Consecutive records of `n` bytes, `k` of them. -/
def chunks (n : Nat) : Nat → List Byte → List (List Byte)
  | 0, _ => []
  | k + 1, bs => bs.take n :: chunks n k (bs.drop n)

/-- A list brought to `n` bytes. -/
def exactly (n : Nat) (bs : List Byte) : List Byte := (List.range n).map fun i => bs.getD i 0

/-- Every byte is zero. -/
def allZero (bs : List Byte) : Bool := bs.all fun b => b == 0

/-- A 2-byte field in which 0xFFFF stands for none. -/
def optField (bs : List Byte) (o : Nat) : Option Nat := if bfld bs o 2 = 0xFFFF then none else some (bfld bs o 2)

/-- An entry of the section table (R78): type, record count, offset, and whether its zero bytes are zero. -/
structure Section where
  kind : Nat
  count : Nat
  offset : Nat
  zeroOk : Bool
  deriving DecidableEq, Repr

def sectionOf (bs : List Byte) : Section := ⟨bfld bs 0 2, bfld bs 4 4, bfld bs 8 8, allZero ((bs.drop 2).take 2)⟩

/-- The size of a section's records, where the spec gives their layout; 0 elsewhere. -/
def recordSize (kind : Nat) : Nat := if kind = 1 then 960 else if kind = 5 ∨ kind = 6 then 32 else if kind = 7 then 8 else 0

/-- The section table (R78). -/
def sectionTable (bs : List Byte) : List Section := (chunks 16 (bfld bs 8 4) (bs.drop (bfld bs 0x30 8))).map sectionOf

/-- The records of every section of a type, in table order. -/
def recordsOf (bs : List Byte) (kind : Nat) : List (List Byte) :=
  ((sectionTable bs).filter fun s => s.kind == kind).flatMap fun s => chunks (recordSize kind) s.count (bs.drop s.offset)

/-- Magic, version, section table and section bounds (R78, R81 cause 1). -/
def formOk (bs : List Byte) : Bool :=
  let size := bfld bs 0x38 8
  decide (64 ≤ bs.length) && bs.length == size && bfld bs 0 4 == 0x494C4650 && bfld bs 4 2 == 1
    && decide (bfld bs 0x30 8 + 16 * bfld bs 8 4 ≤ size)
    && (sectionTable bs).all fun s => decide (1 ≤ s.kind ∧ s.kind ≤ 13 ∧ s.offset + recordSize s.kind * s.count ≤ size)

/-- A source-node entry (R80). -/
def nodeEntry (b : List Byte) : NodeEntry :=
  ⟨bfld b 0 2, bfld b 2 1, bfld b 3 1, bfld b 4 2 % 4096, bfld b 6 1, bfld b 4 2 < 4096 && bfld b 7 1 == 0⟩

/-- An element record (R79) with its source-node entries (R80). -/
def elemRecOf (nodes : List NodeEntry) (b : List Byte) : ElemRec :=
  let tail := b.drop 0x380
  let tile := bfld tail 0x34 2
  let elem := bfld tail 0x36 1
  { tile := tile, elem := elem, station := bfld tail 0x37 1,
    slots := (chunks 4 32 b).map fun x => BitVec.ofNat 32 (ofBytes x),
    guards := (chunks 8 64 (b.drop 0x80)).map fun x => BitVec.ofNat 64 (ofBytes x),
    consts := (chunks 32 8 (b.drop 0x280)).map lanesOf,
    cfg := bfld tail 0 4,
    constArg := (List.range 8).map fun i => optField tail (4 + 2 * i),
    constGroup := List.replicate 8 none,
    handles := (List.range 8).map fun i => optField tail (0x14 + 2 * i),
    windows := (List.range 8).map fun i => optField tail (0x24 + 2 * i),
    nodes := (nodes.filter fun n => n.tile == tile && n.elem == elem).map fun n => (n.slot, n.node, n.loop), zeroOk := allZero ((b.drop 0x3B8).take 8) }

/-- A region record (R113): `group` is its group record's index, `tile` the tile of a slice region. -/
def regionRecOf (name : Nat) (b : List Byte) : Region :=
  { line := 0, num := 0, name := name, size := bfld b 0 8, cls := bfld b 8 1, planes := bfld b 9 1, collide := bfld b 0xA 1,
    discard := bfld b 0xB 1 % 2 == 1, slice := bfld b 0xB 1 / 2 % 2 == 1, group := optField b 0xC, ovf := bfld b 0x10 4,
    tile := bfld b 0x14 2, at_ := bfld b 0x18 8, base := 0, pages := [], ovfPages := [], contribs := [], swapping := false }

/-- The zero fields of a region record. -/
def regionZero (b : List Byte) : Bool := bfld b 0xB 1 < 4 && bfld b 0xE 2 == 0 && bfld b 0x16 2 == 0

/-- A window record (R114): the window, its base argument, and its length argument where it has one. -/
def windowRecOf (len : Option Nat) (b : List Byte) : Window × Option Nat × Option Nat :=
  (⟨bfld b 8 8, bfld b 0x10 8, bfld b 0x18 1, bfld b 0x19 1 % 4, optField b 0⟩, optField b 2, len)

/-- The zero fields of a window record. -/
def windowZero (b : List Byte) : Bool := bfld b 4 4 == 0 && bfld b 0x19 1 < 4 && bfld b 0x1A 6 == 0

/-- A pattern record (R159) with its window record's index; `who` and the window are found when it is loaded. -/
def patternOf (b : List Byte) : Pattern × Nat :=
  ({ write := bfld b 2 1 % 2 == 1, eosend := bfld b 2 1 / 2 % 2 == 1, size := if bfld b 3 1 = 2 then 4 else 32, base := bfld b 4 4,
     counts := (bfld b 8 2, bfld b 0xA 2, bfld b 0xC 2), strides := (sfld b 0x10, sfld b 0x14, sfld b 0x18),
     win := ⟨0, 0, 0, 0, none⟩, winNum := 0, who := 0 }, bfld b 0 2)

/-- The zero fields of a pattern record. -/
def patternZero (b : List Byte) : Bool := bfld b 2 1 < 4 && bfld b 0xE 2 == 0 && bfld b 0x1C 4 == 0

/-- The element of a tile that binds a window record, and the window it binds it as (R160). -/
def windowUser (elems : List ElemRec) (tile rec_ : Nat) : Option (Nat × Nat) :=
  (elems.filter fun e => e.tile == tile).findSome? fun e =>
    ((List.range 8).find? fun k => e.windows.getD k none == some rec_).map fun k => (e.tile * 16 + e.elem, k)

/-- The groups that constants of an element take (R246). -/
def withGroups (gs : List (Nat × Nat × Nat × Nat)) (e : ElemRec) : ElemRec :=
  { e with constGroup := (List.range 8).map fun k => (gs.find? fun g => g.1 == e.tile && g.2.1 == e.elem && g.2.2.1 == k).map fun g => g.2.2.2 }

/-- Slice bytes a region takes: a planed one holds both planes and its written-word map (R113). -/
def sliceNeed (r : Region) : Nat := if r.planes = 0 then (r.size + 31) / 32 * 32 else 2 * r.size + (r.size + 31) / 32

/-- The slice regions in record order, each behind those before it in its slice (log 65). -/
def layRegions : List (Nat × Nat) → List Region → List Region
  | _, [] => []
  | used, r :: rs =>
    if r.slice then
      let u := ((used.find? fun x => x.1 == r.tile).map Prod.snd).getD 0
      { r with base := u } :: layRegions ((r.tile, u + (sliceNeed r + 31) / 32 * 32) :: used) rs
    else r :: layRegions used rs

/-- READ AN IMAGE (R78 to R80, R113, R114). -/
def ImageFile.decode (x : ImageFile) : Image :=
  let nodes := (recordsOf x.bytes 7).map nodeEntry
  let regionBytes := recordsOf x.bytes 5
  let windowBytes := recordsOf x.bytes 6
  { vf := x.vf, ps := x.ps, va := x.va, formOk := formOk x.bytes,
    reservedOk := bfld x.bytes 6 2 < 2 && (sectionTable x.bytes).all (fun s => s.zeroOk)
      && regionBytes.all regionZero && windowBytes.all windowZero,
    fingerprint := (x.bytes.drop 0x10).take 32, unordered := bfld x.bytes 6 2 % 2 == 1, bolts := bfld x.bytes 0xC 4, cls := x.cls,
    gap := x.gap, nargs := x.nargs, seq := x.seq, bel := x.bel,
    elems := (recordsOf x.bytes 1).map fun b => withGroups x.constGroups (elemRecOf nodes b),
    nodes := nodes,
    stations := x.stations, chans := x.chans, ctls := x.ctls,
    regions := layRegions [] (regionBytes.zipIdx.map fun b => regionRecOf (x.names.getD b.2 b.2) b.1),
    windows := windowBytes.zipIdx.map fun b => windowRecOf ((x.lens.find? fun l => l.1 == b.2).map Prod.snd) b.1,
    groups := x.groups, votes := x.votes, cnts := x.cnts, ranges := x.ranges, data := x.data, links := x.links, routes := x.routes,
    swPorts := x.swPorts }

/-- The image at a virtual address of an interface. -/
def findImage (f : Fabric) (vf ps va : Nat) : Option Image :=
  (f.images.find? fun c => c.vf == vf && c.ps == ps && c.va == va).map ImageFile.decode

end Sys2Proof.Machine
end

