-- ==== Sys2Proof/Machine/Operands.lean ====
section
/-!
DEFINITION. Operand forms (R56, R57, R67): what a word reads, writes and needs (R50), and the writing of a result (R55,
R57, R44, R370).
-/
namespace Sys2Proof.Machine

/-- How an immediate meets a word (R56, R290, R305, R317). -/
inductive ImmKind where
  | int
  | float
  | fint
  | offset
  deriving DecidableEq, Repr

/-- The signed value of a 5-bit immediate. -/
def immVal (v : Nat) : Int := toS 5 (v % 32)

/-- An immediate in every element of every lane (R56). -/
def immLanes (e : Elem) (k : ImmKind) (v : Nat) : Lanes :=
  match k with
  | .int => let w := intWidth e.ifmt; Lanes.rep (packElems w fun _ => wrapU w (immVal v))
  | .fint => let w := (floatFmt e.ffmt).width; Lanes.rep (packElems w fun _ => wrapU w (immVal v))
  | .offset => Lanes.rep (BitVec.ofInt 32 (immVal v))
  | .float =>
    let t := floatFmt e.ffmt
    Lanes.rep (packElems t.width fun _ => roundFV t e.rnd (.fin (immVal v < 0) (immVal v).natAbs 0))

/-- A source operand's value and poison (R56). An input handle gives its head's payload; with no head the word waits. -/
def readSrc (f : Fabric) (e : Elem) (k : ImmKind) (s : Src) : Reg :=
  match s with
  | .lat => e.lat
  | .o n => vget e.o n
  | .c n => match (inputView f e n).head? with | some t => ⟨t.payload, t.poison⟩ | none => Reg.zero
  | .k n => ⟨vget e.k n, false⟩
  | .imm v => ⟨immLanes e k v, false⟩

/-- The value of a destination that is also read; a channel destination cannot stand there (R69). -/
def readDst (e : Elem) (d : Dst) : Reg :=
  match d with
  | .lat => e.lat
  | .o n => vget e.o n
  | .c _ => Reg.zero

/-- What a word reads, writes and needs (R50): operands, input handles with the slots needed, output handles with whether
an end-of-stream may fold, the window whose generator takes an entry, `lat` read or written, registers read and written. -/
structure Uses where
  srcs : List Src
  dst : Option Dst
  ins : List (Nat × Nat)
  outs : List (Nat × Bool)
  win : Option Nat
  lat : Bool
  deriving DecidableEq, Repr

/-- The needs of each element word; an event or command has none. CHQ and GETM have no implicit eligibility
condition (R277, R308): they fire also while their destination or `lat` is awaited, and the answer then overwrites what they wrote.
R352 and R366 let SEQ and WPR never wait and hold their channel destinations to R50: DESIGN CHOICE they wait as R50 has it for every
word, and for nothing else of their own (log 94). -/
def uses (i : Instr) : Uses :=
  let none_ : Uses := ⟨[], none, [], [], none, false⟩
  let t3 (d : Dst) (a b : Src) : Uses := ⟨[a, b], some d, [], [], none, true⟩
  let t2 (d : Dst) (a : Src) : Uses := ⟨[a], some d, [], [], none, true⟩
  let t1 (d : Dst) : Uses := ⟨[], some d, [], [], none, true⟩
  let ta (a : Src) : Uses := ⟨[a], none, [], [], none, false⟩
  let ldX (d : Dst) (o : Src) (w : Nat) : Uses := ⟨[o], some d, [], [], some w, true⟩
  let stX (a o : Src) (w : Nat) (l : Bool) : Uses := ⟨[a, o], none, [], [], some w, l⟩
  match i with
  | .ctrrd _ d a | .abs _ d a | .clz _ d a | .popc _ d a | .mov _ d a | .frcp _ d a | .frsq _ d a | .fexp2 _ d a
  | .flog2 _ d a | .ftanh _ d a | .fcvti _ d a | .fcvtf _ d a | .frnd _ d a | .range _ d a | .spawn _ d a | .wpr _ d a
  | .lred _ _ d a | .lscan _ _ d a => t2 d a
  | .ebrd _ d | .gnew _ d | .seq _ d | .addi _ d _ | .li _ d _ | .lih _ d _ | .beatq _ d _ => t1 d
  | .getm _ _ _ | .chq _ _ _ => none_
  | .add _ d a b | .sub _ d a b | .mul _ d a b | .mulh _ d a b | .mulhu _ d a b | .mad _ d a b | .and _ d a b | .or _ d a b
  | .xor _ d a b | .andn _ d a b | .shl _ d a b | .shr _ d a b | .sra _ d a b | .rot _ d a b | .min _ d a b | .max _ d a b
  | .minu _ d a b | .maxu _ d a b | .bfx _ d a b | .bfi _ d a b | .cmp _ _ d a b | .bsel _ d a b | .lbc _ d a b
  | .lshf _ d a b | .fadd _ d a b | .fsub _ d a b | .fmul _ d a b | .fma _ d a b | .fmin _ d a b | .fmax _ d a b
  | .fscl _ d a b | .fcmp _ _ d a b => t3 d a b
  | .putm _ a _ | .gfree _ a | .join _ a | .leave _ a | .step _ a => ta a
  | .pany _ _ | .pall _ _ => { none_ with lat := true }
  | .peek _ h k d => { t1 d with ins := [(h, k + 1)] }
  | .emit _ h g a => { ta a with outs := [(h, decide (3 ≤ g))] }
  | .eos _ h _ => { none_ with outs := [(h, true)] }
  | .steer _ c _ _ _ => { none_ with ins := [(c, 1)] }
  | .merge _ c _ _ _ => { none_ with ins := [(c, 1)] }
  | .ld _ d o w _ _ | .ldv _ d o w _ _ | .mxq _ d o w => ldX d o w
  | .st _ a o w _ _ | .stv _ a o w _ _ => stX a o w false
  | .atomAdd _ a o w _ _ | .atomMin _ a o w _ _ | .atomMax _ a o w _ _ | .atomAnd _ a o w _ _ | .atomOr _ a o w _ _
  | .atomXor _ a o w _ _ | .atomXchg _ a o w _ _ | .atomFadd _ a o w _ _ | .cas _ a o w _ _ => stX a o w true
  | .fence _ w _ _ => { none_ with win := some w }
  | .nop _ | .trap _ _ | .brk _ _ | .pset _ _ _ | .plog _ _ _ _ _ | .advr _ _ _ | .advw _ _ _ | .done _ => none_
  | _ => none_

/-- The input handles of a list of operands. -/
def srcHandles (l : List Src) : List Nat := l.filterMap fun s => match s with | .c n => some n | _ => none

/-- The tokens a word reads at its input handles: handle and how many, head first (R143, R236). MERGE reads its chosen input
alone, or all three at an end-of-stream (R61). -/
def wordInputs (f : Fabric) (e : Elem) (i : Instr) : List (Nat × Nat) :=
  (srcHandles (uses i).srcs).map (fun h => (h, 1)) ++ (uses i).ins
    ++ (match i with
        | .advr _ h n => (match vget e.h h with | .inbox => [] | _ => [(h, n)])
        | .merge _ c a b _ =>
          (match (inputView f e c).head? with
          | some t => if t.tag = 2 then [(if t.payload.l0.toNat % 2 = 1 then b else a, 1)] else [(a, 1), (b, 1)]
          | none => [])
        | _ => [])

/-- The registers a word reads, as `loads` numbers them: 0 `lat`, n + 1 on. -/
def wordRegs (i : Instr) : List Nat :=
  let own := match i with
    | .mad _ d _ _ | .bfi _ d _ _ | .fma _ d _ _ | .addi _ d _ | .lih _ d _ => (match d with | .lat => [0] | .o n => [n + 1] | .c _ => [])
    | .pany _ _ | .pall _ _ | .cas _ _ _ _ _ _ | .bsel _ _ _ _ => [0]
    | _ => []
  own ++ (uses i).srcs.filterMap fun s => match s with | .lat => some 0 | .o n => some (n + 1) | _ => none

/-- A register is awaited (R50): its own result, or `lat` with any result (R57). A load whose staged slot an overrun discarded
(R20) still returns: DEDUCED its element's `lat` is awaited until then (log 30). -/
def awaited (e : Elem) (d : Dst) : Bool := e.awaits.any fun a => a.d == d || d == .lat

/-- A source names a register that is awaited. -/
def srcAwaited (e : Elem) (s : Src) : Bool :=
  match s with
  | .lat => awaited e .lat
  | .o n => awaited e (.o n)
  | _ => false

/-- An output handle has room, or takes a fold of an end-of-stream (R48, R50). -/
def outReady (f : Fabric) (e : Elem) (h : Nat) (fold : Bool) : Bool := 1 ≤ outRoom f e h || (fold && hasPend f e h)

/-- An end-of-stream tag. -/
def isEos (tag : Nat) : Bool := 3 ≤ tag && tag ≤ 5

/-- STEER's condition (R60, R360). -/
def steerReady (f : Fabric) (e : Elem) (i x y : Nat) : Bool :=
  match (inputView f e i).head? with
  | some t => outReady f e x (isEos t.tag) && outReady f e y (isEos t.tag)
  | none => false

/-- MERGE's condition (R61, R330). -/
def mergeReady (f : Fabric) (e : Elem) (c a b o : Nat) : Bool :=
  match (inputView f e c).head? with
  | some t =>
    if t.tag = 2 then
      let x := if t.payload.l0.toNat % 2 = 1 then b else a
      match (inputView f e x).head? with
      | some u => outReady f e o (isEos u.tag)
      | none => false
    else if isEos t.tag then
      match (inputView f e a).head?, (inputView f e b).head? with
      | some u, some v => if isEos u.tag && isEos v.tag then outReady f e o true else true
      | _, _ => false
    else true
  | none => false

/-- The group a thread names (R309). -/
def groupArg (f : Fabric) (e : Elem) (a : Src) : Nat := (readSrc f e .int a).v.l0.toNat

/-- STEP waits for the swap of the thread's step, or for its pending JOIN (R361). -/
def stepWaits (f : Fabric) (e : Elem) (a : Src) : Bool :=
  match findGroup f (vfOf e.line) (groupArg f e a) with
  | some g =>
    g.line == e.line
      && (g.arrived.contains e.thread || g.waiting.contains e.thread || g.joining.contains e.thread)
  | none => false

/-- The regions a word at an offset of a window falls in, through whichever window leads there (R114, R376): two where the window's base
leaves the word across their boundary. -/
def windowRegions (f : Fabric) (e : Elem) (w off : Nat) : List Region :=
  ((vget e.w w).map fun x => (regionAt f e.line (x.base + off)).toList ++ (regionAt f e.line (x.base + off + 3)).toList).getD []

/-- A load from a region bound to a group waits while the thread's step is not swapped (R120). -/
def loadWaits (f : Fabric) (e : Elem) (w : Nat) (offs : List Nat) : Bool :=
  (offs.flatMap (windowRegions f e w)).any fun r =>
    match if r.planes = 1 then r.group.bind fun g => findGroup f (vfOf e.line) g else none with
    | some g => g.arrived.contains e.thread || g.waiting.contains e.thread
    | none => false

/-- A generator takes an element word's entry: it has fewer than 32 and runs no pattern (R50, R158, R159). -/
def genReady (f : Fabric) (e : Elem) (w : Nat) : Bool :=
  match vget e.w w with
  | some x =>
    decide ((f.accs.filter fun a => a.line == e.line && tileOf a.th == tileOf e.thread && a.gen == x.gen).length < 32)
      && (match findGen f e.line (tileOf e.thread) x.gen with | some g => !g.running | none => true)
  | none => false

/-- The implicit conditions of R50 on a word of an element. -/
def waitless (f : Fabric) (e : Elem) (i : Instr) : Bool :=
  let u := uses i
  u.srcs.all (fun s => !srcAwaited e s)
    && (srcHandles u.srcs).all (fun h => 1 ≤ (inputView f e h).length)
    && u.ins.all (fun x => x.2 ≤ (inputView f e x.1).length)
    && u.outs.all (fun x => outReady f e x.1 x.2)
    && !(u.lat && awaited e .lat)
    && (match u.dst with
        | some (.c h) => 1 ≤ outRoom f e h
        | some d => !awaited e d
        | none => true)
    && (match u.win with | some w => genReady f e w | none => true)
    && (match i with
        | .steer _ c x y _ => steerReady f e c x y
        | .merge _ c a b o => mergeReady f e c a b o
        | .step _ a => !stepWaits f e a
        | .ld _ _ o w _ _ => !loadWaits f e w ((readSrc f e .offset o).v.toList.map BitVec.toNat)
        | .ldv _ _ o w _ _ => !loadWaits f e w ((List.range 8).map fun i => (readSrc f e .offset o).v.l0.toNat + 4 * i)
        | .mxq _ _ o w => !loadWaits f e w ((List.range 16).map fun i => (readSrc f e .offset o).v.l0.toNat + 4 * i)
        | _ => true)

/-- The conditions of R50 and R51 on a word of an element. -/
def ready (f : Fabric) (e : Elem) (i : Instr) : Bool := elemRuns f e && waitless f e i

/-! ## Results -/

/-- The token a firing of `slot` writes (R45). -/
def mkToken (f : Fabric) (e : Elem) (slot tag : Nat) (r : Reg) : Token :=
  ⟨r.v, tag, r.poison, nodeOf e slot, seqOf f e, union e.mine e.know⟩

/-- Stage a token at an output handle, behind a pending end-of-stream (R262), or replace the outbox's (R44, R370). -/
def stageTok (t : Token) (await : Option Nat) (e : Elem) (h : Nat) (f : Fabric) : Fabric :=
  match vget e.h h with
  | .outbox => match await with
    | none => updStation e.line e.station (putOutbox t) f
    | some _ => f
  | .chan l n => updChan l n (fun c => let c := commitPend (union e.mine e.know) f c; { c with staged := c.staged ++ [⟨t, await, false⟩] }) f
  | _ => f

/-- The registers a result in `d` fills, as `loads` numbers them. -/
def dstRegs (d : Dst) : List Nat := match d with | .o n => [0, n + 1] | _ => [0]

/-- Set `lat`, and the destination when it is a register (R57). The registers hold no load's value any more (R236). -/
def Elem.setResult (e : Elem) (d : Dst) (r : Reg) : Elem :=
  let ls := e.loads.filter fun x => !(dstRegs d).contains x.1
  match d with
  | .lat => { e with lat := r, loads := ls }
  | .o n => { e with lat := r, o := vset e.o n r, loads := ls }
  | .c _ => { e with lat := r, loads := ls }

/-- WRITE A RESULT (R55, R57): the destination, and `lat`. -/
def writeResult (e : Elem) (slot : Nat) (d : Dst) (r : Reg) (f : Fabric) : Fabric :=
  let g := updElem e.line e.thread (fun x => x.setResult d r) f
  match d with
  | .c h => stageTok (mkToken f e slot 0 r) none e h g
  | _ => g

/-- Set predicate `n` (R59). -/
def setPred (n : Nat) (v : Bool) (e : Elem) : Elem :=
  { e with preds := if v then e.preds ||| BitVec.ofNat 7 (2 ^ n) else e.preds &&& ~~~ BitVec.ofNat 7 (2 ^ n) }

/-! ## Firing -/

/-- The tokens a firing uses: its guard's conditions and its word's operands (R143, R236). -/
def firingInputs (f : Fabric) (e : Elem) (i : Instr) (g : Nat) : List (Nat × Nat) := (guardInputs e g ++ wordInputs f e i).eraseDups

/-- The firing acquires the releases of the tokens it uses (R143). -/
def acquireHeads (f : Fabric) (e : Elem) (hs : List (Nat × Nat)) : List Nat :=
  hs.foldl (fun k h => ((inputView f e h.1).take h.2).foldl (fun k t => union t.rel k) k) e.know

/-- The last-arrival record of a firing (R236): the input whose value came last since the element's previous firing. -/
def lastArrival (f : Fabric) (e : Elem) (slot : Nat) (i : Instr) (hs : List (Nat × Nat)) : Arrival :=
  let ins := (hs.filter fun h => h.1 < 4).filterMap fun h =>
    (arrivalOf f e h.1 h.2).map fun c => (c, (match vget e.h h.1 with | .inbox => 5 | _ => h.1))
  let cand := ins ++ (e.loads.filter fun x => (wordRegs i).contains x.1).map fun x => (x.2, 4)
  let key (c : Nat) : Nat := if c < 4 then c else if c = 5 then 4 else 5
  let best := cand.foldl (fun b x => if x.1 < e.lastFire ∨ x.1 = 0 then b else
    match b with
    | none => some x
    | some y => if y.1 < x.1 ∨ (y.1 = x.1 ∧ key x.2 < key y.2) then some x else b) (none : Option (Nat × Nat))
  match best with
  | some (c, k) => ⟨nodeOf e slot, k, c⟩
  | none => ⟨nodeOf e slot, 6, e.lastFire⟩

/-- The output handles to which a word commits a token. An outbox takes no commit of ADVW and no end-of-stream (R370). -/
def commitHandles (f : Fabric) (e : Elem) (i : Instr) : List Nat :=
  let eos (h : Nat) : List Nat := match vget e.h h with | .outbox => [] | _ => [h]
  match i with
  | .advw _ h _ | .eos _ h _ => eos h
  | .emit _ h g _ => if isEos g then eos h else [h]
  | .steer _ c x y p =>
    match (inputView f e c).head? with
    | some t => if isEos t.tag then eos x ++ eos y else if predVal f e p then [x] else [y]
    | none => []
  | .merge _ c _ _ o =>
    match (inputView f e c).head? with
    | some t => if t.tag = 2 then [o] else eos o
    | none => []
  | _ => match (uses i).dst with
    | some (.c h) => (match vget e.h h with | .outbox => [h] | _ => [])
    | _ => []

/-- After a firing: rotate pointer (R52), acquired releases, last-arrival records (R236), counter event 2 (R241). -/
def afterFire (e : Elem) (slot : Nat) (i : Instr) (f0 f : Fabric) : Fabric :=
  let hs := firingInputs f0 e i ((vget e.slots slot).toNat / 67108864)
  let arr := lastArrival f0 e slot i hs
  let outs := commitHandles f0 e i
  let f := updElem e.line e.thread (fun x => { x with
    rotPtr := slot % 32
    know := union (acquireHeads f0 e hs) x.know
    arrivals := outs.foldl (fun a h => vset a h arr) x.arrivals
    lastFire := f0.cycle
    redo := none }) f
  markMoved e.line (countEvent e.line (tileOf e.thread) 2 f)

/-- An outcome of a firing's effect: the new fabric, or a fault code and detail (R64). -/
abbrev Effect := Except (Nat × Nat) Fabric

/-- A FIRING (R50, R55, R64): a word that is not ready waits; else it has its effect, or faults with none. Words are executed by
firing elements alone: where none fires, nothing happens. -/
def fireWord (i : Instr) (eff : Memory → Elem → Nat → Fabric → Effect) (s : State) : Host.Outcome State Fault Refusal :=
  match s.fab.cur with
  | .elem l th slot =>
    match findElem s.fab l th with
    | some e0 =>
      if ready s.fab e0 i then
        let e := { e0 with know := acquireHeads s.fab e0 (firingInputs s.fab e0 i ((vget e0.slots slot).toNat / 67108864)) }
        match eff s.mem e slot s.fab with
        | .ok f => .next (State.commit s.mem (afterFire e slot i s.fab f))
        | .error x => .next (State.commit s.mem (elemFault e slot x.1 x.2 s.fab))
      else .next s
    | none => .next s
  | _ => .next s

/-- A firing whose effect is a result in `d`. -/
def fireResult (i : Instr) (d : Dst) (val : Fabric → Elem → Reg) (s : State) : Host.Outcome State Fault Refusal :=
  fireWord i (fun _ e slot f => .ok (writeResult e slot d (val f e) f)) s

end Sys2Proof.Machine
end

