-- ==== Sys2Proof/Machine/Flags.lean ====
section
/-!
DEFINITION. Predicates and masks: the truth table of PLOG (R72, R343), PANY and PALL (R341), the compare masks of CMP
(R279) and FCMP (R292).
-/
namespace Sys2Proof.Machine

/-- tt[2·pA + pB] (R343). -/
def truthTable (tt : Nat) (pa pb : Bool) : Bool := tt / 2 ^ (2 * b2n pa + b2n pb) % 2 == 1

/-- Any of the eight lanes is nonzero (R341). -/
def anyLane (v : Lanes) : Bool := v.toList.any fun x => x != 0

/-- Every lane is nonzero (R341). -/
def allLanes (v : Lanes) : Bool := v.toList.all fun x => x != 0

/-- All ones of width `w`, or zero. -/
def maskElem (w : Nat) (b : Bool) : Nat := if b then 2 ^ w - 1 else 0

/-- The condition of CMP variant `v` (R279). -/
def cmpCond (v w x y : Nat) : Bool :=
  match v with
  | 0 => x == y
  | 1 => x != y
  | 2 => decide (toS w x < toS w y)
  | 3 => decide (toS w y ≤ toS w x)
  | 4 => decide (x < y)
  | _ => decide (y ≤ x)

/-- The condition of FCMP variant `v` (R292). -/
def fcmpCond (v : Nat) (x y : FV) : Bool :=
  match v with
  | 0 => fEq x y
  | 1 => !fEq x y
  | 2 => fLt x y
  | 3 => fLt x y || fEq x y
  | 4 => x.isNan || y.isNan
  | _ => !(x.isNan || y.isNan)

end Sys2Proof.Machine
end

