-- ==== Sys2Proof/Machine/IntWords.lean ====
section
/-!
DEFINITION. The lanewise integer words (R257 to R279, R327, R329, R332, R334, R337), ADDI, LI, LIH (R260, R321), and the
lane words LBC, LSHF, LRED, LSCAN (R316, R324 to R326).
-/
namespace Sys2Proof.Machine

/-- THE LOOP OF R257: `g w a b` gives each element of width `w` from those of A and B, unsigned patterns. -/
def intLanes (ifmt : Nat) (g : Nat → Nat → Nat → Nat) (a b : Lanes) : Lanes :=
  let w := intWidth ifmt
  Lanes.ofFn fun l => packElems w fun n => g w (elemU (a.get l) n w) (elemU (b.get l) n w)

/-- The loop of R257 with the old value of d as a third operand (R272, R327). -/
def intLanes3 (ifmt : Nat) (g : Nat → Nat → Nat → Nat → Nat) (a b c : Lanes) : Lanes :=
  let w := intWidth ifmt
  Lanes.ofFn fun l => packElems w fun n => g w (elemU (a.get l) n w) (elemU (b.get l) n w) (elemU (c.get l) n w)

/-- The result of a two-source integer word. -/
def intVal2 (g : Bool → Nat → Nat → Nat → Nat) (a b : Src) (f : Fabric) (e : Elem) : Reg :=
  let x := readSrc f e .int a
  let y := readSrc f e .int b
  ⟨intLanes e.ifmt (g e.sat) x.v y.v, x.poison || y.poison⟩

/-- The result of a one-source integer word. -/
def intVal1 (g : Bool → Nat → Nat → Nat) (a : Src) (f : Fabric) (e : Elem) : Reg :=
  let x := readSrc f e .int a
  ⟨intLanes e.ifmt (fun w p _ => g e.sat w p) x.v x.v, x.poison⟩

/-- The result of a two-source integer word that also reads d. -/
def intVal3 (g : Bool → Nat → Nat → Nat → Nat → Nat) (d : Dst) (a b : Src) (f : Fabric) (e : Elem) : Reg :=
  let x := readSrc f e .int a
  let y := readSrc f e .int b
  let z := readDst e d
  ⟨intLanes3 e.ifmt (g e.sat) x.v y.v z.v, x.poison || y.poison || z.poison⟩

def addE (sat : Bool) (w x y : Nat) : Nat := satW sat w (toS w x + toS w y)
def subE (sat : Bool) (w x y : Nat) : Nat := satW sat w (toS w x - toS w y)
def mulE (sat : Bool) (w x y : Nat) : Nat := satW sat w (toS w x * toS w y)
def mulhE (w x y : Nat) : Nat := wrapU w (toS w x * toS w y / 2 ^ w)
def mulhuE (w x y : Nat) : Nat := x * y / 2 ^ w % 2 ^ w
def madE (sat : Bool) (w x y z : Nat) : Nat := satW sat w (toS w x * toS w y + toS w z)
def absE (sat : Bool) (w x : Nat) : Nat := satW sat w (toS w x).natAbs
def shlE (w x c : Nat) : Nat := if c < w then x * 2 ^ c % 2 ^ w else 0
def shrE (w x c : Nat) : Nat := if c < w then x / 2 ^ c else 0
def sraE (w x c : Nat) : Nat := wrapU w (if c < w then toS w x / 2 ^ c else if toS w x < 0 then -1 else 0)
def rotE (w x c : Nat) : Nat := x * 2 ^ (c % w) % 2 ^ w + x / 2 ^ (w - c % w)
def minE (w x y : Nat) : Nat := if toS w x ≤ toS w y then x else y
def maxE (w x y : Nat) : Nat := if toS w x ≤ toS w y then y else x
/-- Leading zeros (R278). -/
def clzE (w x : Nat) : Nat := if x = 0 then w else w - 1 - Nat.log2 x
/-- Set bits (R344). -/
def popcE (w x : Nat) : Nat := ((List.range w).filter fun i => x / 2 ^ i % 2 == 1).length
/-- log2 of the width (R272). -/
def lgW (w : Nat) : Nat := if w = 32 then 5 else if w = 16 then 4 else 3
/-- The field a descriptor names: position and length (R272). -/
def bfPos (w b : Nat) : Nat := b % 2 ^ lgW w
def bfLen (w b : Nat) : Nat := min (b / 2 ^ lgW w % 2 ^ lgW w + 1) (w - bfPos w b)
def bfxE (w x b : Nat) : Nat := x / 2 ^ bfPos w b % 2 ^ bfLen w b
def bfiE (w x b z : Nat) : Nat :=
  z - z / 2 ^ bfPos w b % 2 ^ bfLen w b * 2 ^ bfPos w b + x % 2 ^ bfLen w b * 2 ^ bfPos w b

def execAdd (t : Nat) (d : Dst) (a b : Src) (s : State) : Host.Outcome State Fault Refusal :=
  fireResult (.add t d a b) d (intVal2 addE a b) s

/-- ADDI's constant by element width (R260). -/
def addiConst (w imm : Nat) : Int := if w = 8 then toS 8 (imm % 256) else toS 12 (imm % 4096)

def execAddi (t : Nat) (d : Dst) (i : Nat) (s : State) : Host.Outcome State Fault Refusal :=
  fireResult (.addi t d i) d (fun _ e =>
    let z := readDst e d
    ⟨intLanes e.ifmt (fun w x _ => satW e.sat w (toS w x + addiConst w i)) z.v z.v, z.poison⟩) s

def execSub (t : Nat) (d : Dst) (a b : Src) (s : State) : Host.Outcome State Fault Refusal :=
  fireResult (.sub t d a b) d (intVal2 subE a b) s
def execMul (t : Nat) (d : Dst) (a b : Src) (s : State) : Host.Outcome State Fault Refusal :=
  fireResult (.mul t d a b) d (intVal2 mulE a b) s
def execMulh (t : Nat) (d : Dst) (a b : Src) (s : State) : Host.Outcome State Fault Refusal :=
  fireResult (.mulh t d a b) d (intVal2 (fun _ => mulhE) a b) s
def execMulhu (t : Nat) (d : Dst) (a b : Src) (s : State) : Host.Outcome State Fault Refusal :=
  fireResult (.mulhu t d a b) d (intVal2 (fun _ => mulhuE) a b) s
def execMad (t : Nat) (d : Dst) (a b : Src) (s : State) : Host.Outcome State Fault Refusal :=
  fireResult (.mad t d a b) d (intVal3 madE d a b) s
def execAbs (t : Nat) (d : Dst) (a : Src) (s : State) : Host.Outcome State Fault Refusal :=
  fireResult (.abs t d a) d (intVal1 absE a) s
def execAnd (t : Nat) (d : Dst) (a b : Src) (s : State) : Host.Outcome State Fault Refusal :=
  fireResult (.and t d a b) d (intVal2 (fun _ _ x y => x &&& y) a b) s
def execOr (t : Nat) (d : Dst) (a b : Src) (s : State) : Host.Outcome State Fault Refusal :=
  fireResult (.or t d a b) d (intVal2 (fun _ _ x y => x ||| y) a b) s
def execXor (t : Nat) (d : Dst) (a b : Src) (s : State) : Host.Outcome State Fault Refusal :=
  fireResult (.xor t d a b) d (intVal2 (fun _ _ x y => x ^^^ y) a b) s
def execAndn (t : Nat) (d : Dst) (a b : Src) (s : State) : Host.Outcome State Fault Refusal :=
  fireResult (.andn t d a b) d (intVal2 (fun _ w x y => x &&& (2 ^ w - 1 - y)) a b) s
def execShl (t : Nat) (d : Dst) (a b : Src) (s : State) : Host.Outcome State Fault Refusal :=
  fireResult (.shl t d a b) d (intVal2 (fun _ => shlE) a b) s
def execShr (t : Nat) (d : Dst) (a b : Src) (s : State) : Host.Outcome State Fault Refusal :=
  fireResult (.shr t d a b) d (intVal2 (fun _ => shrE) a b) s
def execSra (t : Nat) (d : Dst) (a b : Src) (s : State) : Host.Outcome State Fault Refusal :=
  fireResult (.sra t d a b) d (intVal2 (fun _ => sraE) a b) s
def execRot (t : Nat) (d : Dst) (a b : Src) (s : State) : Host.Outcome State Fault Refusal :=
  fireResult (.rot t d a b) d (intVal2 (fun _ => rotE) a b) s
def execMin (t : Nat) (d : Dst) (a b : Src) (s : State) : Host.Outcome State Fault Refusal :=
  fireResult (.min t d a b) d (intVal2 (fun _ => minE) a b) s
def execMax (t : Nat) (d : Dst) (a b : Src) (s : State) : Host.Outcome State Fault Refusal :=
  fireResult (.max t d a b) d (intVal2 (fun _ => maxE) a b) s
def execMinu (t : Nat) (d : Dst) (a b : Src) (s : State) : Host.Outcome State Fault Refusal :=
  fireResult (.minu t d a b) d (intVal2 (fun _ _ x y => min x y) a b) s
def execMaxu (t : Nat) (d : Dst) (a b : Src) (s : State) : Host.Outcome State Fault Refusal :=
  fireResult (.maxu t d a b) d (intVal2 (fun _ _ x y => max x y) a b) s
def execClz (t : Nat) (d : Dst) (a : Src) (s : State) : Host.Outcome State Fault Refusal :=
  fireResult (.clz t d a) d (intVal1 (fun _ => clzE) a) s
def execPopc (t : Nat) (d : Dst) (a : Src) (s : State) : Host.Outcome State Fault Refusal :=
  fireResult (.popc t d a) d (intVal1 (fun _ => popcE) a) s
def execBfx (t : Nat) (d : Dst) (a b : Src) (s : State) : Host.Outcome State Fault Refusal :=
  fireResult (.bfx t d a b) d (intVal2 (fun _ => bfxE) a b) s
def execBfi (t : Nat) (d : Dst) (a b : Src) (s : State) : Host.Outcome State Fault Refusal :=
  fireResult (.bfi t d a b) d (intVal3 (fun _ => bfiE) d a b) s
def execCmp (t v : Nat) (d : Dst) (a b : Src) (s : State) : Host.Outcome State Fault Refusal :=
  fireResult (.cmp t v d a b) d (intVal2 (fun _ w x y => maskElem w (cmpCond v w x y)) a b) s

/-- BSEL (R275): `lat` is the mask, as it stood before the firing. -/
def bselVal (a b : Src) (f : Fabric) (e : Elem) : Reg :=
  let x := readSrc f e .int a
  let y := readSrc f e .int b
  ⟨Lanes.ofFn fun l => (x.v.get l &&& e.lat.v.get l) ||| (y.v.get l &&& ~~~ e.lat.v.get l),
   x.poison || y.poison || e.lat.poison⟩

def execBsel (t : Nat) (d : Dst) (a b : Src) (s : State) : Host.Outcome State Fault Refusal :=
  fireResult (.bsel t d a b) d (bselVal a b) s

def execLi (t : Nat) (d : Dst) (i : Nat) (s : State) : Host.Outcome State Fault Refusal :=
  fireResult (.li t d i) d (fun _ _ => ⟨Lanes.rep (BitVec.ofInt 32 (toS 12 (i % 4096))), false⟩) s

def execLih (t : Nat) (d : Dst) (i : Nat) (s : State) : Host.Outcome State Fault Refusal :=
  fireResult (.lih t d i) d (fun _ e =>
    let z := readDst e d
    ⟨z.v.map fun x => x * 4096 + BitVec.ofNat 32 (i % 4096), z.poison⟩) s

/-- LBC (R316). -/
def lbcVal (a b : Src) (f : Fabric) (e : Elem) : Reg :=
  let x := readSrc f e .int a
  let y := readSrc f e .int b
  ⟨Lanes.rep (x.v.get (y.v.l0.toNat % 8)), x.poison || y.poison⟩

def execLbc (t : Nat) (d : Dst) (a b : Src) (s : State) : Host.Outcome State Fault Refusal :=
  fireResult (.lbc t d a b) d (lbcVal a b) s

/-- LSHF (R326). -/
def lshfVal (a b : Src) (f : Fabric) (e : Elem) : Reg :=
  let x := readSrc f e .int a
  let y := readSrc f e .int b
  ⟨Lanes.ofFn fun i => x.v.get ((y.v.get i).toNat % 8), x.poison || y.poison⟩

def execLshf (t : Nat) (d : Dst) (a b : Src) (s : State) : Host.Outcome State Fault Refusal :=
  fireResult (.lshf t d a b) d (lshfVal a b) s

/-- Float addition of two element patterns, rounded once. -/
def faddE (t : Fmt) (rnd x y : Nat) : Nat := roundFV t rnd (fAdd rnd (fval t x) (fval t y))

/-- The combining step of LRED and LSCAN and its element width (R324). -/
def foldStep (e : Elem) (v : Nat) : Nat × (Nat → Nat → Nat) :=
  let w := intWidth e.ifmt
  match v with
  | 0 => (w, addE e.sat w)
  | 1 => (w, minE w)
  | 2 => (w, maxE w)
  | _ => let t := floatFmt e.ffmt; (t.width, faddE t e.rnd)

/-- The running combination of element position `n` after lane `l`, from lane 0 upward (R324). -/
def scanAt (w : Nat) (g : Nat → Nat → Nat) (x : Lanes) (n : Nat) : Nat → Nat
  | 0 => elemU x.l0 n w
  | l + 1 => g (scanAt w g x n l) (elemU (x.get (l + 1)) n w)

/-- The operand of a fold: its fadd variant meets an immediate as a float word does (R290, R324). -/
def foldSrc (f : Fabric) (e : Elem) (v : Nat) (a : Src) : Reg := readSrc f e (if v = 3 then .float else .int) a

def lredVal (v : Nat) (a : Src) (f : Fabric) (e : Elem) : Reg :=
  let x := foldSrc f e v a
  let st := foldStep e v
  ⟨Lanes.rep (packElems st.1 fun n => scanAt st.1 st.2 x.v n 7), x.poison⟩

def lscanVal (v : Nat) (a : Src) (f : Fabric) (e : Elem) : Reg :=
  let x := foldSrc f e v a
  let st := foldStep e v
  ⟨Lanes.ofFn fun l => packElems st.1 fun n => scanAt st.1 st.2 x.v n l, x.poison⟩

def execLred (t v : Nat) (d : Dst) (a : Src) (s : State) : Host.Outcome State Fault Refusal :=
  fireResult (.lred t v d a) d (lredVal v a) s
def execLscan (t v : Nat) (d : Dst) (a : Src) (s : State) : Host.Outcome State Fault Refusal :=
  fireResult (.lscan t v d a) d (lscanVal v a) s

end Sys2Proof.Machine
end

