-- ==== Sys2Proof/Machine/FloatWords.lean ====
section
/-!
DEFINITION. The float words (R290 to R307).
-/
namespace Sys2Proof.Machine

/-- THE LOOP OF R290 on element patterns of the float lane format. -/
def floatLanes (t : Fmt) (g : Nat → Nat → Nat) (a b : Lanes) : Lanes :=
  Lanes.ofFn fun l => packElems t.width fun n => g (elemU (a.get l) n t.width) (elemU (b.get l) n t.width)

/-- The result of a two-source float word, `g` taking the format and the mode. -/
def fltVal2 (g : Fmt → Nat → Nat → Nat → Nat) (a b : Src) (f : Fabric) (e : Elem) : Reg :=
  let x := readSrc f e .float a
  let y := readSrc f e .float b
  ⟨floatLanes (floatFmt e.ffmt) (g (floatFmt e.ffmt) e.rnd) x.v y.v, x.poison || y.poison⟩

/-- The result of a one-source float word. -/
def fltVal1 (g : Fmt → Nat → Nat → Nat) (a : Src) (f : Fabric) (e : Elem) : Reg :=
  let x := readSrc f e .float a
  ⟨floatLanes (floatFmt e.ffmt) (fun p _ => g (floatFmt e.ffmt) e.rnd p) x.v x.v, x.poison⟩

def fsubE (t : Fmt) (rnd x y : Nat) : Nat := roundFV t rnd (fAdd rnd (fval t x) (fNeg (fval t y)))
def fmulE (t : Fmt) (rnd x y : Nat) : Nat := roundFV t rnd (fMul (fval t x) (fval t y))
def fmaE (t : Fmt) (rnd x y z : Nat) : Nat := roundFV t rnd (fAdd rnd (fMul (fval t x) (fval t y)) (fval t z))

/-- a is below b with −0 below +0 (R300). -/
def fBelow (a b : FV) : Bool := fLt a b || (fEq a b && a.neg && !b.neg)

def fminE (t : Fmt) (_rnd x y : Nat) : Nat :=
  let a := fval t x
  let b := fval t y
  if a.isNan then (if b.isNan then t.nan else y) else if b.isNan then x else if fBelow b a then y else x
def fmaxE (t : Fmt) (_rnd x y : Nat) : Nat :=
  let a := fval t x
  let b := fval t y
  if a.isNan then (if b.isNan then t.nan else y) else if b.isNan then x else if fBelow a b then y else x

/-- FRND (R303): a zero result keeps the operand's sign. -/
def frndE (t : Fmt) (rnd x : Nat) : Nat :=
  match fval t x with
  | .nan => t.nan
  | .inf _ => x
  | .fin s m e => if m = 0 then x else roundFV t rnd (.fin s (roundInt rnd s m e).natAbs 0)

/-- FCVTI (R294). -/
def fcvtiE (t : Fmt) (rnd x : Nat) : Nat :=
  match fval t x with
  | .nan => 0
  | .inf s => wrapU t.width (if s then -(2 ^ (t.width - 1)) else 2 ^ (t.width - 1) - 1)
  | .fin s m e => wrapU t.width (clampS t.width (roundInt rnd s m e))

/-- FCVTF (R293). -/
def fcvtfE (t : Fmt) (rnd x : Nat) : Nat :=
  let v := toS t.width x
  roundFV t rnd (.fin (v < 0) v.natAbs 0)

/-- FSCL (R305): B is a signed integer of the element width. -/
def fsclE (t : Fmt) (rnd x y : Nat) : Nat :=
  match fval t x with
  | .nan => t.nan
  | .inf s => t.infCode s
  | .fin s m e => if m = 0 then t.sign s else roundFV t rnd (.fin s m (max (e - 100000) (min (e + 100000) (e + toS t.width y))))

def execFadd (t : Nat) (d : Dst) (a b : Src) (s : State) : Host.Outcome State Fault Refusal :=
  fireResult (.fadd t d a b) d (fltVal2 faddE a b) s
def execFsub (t : Nat) (d : Dst) (a b : Src) (s : State) : Host.Outcome State Fault Refusal :=
  fireResult (.fsub t d a b) d (fltVal2 fsubE a b) s
def execFmul (t : Nat) (d : Dst) (a b : Src) (s : State) : Host.Outcome State Fault Refusal :=
  fireResult (.fmul t d a b) d (fltVal2 fmulE a b) s

/-- FMA (R299): rounds a × b + d once. -/
def fmaVal (d : Dst) (a b : Src) (f : Fabric) (e : Elem) : Reg :=
  let x := readSrc f e .float a
  let y := readSrc f e .float b
  let z := readDst e d
  let t := floatFmt e.ffmt
  ⟨Lanes.ofFn fun l => packElems t.width fun n =>
      fmaE t e.rnd (elemU (x.v.get l) n t.width) (elemU (y.v.get l) n t.width) (elemU (z.v.get l) n t.width),
   x.poison || y.poison || z.poison⟩

def execFma (t : Nat) (d : Dst) (a b : Src) (s : State) : Host.Outcome State Fault Refusal :=
  fireResult (.fma t d a b) d (fmaVal d a b) s
def execFmin (t : Nat) (d : Dst) (a b : Src) (s : State) : Host.Outcome State Fault Refusal :=
  fireResult (.fmin t d a b) d (fltVal2 fminE a b) s
def execFmax (t : Nat) (d : Dst) (a b : Src) (s : State) : Host.Outcome State Fault Refusal :=
  fireResult (.fmax t d a b) d (fltVal2 fmaxE a b) s
def execFrcp (t : Nat) (d : Dst) (a : Src) (s : State) : Host.Outcome State Fault Refusal :=
  fireResult (.frcp t d a) d (fltVal1 (fun m r x => fRcp m r (fval m x)) a) s
def execFrsq (t : Nat) (d : Dst) (a : Src) (s : State) : Host.Outcome State Fault Refusal :=
  fireResult (.frsq t d a) d (fltVal1 (fun m r x => fRsq m r (fval m x)) a) s
def execFexp2 (t : Nat) (d : Dst) (a : Src) (s : State) : Host.Outcome State Fault Refusal :=
  fireResult (.fexp2 t d a) d (fltVal1 (fun m r x => fExp2 m r (fval m x)) a) s
def execFlog2 (t : Nat) (d : Dst) (a : Src) (s : State) : Host.Outcome State Fault Refusal :=
  fireResult (.flog2 t d a) d (fltVal1 (fun m r x => fLog2 m r (fval m x)) a) s
def execFtanh (t : Nat) (d : Dst) (a : Src) (s : State) : Host.Outcome State Fault Refusal :=
  fireResult (.ftanh t d a) d (fltVal1 (fun m r x => fTanh m r (fval m x)) a) s
def execFcvti (t : Nat) (d : Dst) (a : Src) (s : State) : Host.Outcome State Fault Refusal :=
  fireResult (.fcvti t d a) d (fltVal1 fcvtiE a) s

/-- FCVTF reads A as an integer word does (R293). -/
def fcvtfVal (a : Src) (f : Fabric) (e : Elem) : Reg :=
  let x := readSrc f e .int a
  ⟨floatLanes (floatFmt e.ffmt) (fun p _ => fcvtfE (floatFmt e.ffmt) e.rnd p) x.v x.v, x.poison⟩

def execFcvtf (t : Nat) (d : Dst) (a : Src) (s : State) : Host.Outcome State Fault Refusal :=
  fireResult (.fcvtf t d a) d (fcvtfVal a) s
def execFrnd (t : Nat) (d : Dst) (a : Src) (s : State) : Host.Outcome State Fault Refusal :=
  fireResult (.frnd t d a) d (fltVal1 frndE a) s

/-- FSCL's result: an immediate in B is an integer (R305). -/
def fsclVal (a b : Src) (f : Fabric) (e : Elem) : Reg :=
  let x := readSrc f e .float a
  let y := readSrc f e .fint b
  ⟨floatLanes (floatFmt e.ffmt) (fsclE (floatFmt e.ffmt) e.rnd) x.v y.v, x.poison || y.poison⟩

def execFscl (t : Nat) (d : Dst) (a b : Src) (s : State) : Host.Outcome State Fault Refusal :=
  fireResult (.fscl t d a b) d (fsclVal a b) s
def execFcmp (t v : Nat) (d : Dst) (a b : Src) (s : State) : Host.Outcome State Fault Refusal :=
  fireResult (.fcmp t v d a b) d
    (fltVal2 (fun m _ x y => maskElem m.width (fcmpCond v (fval m x) (fval m y))) a b) s

end Sys2Proof.Machine
end

