-- ==== Sys2Proof/Machine/MoveWords.lean ====
section
/-!
DEFINITION. Moves (R308, R333, R346), predicate words (R340 to R345), NOP (R338), TRAP and BRK (R274, R364), and the words
that read the line and the tile: BEATQ, SEQ, DONE, CTRRD, EBRD, WPR (R271, R281, R283, R285, R352, R366).
-/
namespace Sys2Proof.Machine

def execNop (t : Nat) (s : State) : Host.Outcome State Fault Refusal :=
  fireWord (.nop t) (fun _ _ _ f => .ok f) s

/-- TRAP faults with code 15 and the word's code in the detail (R364). -/
def execTrap (t c : Nat) (s : State) : Host.Outcome State Fault Refusal :=
  fireWord (.trap t c) (fun _ _ _ _ => .error (codeTrap, c)) s

/-- BRK faults with code 16 and the word's code in the detail (R274). -/
def execBrk (t c : Nat) (s : State) : Host.Outcome State Fault Refusal :=
  fireWord (.brk t c) (fun _ _ _ _ => .error (codeBrk, c)) s

def execGetm (t : Nat) (d : Dst) (m : Nat) (s : State) : Host.Outcome State Fault Refusal :=
  fireResult (.getm t d m) d (fun _ e => vget e.m m) s

def execPutm (t : Nat) (a : Src) (m : Nat) (s : State) : Host.Outcome State Fault Refusal :=
  fireWord (.putm t a m) (fun _ e _ f =>
    .ok (updElem e.line e.thread (fun x => { x with m := vset x.m m (readSrc f e .int a) }) f)) s

def execMov (t : Nat) (d : Dst) (a : Src) (s : State) : Host.Outcome State Fault Refusal :=
  fireResult (.mov t d a) d (fun f e => readSrc f e .int a) s

/-- A firing that writes one predicate. -/
def firePred (i : Instr) (p : Nat) (v : Fabric → Elem → Bool) (s : State) : Host.Outcome State Fault Refusal :=
  fireWord i (fun _ e _ f => .ok (updElem e.line e.thread (setPred p (v f e)) f)) s

def execPset (t p : Nat) (v : Bool) (s : State) : Host.Outcome State Fault Refusal :=
  firePred (.pset t p v) p (fun _ _ => v) s
def execPlog (t p pa pb tt : Nat) (s : State) : Host.Outcome State Fault Refusal :=
  firePred (.plog t p pa pb tt) p (fun f e => truthTable tt (predVal f e pa) (predVal f e pb)) s
def execPany (t p : Nat) (s : State) : Host.Outcome State Fault Refusal :=
  firePred (.pany t p) p (fun _ e => anyLane e.lat.v) s
def execPall (t p : Nat) (s : State) : Host.Outcome State Fault Refusal :=
  firePred (.pall t p) p (fun _ e => allLanes e.lat.v) s

/-- The bellows registers, index 0 first (R32, R271). -/
def bellowsRegs (b : Bellows) : List Nat :=
  [b2n b.fixed + 2 * b2n b.ovfRaise + 4 * b2n b.stretched, b.beat + 65536 * b.floor, b.min + 65536 * b.max, b.up + 65536 * b.down,
   b.window, b.low + 65536 * b.high, b.wovr + 65536 * b.wbeats + 2147483648 * b2n b.wstr, b.stall, b.ovr, b.ovf, b.str]

/-- A bellows register by index; indices 11 to 15 read 0 (R271). -/
def bellowsReg (b : Bellows) (i : Nat) : Nat := (bellowsRegs b).getD i 0

def execBeatq (t : Nat) (d : Dst) (i : Nat) (s : State) : Host.Outcome State Fault Refusal :=
  fireResult (.beatq t d i) d (fun f e =>
    ⟨Lanes.rep (BitVec.ofNat 32 (match findLine f e.line with | some l => bellowsReg l.bel i | none => 0)), false⟩) s

/-- The number SEQ writes (R352). -/
def seqVal (f : Fabric) (e : Elem) : Nat :=
  match (findStation f e.line e.station).bind workItem with
  | some it => it.seq
  | none => 0xFFFFFFFF

def execSeq (t : Nat) (d : Dst) (s : State) : Host.Outcome State Fault Refusal :=
  fireResult (.seq t d) d (fun f e => ⟨Lanes.rep (BitVec.ofNat 32 (seqVal f e)), false⟩) s

/-- Mark the item in work as done at an element of the done set (R283). -/
def markDone (th : Nat) (st : Station) : Station :=
  let mark (it : Item) : Item :=
    if it.done.isSome || !st.doneSet.contains th then it else { it with marks := addNew th it.marks }
  match st.resumed with
  | some (i, it) => { st with resumed := some (i, mark it) }
  | none => { st with item := st.item.map mark }

/-- Before the edge that opens beat 0 DONE has no effect (R368); no station then holds an item. -/
def execDone (t : Nat) (s : State) : Host.Outcome State Fault Refusal :=
  fireWord (.done t) (fun _ e _ f => .ok (updStation e.line e.station (markDone e.thread) f)) s

/-- The events of a code in a tile in this cycle so far (R241). -/
def eventsNow (x : Tile) (code : Nat) : Nat := if code = 0 then 0 else (x.now.filter fun c => c == code).length

/-- A counter's value with this cycle's events added (R240, R242). -/
def counterNow (x : Tile) (i : Nat) : Nat := vget x.ctr i + eventsNow x (vget x.sel i)

/-- What a counter that stands at `v` when the cycle's events are in is left at: a write in the cycle replaces the value after them, and
2^48 or more is a wrap (R240, R242). -/
def counterClosed (x : Tile) (i v : Nat) : Nat :=
  match x.wrote.find? fun w => w.1 == i with
  | some w => w.2 + (if 2 ^ 48 ≤ v then 2 ^ 48 else 0)
  | none => v

/-- A tile's counters take the cycle's events; COUNTER_WRAP completes a wrap (R240). -/
def addCounts (t : Tile) : Tile :=
  { t with ctr := Vector.ofFn fun i => counterClosed t i.val (counterNow t i.val), now := [], wrote := [] }

/-- The poisoned tokens a tile's units have committed in the cycle are counted (R241, event 12) before an edge can discard them; a saved
tile's are in its block (R240). -/
def bankPoison (f : Fabric) (t : Tile) : Tile :=
  if t.saved then t else { t with now := List.replicate (poisonedNow f t.line t.num) 12 ++ t.now }

/-- CTRRD's lanes (R242, R281) for a counter that stands at `n` at the end of the cycle: the value, and OVF, which a wrap sets. -/
def ctrVal (x : Tile) (i n : Nat) : Lanes :=
  let ovf := x.ovf.getLsbD i || decide (2 ^ 48 ≤ n)
  Lanes.two (BitVec.ofNat 32 n) (BitVec.ofNat 32 (n / 4294967296 % 65536 + 2147483648 * b2n ovf))

def execEbrd (t : Nat) (d : Dst) (s : State) : Host.Outcome State Fault Refusal :=
  fireResult (.ebrd t d) d (fun f e =>
    ⟨Lanes.two (BitVec.ofNat 32 (getPart f (vfOf e.line)).remain) 0, false⟩) s

/-- WPR's lanes (R165, R366). -/
def wprVal (f : Fabric) (e : Elem) (a : Src) : Reg :=
  let x := readSrc f e .int a
  match findCopy f e.line (tileOf e.thread) (x.v.l0.toNat % 2) with
  | some c =>
    ⟨⟨BitVec.ofNat 32 c.wp, BitVec.ofNat 32 c.entry, BitVec.ofNat 32 c.queue, BitVec.ofNat 32 (b2n c.busy), 0, 0, 0, 0⟩,
     x.poison⟩
  | none => ⟨Lanes.zero, x.poison⟩

/-- What WPR's WP covers (R165): the delivered beats of the current or last entry, for an element in one instance of its SCOPE,
which holds a copy's destinations from line scope on (R136). -/
def wprCovers (c : CopyCh) : List Nat := if 2 ≤ c.scope then c.ids else []

/-- WPR; the element acquires the bytes the write pointer covers (R165). -/
def execWpr (t : Nat) (d : Dst) (a : Src) (s : State) : Host.Outcome State Fault Refusal :=
  fireWord (.wpr t d a) (fun _ e slot f =>
    let f := match findCopy f e.line (tileOf e.thread) ((readSrc f e .int a).v.l0.toNat % 2) with
      | some c => updElem e.line e.thread (fun x => { x with know := union (wprCovers c) x.know }) f
      | none => f
    .ok (writeResult e slot d (wprVal f e a) f)) s

end Sys2Proof.Machine
end

