-- ==== Sys2Proof/Machine/ChanWords.lean ====
section
/-!
DEFINITION. Channel words: ADVR, ADVW, PEEK, EMIT, EOS, CHQ, STEER, MERGE (R261, R262, R277, R286 to R289, R330, R342, R360).
-/
namespace Sys2Proof.Machine

/-- Pop `n` slots of an input handle; an inbox keeps its head (R16). -/
def popHandle (e : Elem) (h n : Nat) (f : Fabric) : Fabric :=
  match vget e.h h with
  | .chan l k => updChan l k (popChan n f) f
  | _ => f

def execAdvr (t h n : Nat) (s : State) : Host.Outcome State Fault Refusal :=
  fireWord (.advr t h n) (fun _ e _ f =>
    match vget e.h h with
    | .inbox => .ok f
    | _ => if (inputView f e h).length < n then .error (codeChan, 0) else .ok (popHandle e h n f)) s

/-- What a commit of this element releases (R143). -/
def relOf (e : Elem) : List Nat := union e.mine e.know

def execAdvw (t h n : Nat) (s : State) : Host.Outcome State Fault Refusal :=
  fireWord (.advw t h n) (fun _ e _ f =>
    match vget e.h h with
    | .chan l k =>
      match findChan f l k with
      | some c =>
        if uncommitted c < n then .error (codeChan, 0)
        else if c.closed then .error (codeMbox, 0)
        else .ok (updChan l k (commitStaged n (relOf e) f) f)
      | none => .error (codeChan, 0)
    | .outbox => .ok f
    | _ => .error (codeChan, 0)) s

def execPeek (t h k : Nat) (d : Dst) (s : State) : Host.Outcome State Fault Refusal :=
  fireResult (.peek t h k d) d (fun f e =>
    match (inputView f e h)[k]? with
    | some x => ⟨x.payload, x.poison⟩
    | none => Reg.zero) s

/-- Write and commit a token of tag 0 to 2 at an output handle, or an end-of-stream under R48 (R286, R360). The commit releases what its
element has issued, beside what a forwarded token carries (R143, R330). R286 has EMIT fault at no run time, and R194 and R195 have a commit
toward a closed link fault: DEDUCED the commit of an EMIT too faults there, with MBOX_CLOSED (log 24). -/
def sendTok (t : Token) (e : Elem) (h : Nat) (f : Fabric) : Effect :=
  match vget e.h h with
  | .outbox => .ok (if isEos t.tag then f else updStation e.line e.station (putOutbox { t with rel := union (relOf e) t.rel }) f)
  | .chan l k =>
    match findChan f l k with
    | some c =>
      if c.closed then .error (codeMbox, 0)
      else if isEos t.tag then
        .ok (updElem e.line e.thread (fun x => { x with eosNow := addNew h x.eosNow })
          (updChan l k (foldPend t (relOf e) f) f))
      else .ok (updChan l k (fun c =>
        let c := commitPend (relOf e) f c
        let c := commitStaged c.staged.length (relOf e) f c
        commitBehind { t with rel := union (relOf e) t.rel } f c) f)
    | none => .error (codeChan, 0)
  | _ => .error (codeChan, 0)

def execEmit (t h g : Nat) (a : Src) (s : State) : Host.Outcome State Fault Refusal :=
  fireWord (.emit t h g a) (fun _ e slot f => sendTok (mkToken f e slot g (readSrc f e .int a)) e h f) s

def execEos (t h g : Nat) (s : State) : Host.Outcome State Fault Refusal :=
  fireWord (.eos t h g) (fun _ e slot f => sendTok (mkToken f e slot g Reg.zero) e h f) s

/-- CHQ's lanes (R44, R277, R370). No rule says what a word finds at a handle bound to nothing: DESIGN CHOICE zero in every lane here,
no token and no room for a word that reads or writes it, and CHAN_ERR for one that advances it (log 96). -/
def chqVal (f : Fabric) (e : Elem) (h : Nat) : Lanes :=
  let head (v : List Token) (n0 seq depth : Nat) : Lanes :=
    match v.head? with
    | some t => ⟨BitVec.ofNat 32 n0, 0, 0, BitVec.ofNat 32 t.tag, BitVec.ofNat 32 seq, BitVec.ofNat 32 t.node,
        BitVec.ofNat 32 (b2n t.poison), BitVec.ofNat 32 depth⟩
    | none => ⟨0, 0, 0, 15, 0, 0, 0, BitVec.ofNat 32 depth⟩
  match vget e.h h with
  | .inbox =>
    match (findStation f e.line e.station).bind fun st => st.item with
    | some it => head [it.desc] 1 it.seq 1
    | none => head [] 0 0 1
  | .outbox => ⟨0, 1, 0, 0, 0, 0, 0, 1⟩
  | .chan l k =>
    match findChan f l k with
    | some c =>
      if h < 4 then
        let v := visible f c
        head v v.length ((v.head?.map fun t => t.seq).getD 0) c.depth
      else ⟨0, BitVec.ofNat 32 (freeOf f c), BitVec.ofNat 32 (stagedOf c), 0, 0, 0, 0, BitVec.ofNat 32 c.depth⟩
    | none => Lanes.zero
  | .unbound => Lanes.zero

def execChq (t h : Nat) (d : Dst) (s : State) : Host.Outcome State Fault Refusal :=
  fireResult (.chq t h d) d (fun f e => ⟨chqVal f e h, false⟩) s

/-- STEER (R60, R360). -/
def execSteer (t i x y p : Nat) (s : State) : Host.Outcome State Fault Refusal :=
  fireWord (.steer t i x y p) (fun _ e _ f =>
    match (inputView f e i).head? with
    | some tk =>
      let send :=
        if isEos tk.tag then
          match sendTok tk e x f with
          | .ok g => sendTok tk e y g
          | .error r => .error r
        else sendTok tk e (if predVal f e p then x else y) f
      match send with
      | .ok g => .ok (popHandle e i 1 g)
      | .error r => .error r
    | none => .ok f) s

/-- The token MERGE folds when all three heads are end-of-stream (R330). -/
def mergeEos (c a b : Token) : Token :=
  let top := if a.tag ≤ c.tag ∧ b.tag ≤ c.tag then c else if b.tag ≤ a.tag then a else b
  { top with poison := c.poison || a.poison || b.poison, rel := union c.rel (union a.rel b.rel) }

/-- MERGE (R61, R330). -/
def execMerge (t c a b o : Nat) (s : State) : Host.Outcome State Fault Refusal :=
  fireWord (.merge t c a b o) (fun _ e _ f =>
    match (inputView f e c).head? with
    | some ct =>
      if ct.tag = 2 then
        let x := if ct.payload.l0.toNat % 2 = 1 then b else a
        match (inputView f e x).head? with
        | some u =>
          match sendTok u e o f with
          | .ok g => .ok (popHandle e c 1 (popHandle e x 1 g))
          | .error r => .error r
        | none => .ok f
      else if isEos ct.tag then
        match (inputView f e a).head?, (inputView f e b).head? with
        | some u, some v =>
          if isEos u.tag && isEos v.tag then
            match sendTok (mergeEos ct u v) e o f with
            | .ok g => .ok (popHandle e c 1 (popHandle e a 1 (popHandle e b 1 g)))
            | .error r => .error r
          else .error (codeChan, 0)
        | _, _ => .ok f
      else .error (codeChan, 0)
    | none => .ok f) s

end Sys2Proof.Machine
end

