-- ==== Sys2Proof/Machine/Order.lean ====
section
/-!
DEFINITION. Reads and writes of physical memory under the reliability classes (R124 to R126, R221, R375), and the values a
read may return under the consistency model (R134 to R142): a write's history entry lists the accesses hb-before it.
-/
namespace Sys2Proof.Machine

/-- The space of a physical address (R112): 0 DRAM, 1 slice, 2 host, 3 reserved. -/
def spaceOf (a : Nat) : Nat := a / 2 ^ 46 % 4

/-- The bits set in a byte. -/
def bitsOf (b : Byte) : Nat := ((List.range 8).filter fun i => b.getLsbD i).length

/-- The error pattern of a unit: the bytes as read against the error-free ones. -/
def errPattern (raw good : List Byte) : List Byte := (raw.zip good).map fun x => x.1 ^^^ x.2

/-- Bytes of a DRAM line in error, its check bytes counted (R124). -/
def SoftErr.bytes (e : SoftErr) (raw : List Byte) : Nat :=
  ((errPattern raw e.good ++ leBytes 8 e.chk).filter fun b => b != 0).length

/-- Bits of an SRAM row in error, its check bits counted (R125). -/
def SoftErr.bits (e : SoftErr) (raw : List Byte) : Nat :=
  ((errPattern raw e.good ++ leBytes 1 e.chk).map bitsOf).foldl (· + ·) 0

/-- The Twill CRC (R124): generator 0x1_8BB7, initial value zero, the high bit of each byte first. -/
def crc16 (bs : List Byte) : Nat :=
  bs.foldl (fun r b => (List.range 8).foldl (fun r i =>
    let top := (r / 32768 % 2 == 1) != b.getLsbD (7 - i)
    if top then (r * 2 % 65536) ^^^ 0x8BB7 else r * 2 % 65536) r) 0

/-- The CRC of a Twill line finds its error: the remainder of the data's error is not the error of the stored CRC (R124, R375). -/
def SoftErr.crcFinds (e : SoftErr) (raw : List Byte) : Bool := crc16 (errPattern raw e.good) != e.chk % 65536

/-- Change one byte of a unit, or none where the position lies in its check bytes. -/
def hitByte (i : Nat) (v : Byte) (bs : List Byte) : List Byte := bs.zipIdx.map fun (b, j) => if j = i then b ^^^ v else b

/-- A Damask line miscorrected in one or two bytes of its 72: which, and to what, the device does not promise (R375). -/
def miscorrectLine (vf : Nat) (raw : List Byte) (f : Fabric) : List Byte × Fabric :=
  let (i, f) := pick vf 72 f
  let (v, f) := pick vf 255 f
  let (j, f) := pick vf 72 f
  let (w, f) := pick vf 256 f
  (hitByte j (BitVec.ofNat 8 w) (hitByte i (BitVec.ofNat 8 (v + 1)) raw), f)

/-- An SRAM row miscorrected in one bit of its 72 (R375). -/
def miscorrectRow (vf : Nat) (raw : List Byte) (f : Fabric) : List Byte × Fabric :=
  let (i, f) := pick vf 72 f
  (hitByte (i / 8) (BitVec.ofNat 8 (2 ^ (i % 8))) raw, f)

/-- What a read makes of a unit in error. -/
structure Seen where
  bytes : List Byte
  poison : Bool
  cost : Nat
  muslin : Nat
  deriving DecidableEq, Repr

/-- A DRAM line that has been in error, by class (R124, R125, R375): stores may have rewritten every byte that was wrong. -/
def observeLine (vf cls : Nat) (e : SoftErr) (raw : List Byte) (f : Fabric) : Seen × Fabric :=
  let n := e.bytes raw
  if cls = 2 then
    if n = 0 then (⟨raw, false, 0, 0⟩, f)
    else if n ≤ 2 then (⟨e.good, false, 1, 0⟩, f)
    else if n ≤ 4 then (⟨raw, true, 64, 0⟩, f)
    else
      let (k, f) := pick vf 3 f
      if k = 0 then (⟨raw, true, 64, 0⟩, f)
      else if k = 1 then let (bs, f) := miscorrectLine vf raw f; (⟨bs, false, 1, 0⟩, f)
      else (⟨raw, false, 0, 0⟩, f)
  else if cls = 1 then (if e.crcFinds raw then ⟨raw, true, 16, 0⟩ else ⟨raw, false, 0, 0⟩, f)
  else (⟨raw, false, 0, 0⟩, f)

/-- An SRAM row in error, by class (R125, R375). -/
def observeRow (vf cls : Nat) (e : SoftErr) (raw : List Byte) (f : Fabric) : Seen × Fabric :=
  let n := e.bits raw
  let (k, f) := if n ≤ 2 then (n, f) else pick vf 3 f
  if k = 0 then (⟨raw, false, 0, 0⟩, f)
  else if k = 1 then
    let (bs, f) := if n = 1 then (e.good, f) else miscorrectRow vf raw f
    (if cls = 2 then ⟨bs, false, 1, 0⟩ else if cls = 1 then ⟨bs, true, 16, 0⟩ else ⟨bs, false, 0, 0⟩, f)
  else (if cls = 2 then ⟨raw, true, 64, 0⟩ else if cls = 1 then ⟨raw, true, 16, 0⟩ else ⟨raw, false, 0, 1⟩, f)

/-- Where a tile's weight buffer stands among the places a soft error can lie in: no physical address has space 11 (R112). -/
def wbufUnit (tile off : Nat) : Nat := 3 * 2 ^ 46 + tile * 2 ^ 36 + off / 8 * 8

/-- Read a unit that may be in error, for the access in progress, which charges an error it meets once (R125). -/
def readUnit (vf cls u : Nat) (raw : List Byte) (f : Fabric) : Seen × Fabric :=
  match f.errs.find? (fun x => x.at_ == u) with
  | some e =>
    match f.met.find? fun x => x.1 == u with
    | some x => (⟨x.2.1, x.2.2, 0, 0⟩, f)
    | none =>
      let (s, g) := if spaceOf u = 0 then observeLine vf cls e raw f else if spaceOf u = 2 then (⟨raw, false, 0, 0⟩, f) else observeRow vf cls e raw f
      let g := { g with met := (u, s.bytes, s.poison) :: g.met }
      (s, if s.muslin = 0 then g else countMuslin vf s.muslin g)
  | none => (⟨raw, false, 0, 0⟩, f)

/-- The result of a physical read: bytes, poison and cost. -/
structure PhysRead where
  bytes : List Byte
  poison : Bool
  cost : Nat
  deriving DecidableEq, Repr

/-- The size of an error unit at an address. -/
def unitSize (a : Nat) : Nat := if spaceOf a = 1 then 8 else 64

/-- Error units a range of addresses touches: 64-byte lines of DRAM, 8-byte rows of a slice. -/
def errUnits (a n : Nat) : List Nat :=
  let u := unitSize a
  (List.range ((a + n - 1) / u - a / u + 1)).map fun i => (a / u + i) * u

/-- The byte a read sees before errors: zero on a line whose scrub is pending (R221). -/
def cleanByte (m : Memory) (f : Fabric) (a : Nat) : Byte :=
  if f.scrub.any fun s => s.1 == a / 65536 && s.2.2.contains (a % 65536 / 64) then 0 else readByte m f a

/-- A line of the range is under scrub. -/
def scrubbing (f : Fabric) (a : Nat) : Bool := f.scrub.any fun s => s.1 == a / 65536 && s.2.2.contains (a % 65536 / 64)

/-- Another access begins: each access charges an error it meets once, and counts once for ERR_MUSLIN (R125, R126). -/
def newAccess (f : Fabric) : Fabric := { f with met := [], counted := false }

/-- Units of a frame of a class (R124). -/
def unitsOf (cls : Nat) : Nat := if cls = 2 then 36 else if cls = 1 then 33 else 32

/-- Two frames of DRAM, each a number [47:16] with a class, share raw units of a channel (R112, R124). -/
def shareUnits (x y : Nat × Nat) : Bool :=
  x.1 / 2 ^ 20 == y.1 / 2 ^ 20 && decide (x.1 < y.1 + unitsOf y.2 ∧ y.1 < x.1 + unitsOf x.2)

/-- Another frame, or the same one in another class, has been laid out over units of the frame an address lies in: what a read decodes there
is not what was written through the frame (R124). R129 has the supervisor keep a frame's layout, and no rule says what is read: free
values, of every line of the frame until it is zeroed (log 68). -/
def foreign (f : Fabric) (cls a : Nat) : Bool :=
  spaceOf a == 0 && (match f.layouts.find? fun x => x.1 == a / 65536 && x.2.1 == cls with
    | some x => !x.2.2
    | none => f.layouts.any fun x => shareUnits (a / 65536, cls) (x.1, x.2.1))

/-- Data is written in a frame, or all of it zeroed (`anew`): it is laid out in its class, and the frames that share its units no longer are
(R124). -/
def layOut (anew : Bool) (cls fr : Nat) (f : Fabric) : Fabric :=
  let mine (x : Nat × Nat × Bool) : Bool := x.1 == fr && x.2.1 == cls
  let good := anew || !foreign f cls (fr * 65536)
  let mark (x : Nat × Nat × Bool) : Nat × Nat × Bool :=
    if mine x then (fr, cls, good) else if shareUnits (fr, cls) (x.1, x.2.1) then (x.1, x.2.1, false) else x
  if fr / 2 ^ 30 != 0 then f
  else { f with layouts := f.layouts.map mark ++ (if f.layouts.any mine then [] else [(fr, cls, good)]) }

/-- Free bytes. -/
def freeBytes (vf : Nat) : Nat → Fabric → List Byte × Fabric
  | 0, f => ([], f)
  | n + 1, f =>
    let (k, f) := pick vf 256 f
    let (bs, f) := freeBytes vf n f
    (BitVec.ofNat 8 k :: bs, f)

/-- A read of a frame laid over by another: free bytes, and a check that may find an error in them, correct one, find the poison pattern or
find nothing (R124 to R126). -/
def readForeign (vf cls n : Nat) (f : Fabric) : PhysRead × Fabric :=
  let (bs, f) := freeBytes vf n f
  let (k, f) := pick vf 4 f
  (⟨bs, cls != 0 && (k == 1 || k == 2), if cls = 0 then 0 else if k = 1 then (if cls = 2 then 64 else 16) else if k = 3 && cls = 2 then 1 else 0⟩, f)

/-- Read `n` bytes at a physical address of a class (R121, R125, R126, R221), for the access in progress. -/
def readPhys (m : Memory) (vf cls a n : Nat) (f : Fabric) : PhysRead × Fabric :=
  if foreign f cls a then readForeign vf cls n f else
  let raw := (List.range n).map fun i => cleanByte m f (a + i)
  let pat := (f.poison.any fun p => a / 64 ≤ p.1 && p.1 ≤ (a + n - 1) / 64 && !scrubbing f (p.1 * 64))
    || f.wpoison.any fun w => a < w + 4 && w < a + n
  (errUnits a n).foldl (fun (acc : PhysRead × Fabric) u =>
    if !(f.errs.any fun x => x.at_ == u) || scrubbing f u || f.poison.any (fun p => p.1 == u / 64) then acc
    else
      let (s, g) := readUnit vf cls u ((List.range (unitSize u)).map fun i => cleanByte m f (u + i)) acc.2
      let bytes := acc.1.bytes.zipIdx.map fun (b, i) => if u ≤ a + i && a + i < u + unitSize u then s.bytes.getD (a + i - u) b else b
      (⟨bytes, acc.1.poison || s.poison, acc.1.cost + s.cost⟩, g)) (⟨raw, pat, 0⟩, f)

/-- A write to a line under scrub zeroes the line first (R221). -/
def scrubLine (a : Nat) (f : Fabric) : Fabric :=
  if scrubbing f a then
    let f := writeBytes (a / 64 * 64) (List.replicate 64 0) f
    { f with errs := f.errs.filter (fun x => x.at_ != a / 64 * 64), scrub := f.scrub.map fun s => if s.1 == a / 65536 then (s.1, s.2.1, s.2.2.filter fun x => x != a % 65536 / 64) else s }
  else f

/-- The lines a range touches. -/
def linesOf (a n : Nat) : List Nat := (List.range ((a + n - 1) / 64 - a / 64 + 1)).map fun i => a / 64 + i

/-- Put bytes at a physical address: lines under scrub are zeroed first (R221), and errors of bytes wholly rewritten go. -/
def putPhys (a : Nat) (bs : List Byte) (f : Fabric) : Fabric :=
  let n := bs.length
  let f := (linesOf a n).foldl (fun f l => scrubLine (l * 64) f) f
  let f := writeBytes a bs f
  let fix (x : SoftErr) : SoftErr :=
    { x with good := x.good.zipIdx.map fun (b, i) => if a ≤ x.at_ + i && x.at_ + i < a + n then bs.getD (x.at_ + i - a) b else b }
  { f with errs := (f.errs.map fix).filter fun x => !(a ≤ x.at_ && x.at_ + x.good.length ≤ a + n) }

/-- The access in progress has written poisoned data where it is not marked: it counts once (R126). -/
def countOnce (vf : Nat) (f : Fabric) : Fabric := if f.counted then f else { countMuslin vf 1 f with counted := true }

/-- Bytes of lines that hold the poison pattern are rewritten: a line is free of it once every byte is (R126). -/
def rewrote (a n : Nat) (f : Fabric) : Fabric :=
  let ps := f.poison.map fun p => (p.1, p.2.filter fun i => !(a ≤ p.1 * 64 + i && p.1 * 64 + i < a + n))
  { f with
    poison := ps.filter fun p => !p.2.isEmpty
    wpoison := f.wpoison.filter fun w => !(a ≤ w && w + 4 ≤ a + n) }

/-- Memory that marks poisoned data: not host memory, and of a class that has a pattern (R126). -/
def marksPoison (cls a : Nat) : Bool := spaceOf a != 2 && cls != 0

/-- Write bytes at a physical address of a class, poisoned or not (R126, R221). -/
def writePhys (vf cls a : Nat) (bs : List Byte) (poison : Bool) (f : Fabric) : Fabric :=
  let n := bs.length
  if n = 0 then f
  else
    let f := layOut false cls (a / 65536) (putPhys a bs f)
    if poison then
      if marksPoison cls a then
        let ls := linesOf a n
        { f with poison := (ls.map fun l => (l, List.range 64)) ++ f.poison.filter fun p => !ls.contains p.1 }
      else countOnce vf f
    else rewrote a n f

/-- The accesses not yet performed: queue entries, entries of copy channels, matrix tasks. -/
def pendingIds (f : Fabric) : List Nat :=
  f.accs.map (fun a => a.id) ++ (f.copies.filter fun c => c.busy).map (fun c => c.id)
    ++ f.mx.flatMap fun b => (b.queues.flatten ++ b.flight).map fun t => t.id

/-- One round of `closed`. -/
def closeOnce (ls : List (Nat × List Nat)) (ids : List Nat) : List Nat :=
  ls.foldl (fun k x => if k.contains x.1 then union x.2 k else k) ids

/-- Repeat a closing round. -/
def closeBy (ls : List (Nat × List Nat)) : Nat → List Nat → List Nat
  | 0, ids => ids
  | n + 1, ids => closeBy ls n (closeOnce ls ids)

/-- Happens-before is transitive (R141): with an acquire, what it has learnt, also where what came after it was released or
committed before it returned. -/
def closed (f : Fabric) (ids : List Nat) : List Nat := closeBy f.learnt f.learnt.length ids

/-- Acquire `id` has made its accesses come after others (R138). -/
def noteLearnt (id : Nat) (ids : List Nat) (f : Fabric) : Fabric := { f with learnt := (id, ids) :: f.learnt }

/-- The accesses of a list, and those they come after, that are still to be performed. -/
def pendingOf (f : Fabric) (ids : List Nat) : List Nat := (closed f ids).filter fun i => (pendingIds f).contains i

/-- The line of a word holds the poison pattern (R126). -/
def patterned (f : Fabric) (a : Nat) : Bool := f.poison.any fun p => p.1 == a / 64

/-- The value a word has now: zero on a line whose scrub is pending (R221). -/
def wordNow (m : Memory) (f : Fabric) (a : Nat) : Word := BitVec.ofNat 32 (ofBytes ((List.range 4).map fun i => cleanByte m f (a + i)))

/-- Record a write of one word in its history; its first write records the value before it as the initial one, which stands behind every
write (R134). -/
def recordWrite (m : Memory) (a id : Nat) (whole : Bool) (val : Word) (poison : Bool) (know : List Nat) (rel : List Release) (f : Fabric) : Fabric :=
  let init : List HistW := if f.hist.any fun h => h.word == a then []
    else [⟨0, 0, false, a, wordNow m f a, !scrubbing f a && (patterned f a || f.wpoison.contains a), [], [], 0⟩]
  let sub := (f.hist.filter fun h => h.id == id && h.word == a).length
  { f with hist := ⟨id, sub, whole, a, val, poison, know, rel, f.nextId⟩ :: (f.hist ++ init) }

/-- A line's launch, as the stamps of writes tell it (R134): DEDUCED a line is launched when its launch is accepted (log 7). -/
def launchOf (f : Fabric) (l : Nat) : Nat := ((findLine f l).map fun x => x.launchId).getD 0

/-- A history entry that stands for a word's initial value (R134): its first one, or in DRAM a write from before the line's launch. -/
def isInitial (since : Nat) (h : HistW) : Bool := h.id == 0 || (spaceOf h.word == 0 && decide (h.stamp ≤ since))

/-- The entries of a word that a line sees: of those that stand for its initial value, the newest is what the word held at the launch
(R134). -/
def seenWrites (since : Nat) (ws : List HistW) : List HistW :=
  ws.filter (fun h => !isInitial since h) ++ (ws.find? (isInitial since)).toList

/-- `w` precedes `w2` (R141): the initial value precedes every write, and one access's writes to a word follow each other. -/
def precedes (f : Fabric) (since : Nat) (w w2 : HistW) : Bool :=
  (isInitial since w && !isInitial since w2) || (w.id != w2.id && (closed f w2.know).contains w.id) || (w.id == w2.id && decide (w.sub < w2.sub))

/-- The candidates of a read of line `l` that knows `know` and comes before the writes `late` (R142), the latest write first. -/
def candidates (f : Fabric) (l : Nat) (know late : List Nat) (a : Nat) : List HistW :=
  let since := launchOf f l
  let known := closed f know
  let ws := seenWrites since (f.hist.filter fun h => h.word == a && !late.contains h.id)
  let fr := ws.filter fun h => isInitial since h || known.contains h.id
  ws.filter fun w => !(fr.any fun w2 => precedes f since w w2)

/-- The latest write of a word, whose value memory holds. -/
def latest (f : Fabric) (a : Nat) : Option HistW := f.hist.find? fun h => h.word == a

/-- A write that memory no longer holds. -/
def older (f : Fabric) (h : HistW) : Option HistW := if latest f h.word == some h then none else some h

/-- The write a read returns: none where memory holds its value, with the releases read. -/
def chooseCand (l : Nat) (f : Fabric) (know late : List Nat) (a : Nat) : Option HistW × List Release × Fabric :=
  let cs := candidates f l know late a
  let (k, f) := if cs.length ≤ 1 then (0, f) else pick (vfOf l) cs.length f
  match cs[k]? with
  | some w => (older f w, w.rel, f)
  | none => (none, [], f)

/-- An older write is read with its own poison, or as its line is read: with the pattern, or in an error that is not corrected (R125,
R126). The poison of a word of a planed region is that word's present value's alone (R121). -/
def olderPoison (f : Fabric) (r : PhysRead) (h : HistW) : Bool :=
  h.poison || (if f.wpoison.contains h.word then patterned f h.word else r.poison)

/-- Read one 32-bit word for an access of line `l` that knows `know` and comes before `late` (R134, R142). -/
def readWord (m : Memory) (l cls a : Nat) (know late : List Nat) (f : Fabric) : Word × Bool × Nat × List Release × Fabric :=
  let (r, f) := readPhys m (vfOf l) cls a 4 f
  let (c, rel, f) := chooseCand l f know late a
  match c with
  | some w => (w.val, olderPoison f r w, r.cost, rel, f)
  | none => (BitVec.ofNat 32 (ofBytes r.bytes), r.poison, r.cost, rel, f)

/-- What a whole 32-byte read (LDV) returns of eight words at a cut of their history, the newest writes from the cut on left
out: for each word the last write before the cut, or the initial one (R134). -/
def wholeCut (since : Nat) (ws : List Nat) (hist rest : List HistW) : List (Option HistW) :=
  ws.map fun w => match rest.find? fun h => h.word == w with
    | some h => some h
    | none => hist.find? fun h => h.word == w && isInitial since h

/-- The cuts at which an LDV may read (R134, R142): every word it takes is a candidate, and no STV is taken in part. -/
def wholeCuts (f : Fabric) (l : Nat) (know late : List Nat) (ws : List Nat) : List (List (Option HistW)) :=
  let since := launchOf f l
  let hist := f.hist.filter fun h => ws.contains h.word
  let ok (n : Nat) : Bool := !((hist.take n).any fun x => x.whole && (hist.drop n).any fun y => y.whole && y.id == x.id)
  ((List.range (hist.length + 1)).filter ok).map (fun n => wholeCut since ws hist (hist.drop n))
    |>.filter fun c => c.all fun x => match x with | some h => (candidates f l know late h.word).contains h | none => true

/-- The words a whole 32-byte read returns: single-copy atomic (R134). None stands for a word nothing has written. -/
def chooseWhole (l : Nat) (f : Fabric) (know late : List Nat) (ws : List Nat) : List (Option HistW) × Fabric :=
  let cs := wholeCuts f l know late ws
  let (k, f) := if cs.length ≤ 1 then (0, f) else pick (vfOf l) cs.length f
  ((cs[k]?).getD (ws.map (latest f)), f)

/-- Read 32 bytes as one whole (R134): its words, poison, cost and the releases read. A word whose latest write is taken is as
memory holds it. -/
def readWhole (m : Memory) (l cls a : Nat) (know late : List Nat) (f : Fabric) : List Word × Bool × Nat × List Release × Fabric :=
  let (r, f) := readPhys m (vfOf l) cls a 32 f
  let ws := (List.range 8).map fun i => a + 4 * i
  let (hs, f) := chooseWhole l f know late ws
  let olds := hs.map fun h => h.bind (older f)
  (olds.zipIdx.map fun x => match x.1 with | some h => h.val | none => BitVec.ofNat 32 (bfld r.bytes (4 * x.2) 4),
    r.poison || olds.any fun h => match h with | some x => x.poison | none => false,
    r.cost, hs.flatMap fun h => (h.map fun x => x.rel).getD [], f)

/-- Write one 32-bit word (R134). A value is poisoned where its memory marks it (R126). -/
def writeWord (m : Memory) (vf cls a id : Nat) (whole : Bool) (v : Word) (poison : Bool) (know : List Nat) (rel : List Release)
    (f : Fabric) : Fabric :=
  writePhys vf cls a (leBytes 4 v.toNat) poison (recordWrite m a id whole v (poison && marksPoison cls a) know rel f)

/-- A swap makes a word present with the poison of its contributions, which marks that word alone (R121). What its stores held
was counted when they were made (R126). -/
def presentWord (m : Memory) (cls a id : Nat) (v : Word) (poison : Bool) (know : List Nat) (f : Fabric) : Fabric :=
  let f := rewrote a 4 (putPhys a (leBytes 4 v.toNat) (recordWrite m a id false v (poison && cls != 0) know [] f))
  if poison && cls != 0 then { f with wpoison := a :: f.wpoison } else f

/-- Write bytes of an engine, recording the aligned words they leave. -/
def writeEngine (m : Memory) (vf cls a id : Nat) (bs : List Byte) (poison : Bool) (know : List Nat) (rel : List Release) (f : Fabric) : Fabric :=
  let ws := if bs.length = 0 then [] else (List.range ((a + bs.length - 1) / 4 - a / 4 + 1)).map fun i => (a / 4 + i) * 4
  let f := ws.foldl (fun f w =>
    let v := (List.range 4).map fun i =>
      if a ≤ w + i && w + i < a + bs.length then bs.getD (w + i - a) 0 else cleanByte m f (w + i)
    recordWrite m w id false (BitVec.ofNat 32 (ofBytes v)) (poison && marksPoison cls w) know rel f) f
  writePhys vf cls a bs poison f

/-- Read bytes for an engine of line `l`, word by word under R142. -/
def readEngine (m : Memory) (l cls a n : Nat) (know : List Nat) (f : Fabric) : PhysRead × Fabric :=
  let (r, f) := readPhys m (vfOf l) cls a n f
  let ws := if n = 0 then [] else (List.range ((a + n - 1) / 4 - a / 4 + 1)).map fun i => (a / 4 + i) * 4
  ws.foldl (fun (acc : PhysRead × Fabric) w =>
    let (c, _, f) := chooseCand l acc.2 know [] w
    match c with
    | some h => ({ acc.1 with
        bytes := acc.1.bytes.zipIdx.map fun (b, i) =>
          if w ≤ a + i && a + i < w + 4 then BitVec.ofNat 8 (h.val.toNat / 256 ^ (a + i - w)) else b
        poison := acc.1.poison || olderPoison f r h }, f)
    | none => (acc.1, f)) (r, f)

/-- One instance of a scope holds a release's party and an element (R136, R140). -/
def sameInstance (f : Fabric) (scope : Nat) (r : Release) (e : Elem) : Bool :=
  match scope with
  | 0 => r.line == e.line && r.th == e.thread
  | 1 => r.line == e.line && (match findElem f r.line r.th with | some x => x.station == e.station | none => false)
  | 2 => r.line == e.line
  | 3 => vfOf r.line == vfOf e.line
  | _ => true

/-- What an acquire of scope `s` by an element learns from releases it has read (R140). -/
def learned (f : Fabric) (e : Elem) (s : Nat) (rs : List Release) : List Nat :=
  rs.foldl (fun k r => if sameInstance f (min s r.scope) r e then union r.ids k else k) []

/-- Access `id` of an element has acquired: it has learnt `ids`, and the element, and its accesses issued after it, come after them
(R138). -/
def learn (l th id : Nat) (ids : List Nat) (f : Fabric) : Fabric :=
  let p := pendingOf f ids
  let f := noteLearnt id ids (updElem l th (fun e => { e with know := union ids e.know }) f)
  let g (a : Acc) : Acc := { a with know := union ids a.know, base := union ids a.base, need := union (p.filter fun x => x != a.id) a.need }
  { f with accs := upd (fun a => a.line == l && a.th == th && id < a.id) g f.accs }

end Sys2Proof.Machine
end

