-- ==== Sys2Proof/Machine/Translate.lean ====
section
/-!
DEFINITION. Translation (R198 to R204, R225, R376), quota (R133), class (R128) and planed stores (R118 to R123).
-/
namespace Sys2Proof.Machine

/-- The physical tile of a bolt's tile: a spare stands in for a defective one (R1; log 16). -/
def physTile (f : Fabric) (bolt t : Nat) : Nat :=
  let p := bolt * 16 + t
  match f.module_.spares.find? fun s => s.1 == p with
  | some s => s.2
  | none => p

/-- The physical bolt of a line's logical bolt (R5, R185). -/
def boltOf (f : Fabric) (l lb : Nat) : Nat :=
  match findLine f l with
  | some x => x.bolts.getD lb 0
  | none => 0

/-- The physical slice address of a line's tile (R112). -/
def sliceAddr (f : Fabric) (l tile off : Nat) : Nat := 2 ^ 46 + physTile f (boltOf f l (tile / 16)) (tile % 16) * 2 ^ 36 + off

/-- Where an address leads: the physical address and the class that governs it. -/
structure Place where
  phys : Nat
  cls : Nat
  deriving DecidableEq, Repr

/-- A fault of an access: code and detail (R204, R206). -/
abbrev XFault := Nat × Nat

/-- A translation's answer. -/
inductive Xlate where
  | place (p : Place)
  | miss
  | fault (x : XFault)
  deriving DecidableEq, Repr

/-- How an access translates: a read, a write that is charged (R133), or a write whose charge is left to its outcome: the
compare of a CAS (R276). -/
inductive Mode where
  | read
  | write
  | check
  deriving DecidableEq, Repr

/-- An address of the region area, through the line's map of regions; the first write of a page charges quota (R376). -/
def regionXlate (f : Fabric) (l va : Nat) (mode : Mode) : Xlate × Fabric :=
  match regionAt f l va, findLine f l with
  | some r, some x =>
    let off := va - regionArea - r.at_
    if r.slice then (.place ⟨sliceAddr f l r.tile (r.base + off), r.cls⟩, f)
    else
      match r.pages[off / 65536]? with
      | some (fr, qc) =>
        let p : Place := ⟨fr * 65536 + off % 65536, r.cls⟩
        if mode != .read && x.cls < r.cls then (.fault (5, 0), f)
        else if mode == .write && !qc then
          let i := getIface f x.vf x.pasid
          if i.limit < i.used + 1 then (.fault (4, 0), f)
          else
            let f := updIface x.vf x.pasid (fun i => { i with used := i.used + 1 }) f
            let pg := off / 65536
            let f := updRegion l r.num (fun r => { r with pages := r.pages.zipIdx.map fun (y, i) => if i = pg then (y.1, true) else y }) f
            (.place p, f)
        else (.place p, f)
      | none => (.fault (3, 0x70), f)
  | _, _ => (.fault (3, 0x70), f)

/-- The fields of a page-table entry (R203), and the whole entry as its reader had it. -/
structure Pte where
  all : Nat
  v : Bool
  leaf : Bool
  w : Bool
  cls : Nat
  sp : Bool
  qc : Bool
  pfn : Nat
  rsv : Bool
  deriving DecidableEq, Repr

/-- Read an entry's fields. -/
def decodePte (x : Nat) : Pte where
  all := x
  v := x % 2 == 1
  leaf := x / 2 % 2 == 1
  w := x / 16 % 2 == 1
  cls := x / 32 % 4
  sp := x / 128 % 2 == 1
  qc := x / 256 % 2 == 1
  pfn := x / 65536 % 2 ^ 32
  rsv := x / 4 % 4 != 0 || x / 512 % 128 != 0 || x / 2 ^ 48 != 0

/-- The detail of a bad entry at a level, or none (R204). -/
def pteBad (e : Pte) (level : Nat) : Option Nat :=
  if !e.v then some (0x10 + level)
  else if e.rsv || e.cls == 3 || (e.leaf && level == 1) || (!e.leaf && level == 3) || (!e.leaf && (e.w || e.sp || e.qc)) then
    some (0x20 + level)
  else none

/-- The frame number (physical address [47:16]) an address has under a leaf (R203). -/
def leafFrame (e : Pte) (big : Bool) (va : Nat) : Nat :=
  let i := va / 65536 % 8192
  if big then (if e.pfn / 2 ^ 30 = 0 then e.pfn + i * unitsOf e.cls else e.pfn + i) else e.pfn

/-- A frame number is a well-formed physical address [47:16] (R112): a frame of its class within its channel, or within a
slice, or host memory. -/
def frameForm (cls fr : Nat) : Bool :=
  let ch := fr / 2 ^ 20 % 1024
  let u := fr % 2 ^ 20
  match fr / 2 ^ 30 with
  | 0 => ch < 768 && u + unitsOf cls ≤ 589824
  | 1 => ch < 800 && u < 32
  | 2 => true
  | _ => false

/-- A frame that is a function's to use: a DRAM frame of its frame map, slice space of a tile in its grant, or host memory, which the
host's IOMMU governs under the function's requester identity (R225). -/
def ownsFrame (f : Fabric) (vf fr : Nat) : Bool :=
  match fr / 2 ^ 30 with
  | 0 => (getPart f vf).frames.contains fr
  | 1 => (List.range 48).any fun b =>
      (getPart f vf).grant / 2 ^ b % 2 == 1 && (List.range 16).any fun t => physTile f b t == fr / 2 ^ 20 % 1024
  | _ => true

/-- A frame number that a leaf may hold for a partition (R112, R204, R225): well formed, the function's own, and in the space and, for
DRAM, the channel of the leaf's first frame. -/
def frameOk (f : Fabric) (vf : Nat) (e : Pte) (fr : Nat) : Bool :=
  frameForm e.cls fr && ownsFrame f vf fr && e.pfn / 2 ^ 30 == fr / 2 ^ 30 && (fr / 2 ^ 30 != 0 || e.pfn / 2 ^ 20 == fr / 2 ^ 20)

/-- The frames from a first one on that a leaf of a class maps (R203). -/
def framesFrom (first cls : Nat) (big : Bool) : List Nat :=
  if !big then [first]
  else if first / 2 ^ 30 = 0 then (List.range 8192).map fun i => first + i * unitsOf cls
  else (List.range 8192).map fun i => first + i

/-- The frames a leaf maps (R203, R204): a 512 MiB leaf in slice space maps none. -/
def leafFrames (e : Pte) (big : Bool) : List Nat := framesFrom e.pfn e.cls big

/-- A leaf maps only frames its partition may have (R204, R225). -/
def leafOk (f : Fabric) (vf : Nat) (e : Pte) (big : Bool) : Bool :=
  !(big && e.pfn / 2 ^ 30 == 1) && (leafFrames e big).all (frameOk f vf e)

/-- The checks of a leaf for an access, in the order of R204, then class (R128); a remote write has no line class. -/
def leafCheck (f : Fabric) (vf : Nat) (lineCls : Option Nat) (e : Pte) (big : Bool) (write : Bool) : Option XFault :=
  if write && !e.w then some (3, 0x30)
  else if !leafOk f vf e big then some (3, 0x40)
  else if write && (match lineCls with | some c => c < e.cls | none => false) then some (5, 0)
  else none

/-- A physical address as a function reaches it. Host memory is the function's own: the address goes out under its requester identity
and the host translates it (R225, R228), so a byte of it is named by function and host address. The host's translation itself is none
of the device's: DESIGN CHOICE it is one to one and does not change under an access (log 73). -/
def ownAddr (vf a : Nat) : Nat := if spaceOf a = 2 then vf * 2 ^ 48 + a else a

/-- The place of an address under a leaf. -/
def leafPlace (vf : Nat) (e : Pte) (big : Bool) (va : Nat) : Place := ⟨ownAddr vf (leafFrame e big va * 65536 + va % 65536), e.cls⟩

/-- Read a page-table entry as the walker does: as a read of its table's class, its errors charged (R125, R131, R201). `who`
names the walker's charge. A poisoned entry is used as delivered (log 60). -/
def readEntry (m : Memory) (vf : Nat) (who : Rec) (cls fr ix : Nat) (f : Fabric) : Nat × Pte × Fabric :=
  let a := ownAddr vf (fr * 65536 + 8 * ix)
  let (r, f) := readPhys m vf cls a 8 (newAccess f)
  (a, decodePte (ofBytes r.bytes), charge vf r.cost { who with unit := 11 } f)

/-- A frame in which the walker may read a table for a function: well formed, and the function's own. R225 names leaves; DEDUCED tables
too, for a function reads and writes no memory of another (log 90). -/
def tableOk (f : Fabric) (vf cls fr : Nat) : Bool := frameForm cls fr && ownsFrame f vf fr

/-- What bars the walk at an entry (R204), a table in a frame the walker may not read among it, if anything does. -/
def entryBad (f : Fabric) (vf : Nat) (e : Pte) (level : Nat) : Option Nat :=
  match pteBad e level with
  | some d => some d
  | none => if !e.leaf && !tableOk f vf e.cls e.pfn then some 0x40 else none

/-- THE WALK (R201 to R204): the leaf, its size, the entry's address and the page, or a detail. -/
def walk (m : Memory) (who : Rec) (f : Fabric) (vf ps va : Nat) : Except Nat (Pte × Bool × Nat × Nat) × Fabric :=
  let i := getIface f vf ps
  if 2 ^ 55 ≤ va then (.error 0x50, f)
  else if !i.rootEn then (.error 0x10, f)
  else if !tableOk f vf i.rootClass i.rootFrame then (.error 0x40, f)
  else
    let (_, e1, f) := readEntry m vf who i.rootClass i.rootFrame (va / 2 ^ 42 % 8192) f
    match entryBad f vf e1 1 with
    | some d => (.error d, f)
    | none =>
      let (a2, e2, f) := readEntry m vf who e1.cls e1.pfn (va / 2 ^ 29 % 8192) f
      match entryBad f vf e2 2 with
      | some d => (.error d, f)
      | none =>
        if e2.leaf then (.ok (e2, true, a2, va / 2 ^ 29 * 2 ^ 13), f)
        else
          let (a3, e3, f) := readEntry m vf who e2.cls e2.pfn (va / 65536 % 8192) f
          match entryBad f vf e3 3 with
          | some d => (.error d, f)
          | none => (.ok (e3, false, a3, va / 65536), f)

/-- The quota check and charge of a first write, which sets QC in the entry in memory (R133, R201): the leaf as it is then. -/
def quotaCharge (vf ps : Nat) (e : Pte) (big : Bool) (at_ : Nat) (f : Fabric) : Except XFault Pte × Fabric :=
  if e.qc || e.pfn / 2 ^ 30 != 0 then (.ok e, f)
  else
    let n := if big then 8192 else 1
    let i := getIface f vf ps
    if i.limit < i.used + n then (.error (4, 0), f)
    else
      let e := { e with qc := true, all := e.all + 256 }
      (.ok e, putPhys at_ (leBytes 8 e.all) (updIface vf ps (fun i => { i with used := i.used + n }) f))

/-- The key under which a leaf is cached: its first 64 KiB page, and whether it is 512 MiB (R199). -/
def cacheKey (big : Bool) (page : Nat) : Nat := page * 2 + b2n big

/-- An entry of the cache serves an address of an interface (R199). -/
def cacheServes (ps va : Nat) (x : Nat × Nat × Nat) : Bool :=
  x.1 == ps && (x.2.1 == cacheKey false (va / 65536) || x.2.1 == cacheKey true (va / 2 ^ 29 * 2 ^ 13))

/-- Look an address up in a tile's translation cache (R198, R199): a hit unless a write meets a leaf not quota-counted. -/
def cacheLookup (f : Fabric) (l tile ps va : Nat) : Option (Pte × Bool) :=
  match findTile f l tile with
  | some t =>
    match t.xlat.find? (cacheServes ps va) with
    | some x => some (decodePte x.2.2, x.2.1 % 2 == 1)
    | none => none
  | none => none

/-- A hit makes its entry the most recently used one (R199). -/
def cacheTouch (l tile ps va : Nat) (f : Fabric) : Fabric :=
  updTile l tile (fun t => match t.xlat.find? (cacheServes ps va) with
    | some x => { t with xlat := x :: t.xlat.filter fun y => y != x }
    | none => t) f

/-- Put a leaf in a tile's cache, least recently used first out at 256 (R198, R199). -/
def cacheFill (l tile ps key entry : Nat) (f : Fabric) : Fabric :=
  updTile l tile (fun t => { t with xlat := ((ps, key, entry) :: t.xlat.filter fun x => !(x.1 == ps && x.2.1 == key)).take 256 }) f

/-- Frames of a class begin to be scrubbed for an owner (R221): nothing of what the old owner wrote is left to be read, no value, no poison
and no error, in whatever layout it was written. -/
def beginScrub (vf cls : Nat) (frames : List Nat) (f : Fabric) : Fabric :=
  let inside (a : Nat) : Bool := frames.contains (a / 65536)
  let f := frames.foldl (fun f fr => layOut true cls fr f) f
  { f with
    scrub := frames.map (fun fr => (fr, vf, List.range 1024)) ++ f.scrub.filter fun s => !frames.contains s.1
    hist := f.hist.filter fun h => !inside h.word
    poison := f.poison.filter fun p => !inside (p.1 * 64)
    wpoison := f.wpoison.filter fun w => !inside w }

/-- The frames of an entry with SP = 1. -/
def SpEntry.frames (s : SpEntry) : List Nat := framesFrom s.first s.cls s.big

/-- What an entry with SP = 1 holds in memory now, an error in it corrected. -/
def spNow (m : Memory) (f : Fabric) (s : SpEntry) : Pte :=
  decodePte (ofBytes ((List.range 8).map fun i =>
    match f.errs.find? fun x => x.at_ ≤ s.at_ + i && s.at_ + i < x.at_ + x.good.length with
    | some x => x.good.getD (s.at_ + i - x.at_) 0
    | none => readByte m f (s.at_ + i)))

/-- The frames of a leaf with SP = 1 are put under scrub when its owner first uses the mapping (R221): a mapping that is known, and
whose frames are all still its owner's, goes on. Of a new one, only the frames begin that no other mapping of the same partition has
under scrub (log 53). -/
def noteScrub (vf ps key : Nat) (e : Pte) (big : Bool) (at_ : Nat) (f : Fabric) : Fabric :=
  let x : SpEntry := ⟨e.pfn, at_, big, e.cls, vf, ps, key⟩
  let owned (fr : Nat) : Bool := f.scrub.any fun s => s.1 == fr && s.2.1 == vf
  if e.sp && e.pfn / 2 ^ 30 == 0 && !(f.spEntry.contains x && x.frames.all owned) then
    let others := f.spEntry.filter fun s => s.at_ != at_
    beginScrub vf x.cls (x.frames.filter fun fr => !(owned fr && others.any fun s => s.vf == vf && s.frames.contains fr))
      { f with spEntry := x :: others }
  else f

/-- TRANSLATE through the cache only (R198): the answer or a miss. With translation disabled every access faults (R202). -/
def cacheAnswer (f : Fabric) (l tile va : Nat) (mode : Mode) : Xlate × Fabric :=
  if 2 ^ 55 ≤ va then (.fault (3, 0x50), f)
  else
    match findLine f l with
    | some x =>
      if !(getIface f x.vf x.pasid).rootEn then (.fault (3, 0x10), f)
      else if regionArea ≤ va then regionXlate f l va mode
      else
        match cacheLookup f l tile x.pasid va with
        | some (e, big) =>
          if mode == .write && !e.qc && e.pfn / 2 ^ 30 == 0 then (.miss, f)
          else
            let f := cacheTouch l tile x.pasid va f
            match leafCheck f x.vf (some x.cls) e big (mode != .read) with
            | some d => (.fault d, f)
            | none => (.place (leafPlace x.vf e big va), f)
        | none => (.miss, f)
    | none => (.fault (3, 0x10), f)

/-- The cache is asked for an address (R198). -/
def asksCache (f : Fabric) (l va : Nat) : Bool :=
  va < regionArea && (match findLine f l with | some x => (getIface f x.vf x.pasid).rootEn | none => false)

/-- One lookup of an address: an answer, and a hit or a miss for the tile's counters (R241). -/
def lookup (f : Fabric) (l tile va : Nat) (mode : Mode) : Xlate × Fabric :=
  let (x, g) := cacheAnswer f l tile va mode
  (x, if asksCache f l va then countEvent l tile (match x with | .miss => 11 | _ => 10) g else g)

/-- A leaf that a walk has found: the entry, its size, its address and its page. -/
abbrev Leaf := Pte × Bool × Nat × Nat

/-- The walk for a line's access (R201). -/
def walkLine (m : Memory) (l tile va : Nat) (f : Fabric) : Except Nat Leaf × Fabric :=
  match findLine f l with
  | some x => walk m { Rec.ofLine f l 7 with bolt := tile / 16, tile := tile % 16 } f x.vf x.pasid va
  | none => (.error 0x10, f)

/-- What a leaf answers an access (R201): checked, charged, put in the tile's cache. The leaf is as the charge leaves it. -/
def leafAnswer (l tile va : Nat) (mode : Mode) (y : Leaf) (f : Fabric) : Xlate × Leaf × Fabric :=
  match findLine f l with
  | some x =>
    match leafCheck f x.vf (some x.cls) y.1 y.2.1 (mode != .read) with
    | some d => (.fault d, y, f)
    | none =>
      match if mode == .write then quotaCharge x.vf x.pasid y.1 y.2.1 y.2.2.1 f else (.ok y.1, f) with
      | (.error d, f) => (.fault d, y, f)
      | (.ok e, f) =>
        (.place (leafPlace x.vf e y.2.1 va), (e, y.2),
          noteScrub x.vf x.pasid (cacheKey y.2.1 y.2.2.2) e y.2.1 y.2.2.1 (cacheFill l tile x.pasid (cacheKey y.2.1 y.2.2.2) e.all f))
  | none => (.fault (3, 0x10), y, f)

/-- A DRAM frame written by a line is dirty for it, also where another frame was dirty at that virtual page (R129, R239). A frame
written through several pages has one record, under the lowest: DESIGN CHOICE (log 80). -/
def noteDirty (l va phys cls : Nat) (f : Fabric) : Fabric :=
  let fr := phys / 65536
  let add (ds : List (Nat × Nat × Nat)) : List (Nat × Nat × Nat) :=
    match ds.find? fun d => d.2.1 == fr with
    | some d => if va / 65536 < d.1 then (va / 65536, fr, cls) :: ds.filter fun y => y.2.1 != fr else ds
    | none => (va / 65536, fr, cls) :: ds
  if spaceOf phys = 0 then updLine l (fun x => { x with dirty := add x.dirty }) f else f

/-! ## Planed regions -/

/-- The slice address of a word of a planed region. -/
def regionWord (f : Fabric) (r : Region) (word : Nat) : Nat := sliceAddr f r.line r.tile (r.base + 4 * word)

/-- The step of a region's contributions now: its group's current step, or the beat's (R119). -/
def stepOf (f : Fabric) (r : Region) : Nat :=
  match r.group.bind fun g => findGroup f (vfOf r.line) g with
  | some g => g.step
  | none => 0

/-- The step a store to a region counts in for an element: an arrived member's stores belong to the next one (R119, R120). -/
def stepFor (f : Fabric) (e : Elem) (r : Region) : Nat :=
  match r.group.bind fun g => findGroup f (vfOf e.line) g with
  | some g => g.step + (if g.arrived.contains e.thread then 1 else 0)
  | none => 0

/-- Is the rule a sum? -/
def isSum (r : Region) : Bool := 2 ≤ r.collide

/-- Collision-buffer entries in use in a tile's slice (R123). -/
def buffered (f : Fabric) (l tile : Nat) : Nat :=
  ((f.regions.filter fun r => r.line == l && r.tile == tile).flatMap fun r => r.contribs.filter fun c => c.entry == 1).length

/-- The lowest entry of a region's overflow area that no contribution holds. -/
def freeOvf (r : Region) : Nat → Nat → Option Nat
  | 0, _ => none
  | k + 1, n => if n < r.ovf then (if r.contribs.any fun c => c.entry == n + 2 then freeOvf r k (n + 1) else some n) else none

/-- Where a new contribution goes: the next plane (0), a buffer entry (1), overflow entry `n` (`n + 2`), or nowhere (R123). -/
def contribEntry (f : Fabric) (r : Region) (word step : Nat) : Option Nat :=
  if !isSum r || !(r.contribs.any fun c => c.word == word && c.step == step) then some 0
  else if buffered f r.line r.tile < 8192 then some 1
  else (freeOvf r (r.contribs.length + 1) 0).map fun n => n + 2

/-- An overflow entry's 16 bytes (R123): value, word index, contributor, region record index, zero. -/
def ovfBytes (r : Region) (c : Contrib) : List Byte :=
  leBytes 4 c.val.toNat ++ leBytes 4 c.word ++ leBytes 2 c.who ++ leBytes 2 r.num ++ leBytes 4 0

/-- A poisoned store into a Muslin planed region counts for ERR_MUSLIN when it is made (R126). -/
def countPlaned (r : Region) (poison : Bool) (f : Fabric) : Fabric := if poison && r.cls == 0 then countOnce (vfOf r.line) f else f

/-- Write a contribution's overflow entry, where it has one (R123). -/
def putOvf (r : Region) (c : Contrib) (f : Fabric) : Fabric :=
  if c.entry < 2 then f
  else
    let o := 16 * (c.entry - 2)
    match r.ovfPages[o / 65536]? with
    | some fr => writePhys (vfOf r.line) r.cls (fr * 65536 + o % 65536) (ovfBytes r c) false f
    | none => f

/-- One contribution to one word of a planed region (R119, R123); none when the buffer and the overflow area are full. -/
def contribute (l rn word who st : Nat) (v : Word) (poison : Bool) (slot node seq : Nat) (f : Fabric) : Option Fabric :=
  match findRegion f l rn with
  | some r =>
    match r.contribs.find? fun c => c.word == word && c.who == who && c.step == st with
    | some c =>
      let c' : Contrib := { c with val := v, poison := poison, slot := slot, node := node, seq := seq }
      some (putOvf r c' (updRegion l rn (fun r => { r with contribs := r.contribs.map fun x => if x = c then c' else x }) f))
    | none =>
      match contribEntry f r word st with
      | some en =>
        let c : Contrib := ⟨word, who, v, poison, slot, node, seq, en, st⟩
        some (putOvf r c (updRegion l rn (fun r => { r with contribs := r.contribs ++ [c] }) f))
      | none => none
  | none => some f

end Sys2Proof.Machine
end

