-- ==== Sys2Proof/Machine/MemWords.lean ====
section
/-!
DEFINITION. Memory words (R115, R158, R266, R267, R276, R295, R317 to R319, R335, R358, R362) and what their generator does
with them: XLAT_LOOKUP, WALK_RESULT, LOAD_RETURN, ATOMIC_RETURN, STORE_ACCEPT.
-/
namespace Sys2Proof.Machine

/-- An event that the spec lets happen has its effect; one that it does not is a fault of the model. -/
def runEvent (due : Memory → Fabric → Bool) (eff : Memory → Fabric → Fabric) (s : State) :
    Host.Outcome State Fault Refusal :=
  if due s.mem s.fab then .next (State.commit s.mem (eff s.mem (newAccess s.fab))) else .fault .eventNotDue

/-! ## Issue -/

/-- An access that acquires (R137). -/
def AccKind.acquires : AccKind → Bool → Bool
  | .ld, o | .ldv, o | .atom _, o | .cas, o => o
  | .fence, _ => true
  | _, _ => false

/-- An access that releases (R137). -/
def AccKind.releases : AccKind → Bool → Bool
  | .st, o | .stv, o | .atom _, o | .cas, o => o
  | .fence, _ => true
  | _, _ => false

/-- The access writes. -/
def AccKind.mode : AccKind → Mode
  | .st | .stv | .atom _ => .write
  | .cas => .check
  | _ => .read

/-- The size of an access (R115). -/
def AccKind.size : AccKind → Nat
  | .ldv | .stv | .mxq => 32
  | _ => 4

/-- The offsets an access touches (R115, R335). -/
def accOffsets (k : AccKind) (off : Lanes) : List Nat :=
  match k with
  | .ldv | .stv => [off.l0.toNat]
  | .mxq => [off.l0.toNat, off.l0.toNat + 32]
  | .fence => []
  | _ => off.toList.map BitVec.toNat

/-- The offsets of the words of an access (R115, R335): a lane's word, or the eight words of a 32-byte row. -/
def accWords (k : AccKind) (off : Lanes) : List Nat :=
  if k.size = 32 then (accOffsets k off).flatMap fun o => (List.range 8).map fun i => o + 4 * i else accOffsets k off

/-- The runs of bytes of a word at a virtual address that lie in one aligned word each, as address and length: the word itself, or the
two runs of one that a window's base leaves unaligned. Each is reached for itself (R376) and accessed with its aligned word as one
(R134). -/
def wordParts (va : Nat) : List (Nat × Nat) := if va % 4 = 0 then [(va, 4)] else [(va, 4 - va % 4), (va + 4 - va % 4, va % 4)]

/-- Two accesses of one window may touch one word (R135). -/
def overlap (a : Acc) (k : AccKind) (off : Lanes) : Bool :=
  (accOffsets a.kind a.off).any fun x => (accOffsets k off).any fun y => x < y + k.size && y < x + a.kind.size

/-- The accesses that must be performed before a new one (R135, R138, R139). -/
def accNeeds (f : Fabric) (e : Elem) (k : AccKind) (ordered : Bool) (win : Nat) (off : Lanes) : List Nat :=
  let mine := f.accs.filter fun a => a.line == e.line && a.th == e.thread
  let own := mine.filter fun a =>
    k.releases ordered || a.kind.acquires a.ordered || (a.win == win && overlap a k off)
  union (own.map fun a => a.id) (pendingOf f e.know)

/-- The steps a store of this element counts in, by the region each of its words falls in (R119, R120). -/
def stepsFor (f : Fabric) (e : Elem) (w : Nat) (k : AccKind) (off : Lanes) : List (Nat × Nat) :=
  (((accWords k off).flatMap (windowRegions f e w)).map fun r => (r.num, stepFor f e r)).eraseDups

/-- ISSUE: the firing takes one entry of its window's generator (R55 step 5, R158). -/
def issueAcc (e : Elem) (slot : Nat) (k : AccKind) (w ext : Nat) (ordered : Bool) (d : Dst) (off data cmp : Lanes)
    (poison neg : Bool) (f : Fabric) : Fabric :=
  match vget e.w w with
  | none => f
  | some x =>
    let scope := x.scope + ext
    let (id, f) := fresh f
    let same := union e.know ((e.wins.filter fun y => y.1 == w).map Prod.snd)
    let before := union e.mine same
    let know := if ordered && k.releases true then before else same
    let rels := (if ordered && k.releases true then [⟨e.line, e.thread, scope, addNew id before⟩] else [])
      ++ (if k.mode == .read then [] else e.fences.map fun y => ⟨e.line, e.thread, y.1, addNew id y.2⟩)
    let a : Acc := {
      id := id, line := e.line, th := e.thread, slot := slot, kind := k, gen := x.gen, win := w, d := d, off := off,
      data := data, cmp := cmp, poison := poison, ordered := ordered, scope := scope, seq := seqOf f e,
      node := nodeOf e slot, loopv := loopValue e slot, phys := [], keys := [], miss := false, halted := false,
      need := accNeeds f e k ordered w off, know := know, base := e.know, late := [], negOff := neg, got := [], gotRels := [],
      result := none, rels := rels,
      stepAt := if k.mode == .read then [] else stepsFor f e w k off }
    let f := { f with accs := f.accs ++ [a] }
    updElem e.line e.thread (fun y => { y with
      mine := id :: y.mine
      wins := (w, id) :: y.wins
      know := if k == .fence || (ordered && k.acquires true && k.releases true) then union e.mine (addNew id y.know)
        else if ordered && k.acquires true then addNew id y.know else y.know
      fences := if k == .fence && !ordered then (scope, before) :: y.fences else y.fences }) f

/-- The destination of a word whose result comes later is awaited; an output handle stages its slot (R50, R318). -/
def awaitResult (e : Elem) (slot : Nat) (d : Dst) (id : Nat) (f : Fabric) : Fabric :=
  let f := updElem e.line e.thread (fun x => { x with awaits := ⟨id, d, false⟩ :: x.awaits }) f
  match d with
  | .c h => stageTok (mkToken f e slot 0 Reg.zero) (some id) e h f
  | _ => f

/-- An offset operand is a negative immediate (R317). -/
def negImm (o : Src) : Bool := match o with | .imm v => decide (immVal v < 0) | _ => false

/-- A load word's firing (R317). -/
def fireLoad (i : Instr) (k : AccKind) (d : Dst) (o : Src) (w : Nat) (q : Bool) (x : Nat) (s : State) :
    Host.Outcome State Fault Refusal :=
  fireWord i (fun _ e slot f =>
    let off := readSrc f e .offset o
    .ok (awaitResult e slot d f.nextId (issueAcc e slot k w x q d off.v Lanes.zero Lanes.zero off.poison (negImm o) f))) s

/-- A store or atomic word's firing (R266, R276, R358). -/
def fireStore (i : Instr) (k : AccKind) (a o : Src) (w : Nat) (q : Bool) (x : Nat) (s : State) :
    Host.Outcome State Fault Refusal :=
  fireWord i (fun _ e slot f =>
    let off := readSrc f e .offset o
    let data := readSrc f e (if k == .atom 7 then .float else .int) a
    let g := issueAcc e slot k w x q .lat off.v data.v e.lat.v (off.poison || data.poison) (negImm o) f
    .ok (match k with
      | .atom _ | .cas => updElem e.line e.thread (fun y => { y with awaits := ⟨f.nextId, .lat, false⟩ :: y.awaits }) g
      | _ => g)) s

def execLd (t : Nat) (d : Dst) (o : Src) (w : Nat) (q : Bool) (e : Nat) (s : State) : Host.Outcome State Fault Refusal :=
  fireLoad (.ld t d o w q e) .ld d o w q e s
def execLdv (t : Nat) (d : Dst) (o : Src) (w : Nat) (q : Bool) (e : Nat) (s : State) : Host.Outcome State Fault Refusal :=
  fireLoad (.ldv t d o w q e) .ldv d o w q e s
def execMxq (t : Nat) (d : Dst) (o : Src) (w : Nat) (s : State) : Host.Outcome State Fault Refusal :=
  fireLoad (.mxq t d o w) .mxq d o w false 0 s
def execSt (t : Nat) (a o : Src) (w : Nat) (q : Bool) (e : Nat) (s : State) : Host.Outcome State Fault Refusal :=
  fireStore (.st t a o w q e) .st a o w q e s
def execStv (t : Nat) (a o : Src) (w : Nat) (q : Bool) (e : Nat) (s : State) : Host.Outcome State Fault Refusal :=
  fireStore (.stv t a o w q e) .stv a o w q e s
def execAtomAdd (t : Nat) (a o : Src) (w : Nat) (q : Bool) (e : Nat) (s : State) : Host.Outcome State Fault Refusal :=
  fireStore (.atomAdd t a o w q e) (.atom 0) a o w q e s
def execAtomMin (t : Nat) (a o : Src) (w : Nat) (q : Bool) (e : Nat) (s : State) : Host.Outcome State Fault Refusal :=
  fireStore (.atomMin t a o w q e) (.atom 1) a o w q e s
def execAtomMax (t : Nat) (a o : Src) (w : Nat) (q : Bool) (e : Nat) (s : State) : Host.Outcome State Fault Refusal :=
  fireStore (.atomMax t a o w q e) (.atom 2) a o w q e s
def execAtomAnd (t : Nat) (a o : Src) (w : Nat) (q : Bool) (e : Nat) (s : State) : Host.Outcome State Fault Refusal :=
  fireStore (.atomAnd t a o w q e) (.atom 3) a o w q e s
def execAtomOr (t : Nat) (a o : Src) (w : Nat) (q : Bool) (e : Nat) (s : State) : Host.Outcome State Fault Refusal :=
  fireStore (.atomOr t a o w q e) (.atom 4) a o w q e s
def execAtomXor (t : Nat) (a o : Src) (w : Nat) (q : Bool) (e : Nat) (s : State) : Host.Outcome State Fault Refusal :=
  fireStore (.atomXor t a o w q e) (.atom 5) a o w q e s
def execAtomXchg (t : Nat) (a o : Src) (w : Nat) (q : Bool) (e : Nat) (s : State) : Host.Outcome State Fault Refusal :=
  fireStore (.atomXchg t a o w q e) (.atom 6) a o w q e s
def execAtomFadd (t : Nat) (a o : Src) (w : Nat) (q : Bool) (e : Nat) (s : State) : Host.Outcome State Fault Refusal :=
  fireStore (.atomFadd t a o w q e) (.atom 7) a o w q e s
def execCas (t : Nat) (a o : Src) (w : Nat) (q : Bool) (e : Nat) (s : State) : Host.Outcome State Fault Refusal :=
  fireStore (.cas t a o w q e) .cas a o w q e s
def execFence (t w : Nat) (q : Bool) (e : Nat) (s : State) : Host.Outcome State Fault Refusal :=
  fireWord (.fence t w q e) (fun _ x slot f =>
    .ok (issueAcc x slot .fence w e q .lat Lanes.zero Lanes.zero Lanes.zero false false f)) s

/-! ## Translation of an access -/

/-- The record of an access's fault: its generator halts at the token (R206). -/
def accRec (f : Fabric) (a : Acc) (code detail addr mask : Nat) : Rec :=
  { Rec.ofLine f a.line code with
    resumable := true
    halted := true
    bolt := a.th / 256
    tile := a.th / 16 % 16
    elem := a.th % 16
    slot := a.slot
    mask := mask
    kind := 1
    unit := a.gen
    seq := a.seq
    node := a.node
    loopv := a.loopv
    addr := addr
    detail := detail
    what := .access a.id }

/-- Another access of the same generator. -/
def sameGen (a b : Acc) : Bool := b.line == a.line && tileOf b.th == tileOf a.th && b.gen == a.gen

/-- A shoot-down no longer waits for an access: it has been performed, or its translation is dropped (R205). -/
def unshoot (id : Nat) (f : Fabric) : Fabric :=
  { f with ifaces := f.ifaces.map fun i => { i with
      shootAccs := i.shootAccs.filter fun x => x != id, ats := i.ats.map fun y => (y.1, y.2.filter fun x => x != id) } }

/-- The translations of accesses are dropped: they are translated afresh. -/
def untranslate (p : Acc → Bool) (f : Fabric) : Fabric :=
  let ids := (f.accs.filter p).map fun a => a.id
  let f := { f with accs := upd p (fun x => { x with phys := [], keys := [], miss := false }) f.accs }
  ids.foldl (fun f id => unshoot id f) f

/-- The access faults: halted at its token, a record; the later tokens of its generator wait behind it and are translated
afresh (R206, R207). -/
def accFault (a : Acc) (code detail addr mask : Nat) (f : Fabric) : Fabric :=
  let f := untranslate (fun x => x.id == a.id || (sameGen a x && decide (a.id < x.id))) f
  takeFault (accRec f a code detail addr mask) false (updAcc a.id (fun x => { x with halted := true, got := [], gotRels := [] }) f)

/-- The access's window. -/
def accWindow (f : Fabric) (a : Acc) : Option Window := (findElem f a.line a.th).bind fun e => vget e.w a.win

/-- The lanes out of bounds (R115): a negative immediate is so in every lane, also in a window of 2^32 bytes (R317). -/
def badLanes (a : Acc) (len : Nat) : List (Nat × Nat) :=
  ((accOffsets a.kind a.off).zipIdx.filter fun x => a.negOff || x.1 % a.kind.size != 0 || len < x.1 + a.kind.size)

/-- An access has its generator's answer: translated, and not halted (R198). -/
def answered (a : Acc) : Bool := !a.halted && !a.miss && (a.kind == .fence || !a.phys.isEmpty)

/-- The generator takes its next token: its requests are answered in issue order, so every earlier entry has been answered, and none is
halted (R198, R207). -/
def isNextToken (f : Fabric) (a : Acc) : Bool :=
  (f.accs.filter fun b => sameGen a b && b.id < a.id).all answered

/-- The line's tile still takes tokens and commands: it is not saved, and not in a pre-emption round (R217). -/
def tileServes (f : Fabric) (l tile : Nat) : Bool := match findTile f l tile with | some t => !t.inRound && !t.saved | none => false

/-- The line's tile still finishes what it has begun: it may have entered a pre-emption round, but is not saved (R217). -/
def tileFinishes (f : Fabric) (l tile : Nat) : Bool := match findTile f l tile with | some t => !t.saved | none => false

/-- The partition is stopped by EBUDGET: its elements and its address generators stop, and no other unit does (R131, R377). -/
def budgetStops (f : Fabric) (l : Nat) : Bool := (getPart f (vfOf l)).ebudget

/-- The tile's address generators take tokens (R131, R217). -/
def gensServe (f : Fabric) (l tile : Nat) : Bool := !budgetStops f l && tileServes f l tile

/-- A tile is saved: its units stand as its block has them until the restore (R217, R219). -/
def tileSaved (f : Fabric) (l tile : Nat) : Bool := match findTile f l tile with | some t => t.saved | none => false

/-- A place as an access keeps it: physical address, whether its region is planed, class. -/
def placeOf (f : Fabric) (l va : Nat) (p : Place) : Nat × Bool × Nat :=
  (p.phys, (match regionAt f l va with | some r => r.planes != 0 | none => false), p.cls)

/-- A translation the generator keeps for a window (R200): the leaf last used, if it serves the address and was obtained for as
much. One obtained by a compare-and-swap was checked as a write's, and serves a write whose page is not to be charged (R133, R276). -/
def keptPlace (f : Fabric) (l tile g win va : Nat) (mode : Mode) : Option Place :=
  match findGen f l tile g with
  | some x =>
    match x.kept.find? fun k => k.1 == win && cacheServes 0 va (0, k.2.1, 0) with
    | some k =>
      let e := decodePte k.2.2.1
      if mode == .read || (k.2.2.2 && (mode == .check || e.qc || e.pfn / 2 ^ 30 != 0)) then some (leafPlace (vfOf l) e (k.2.1 % 2 == 1) va) else none
    | none => none
  | none => none

/-- Keep a window's translation (R200): the leaf the tile's cache has just served. -/
def keepLeaf (l tile g win va : Nat) (mode : Mode) (f : Fabric) : Fabric :=
  match (findTile f l tile).bind fun t => t.xlat.find? (cacheServes (((findLine f l).map fun x => x.pasid).getD 0) va) with
  | some x => updGen l tile g (fun y => { y with kept := (win, x.2.1, x.2.2, mode != .read) :: y.kept.filter fun k => k.1 != win }) f
  | none => f

/-- Translate an address of a generator's window by `ask`, unless it keeps the translation (R200). -/
def genXlate (ask : Fabric → Xlate × Fabric) (l tile g win va : Nat) (mode : Mode) (f : Fabric) : Xlate × Fabric :=
  match (if va < regionArea then keptPlace f l tile g win va mode else none) with
  | some p => (.place p, f)
  | none =>
    match ask f with
    | (.place p, f) => (.place p, if va < regionArea then keepLeaf l tile g win va mode f else f)
    | x => x

/-- The window of an access among those of its generator (R158, R200). -/
def Acc.window (a : Acc) : Nat := a.th * 8 + a.win

/-- The access notes the leaf its generator has just used for an address (R205). -/
def noteKey (a : Acc) (va : Nat) (f : Fabric) : Fabric :=
  match (findGen f a.line (tileOf a.th) a.gen).bind fun x => x.kept.find? fun k => k.1 == a.window && cacheServes 0 va (0, k.2.1, 0) with
  | some k => if va < regionArea then updAcc a.id (fun y => { y with keys := addNew k.2.1 y.keys }) f else f
  | none => f

/-- Translate one address of an access by `ask`. -/
def accXlate (ask : Fabric → Xlate × Fabric) (a : Acc) (va : Nat) (f : Fabric) : Xlate × Fabric :=
  match genXlate ask a.line (tileOf a.th) a.gen a.window va a.kind.mode f with
  | (.place p, f) => (.place p, noteKey a va f)
  | x => x

/-- An address goes on in the page of the one before it, whose translation serves it: the next word of a 32-byte row, or the rest of a word
that a window's base leaves unaligned. In the region area each run is looked up in the map of regions, which may end between them (R376). -/
def goesOn (k : AccKind) (last : Option (Nat × Nat × Bool × Nat)) (va : Nat) : Option (Nat × Bool × Nat) :=
  match last with
  | some (v, p, x) =>
    if (k.size = 32 || (va % 4 == 0 && v % 4 != 0)) && decide (v < va ∧ va ≤ v + 4) && va / 65536 == v / 65536 && decide (va < regionArea)
    then some (p + (va - v), x) else none
  | none => none

/-- Translate the runs of an access that have no place yet, in order, by `ask`; stop at a fault, and at a miss, behind which the
others are asked once it is answered (R198). `last` is the address before them and its place. A run in the region area is covered with
all its bytes, or by no region (R376). R115 checks the offset, and no rule the window's base: DESIGN CHOICE a word or row that a base
leaves unaligned is accepted (log 92). -/
def xlateAll (ask : Nat → Fabric → Xlate × Fabric) (a : Acc) (last : Option (Nat × Nat × Bool × Nat)) :
    List ((Nat × Nat) × Option (Nat × Bool × Nat)) → Fabric → Except (XFault × Nat) (List (Option (Nat × Bool × Nat))) × Fabric
  | [], f => (.ok [], f)
  | ((va, _), some p) :: r, f =>
    match xlateAll ask a (some (va, p)) r f with
    | (.ok l, f) => (.ok (some p :: l), f)
    | x => x
  | ((va, n), none) :: r, f =>
    match goesOn a.kind last va with
    | some p =>
      (match xlateAll ask a (some (va, p)) r f with
      | (.ok l, f) => (.ok (some p :: l), f)
      | x => x)
    | none =>
      if regionArea ≤ va + n - 1 && regionAt f a.line va != regionAt f a.line (va + n - 1) then (.error ((3, 0x70), va), f)
      else
        match accXlate (ask va) a va f with
        | (.fault x, f) => (.error (x, va), f)
        | (.miss, f) => (.ok (none :: r.map Prod.snd), f)
        | (.place p, f) =>
          match xlateAll ask a (some (va, placeOf f a.line va p)) r f with
          | (.ok l, f) => (.ok (some (placeOf f a.line va p) :: l), f)
          | x => x

/-- The lane mask of a translation fault: all lanes of the access (R208). -/
def accMask (k : AccKind) : Nat :=
  match k with
  | .ldv | .stv | .mxq => 1
  | _ => 255

/-- The runs of an access, each with its place if it has one. -/
def accPlaces (a : Acc) (w : Window) : List ((Nat × Nat) × Option (Nat × Bool × Nat)) :=
  let rs := (accWords a.kind a.off).flatMap fun o => wordParts (w.base + o)
  if a.phys.isEmpty then rs.map (fun v => (v, none)) else rs.zip a.phys

/-- Take the answers of a translation into the access, or fault. -/
def takeXlate (ask : Nat → Fabric → Xlate × Fabric) (a : Acc) (w : Window) (f : Fabric) : Fabric :=
  match xlateAll ask a none (accPlaces a w) f with
  | (.error (x, va), f) => accFault a x.1 x.2 va (accMask a.kind) f
  | (.ok l, f) => updAcc a.id (fun y => { y with phys := l, miss := l.any fun p => p.isNone }) f

def xlatLookupDue (id : Nat) (_ : Memory) (f : Fabric) : Bool :=
  match findAcc f id with
  | some a => a.kind != .fence && a.phys.isEmpty && !a.miss && !a.halted && isNextToken f a && gensServe f a.line (tileOf a.th)
  | none => false

/-- An XLAT node takes the access's addresses (R198): bounds first (R115), then the kept translation, the cache, or a miss.
R208 gives a BOUNDS record no detail: DESIGN CHOICE the window's number and 256 times the access size (log 21). -/
def xlatLookup (id : Nat) (_ : Memory) (f : Fabric) : Fabric :=
  match findAcc f id with
  | some a =>
    match accWindow f a with
    | some w =>
      match badLanes a w.len with
      | [] => takeXlate (fun va f => lookup f a.line (tileOf a.th) va a.kind.mode) a w f
      | bad =>
        let mask := bad.foldl (fun n x => n ||| 2 ^ (if a.kind == .mxq then 0 else x.2)) 0
        let low := bad.foldl (fun n x => Nat.min n x.1) (2 ^ 33)
        accFault a 2 (a.win + 256 * a.kind.size) low mask f
    | none => f
  | none => f

def execXlatLookup (id : Nat) (s : State) : Host.Outcome State Fault Refusal := runEvent (xlatLookupDue id) (xlatLookup id) s

def walkResultDue (id : Nat) (_ : Memory) (f : Fabric) : Bool :=
  match findAcc f id with
  | some a => a.miss && !a.halted
  | none => false

/-- The address an access has with the walker: the first that has no place. -/
def missVa (f : Fabric) (a : Acc) : Option Nat :=
  ((accWindow f a).bind fun w => (accPlaces a w).find? fun x => x.2.isNone).map fun x => x.1.1

/-- Two lines walk the same tables by the same walker: one interface, bolts of one cluster (R2, R201). -/
def sameWalker (f : Fabric) (l tile k tile' : Nat) : Bool :=
  match findLine f l, findLine f k with
  | some x, some y =>
    x.vf == y.vf && x.pasid == y.pasid && boltOf f l (tile / 16) / 4 == boltOf f k (tile' / 16) / 4
  | _, _ => false

/-- A miss of the same page by a line's tile is in flight at the same walker (R201). -/
def sharesWalk (f : Fabric) (l tile va : Nat) (b : Acc) : Bool :=
  b.miss && !b.halted && sameWalker f l tile b.line (tileOf b.th)
    && (match missVa f b with | some v => v / 65536 == va / 65536 | none => false)

/-- An access takes the walker's answer for the address it missed, and its tile's cache is asked for those behind it (R198). -/
def takeAnswer (b : Acc) (va : Nat) (x : Xlate) (f : Fabric) : Fabric :=
  match accWindow f b with
  | some w => takeXlate (fun v f => if v = va then (x, f) else lookup f b.line (tileOf b.th) v b.kind.mode) b w f
  | none => f

/-- The accesses that share a walk receive its answer (R201): its fault, or the leaf, as each one's check and charge leave it. -/
def answerAll (y : Except Nat Leaf) : List Acc → Fabric → Fabric
  | [], f => f
  | b :: r, f =>
    match missVa f b, y with
    | some va, .error d => answerAll y r (takeAnswer b va (.fault (3, d)) f)
    | some va, .ok leaf =>
      let (x, leaf, f) := leafAnswer b.line (tileOf b.th) va b.kind.mode leaf f
      answerAll (.ok leaf) r (takeAnswer b va x f)
    | none, y => answerAll y r f

/-- The walker answers the first miss of an access, and with it every miss of that page in flight (R201). -/
def walkResult (id : Nat) (m : Memory) (f : Fabric) : Fabric :=
  match findAcc f id with
  | some a =>
    match missVa f a with
    | some va =>
      let others := f.accs.filter fun b => b.id != id && sharesWalk f a.line (tileOf a.th) va b
      let (y, f) := walkLine m a.line (tileOf a.th) va f
      answerAll y (a :: others) f
    | none => f
  | none => f

/-- Translate for an engine, which waits for the walker's answer: by the tile's cache, else by a walk, which answers the misses of that
page in flight too (R198, R201). -/
def xlateNow (m : Memory) (f : Fabric) (l tile va : Nat) (mode : Mode) : Xlate × Fabric :=
  match lookup f l tile va mode with
  | (.miss, f) =>
    let others := f.accs.filter (sharesWalk f l tile va)
    (match walkLine m l tile va f with
    | (.error d, f) => (.fault (3, d), answerAll (.error d) others f)
    | (.ok leaf, f) =>
      let (x, leaf, f) := leafAnswer l tile va mode leaf f
      (x, answerAll (.ok leaf) others f))
  | x => x

def execWalkResult (id : Nat) (s : State) : Host.Outcome State Fault Refusal := runEvent (walkResultDue id) (walkResult id) s

/-! ## Performing an access -/

/-- A page whose first write is still to be charged (R133, R376), or may be: its leaf is not in the tile's cache. -/
def uncharged (f : Fabric) (l tile va : Nat) : Bool :=
  match regionAt f l va with
  | some r => match r.pages[(va - regionArea - r.at_) / 65536]? with | some x => !x.2 | none => false
  | none => match cacheLookup f l tile (((findLine f l).map fun x => x.pasid).getD 0) va with | some x => !x.1.qc | none => true

/-- Bytes of one aligned word that an access touches, and their place. -/
structure Run where
  va : Nat
  len : Nat
  phys : Nat
  planed : Bool
  cls : Nat
  deriving DecidableEq, Repr

/-- The aligned word a run lies in, and its place there. -/
def Run.word (r : Run) : Nat := r.phys - r.va % 4

/-- The runs of the words at virtual addresses, with the places given to them in order. -/
def takeRuns : List Nat → List (Option (Nat × Bool × Nat)) → List (List Run)
  | [], _ => []
  | va :: r, ps =>
    let ws := wordParts va
    (ws.zip ps).filterMap (fun x => x.2.map fun p => ⟨x.1.1, x.1.2, p.1, p.2.1, p.2.2⟩) :: takeRuns r (ps.drop ws.length)

/-- The runs of each word of a translated access. -/
def accRuns (f : Fabric) (a : Acc) : List (List Run) :=
  match accWindow f a with
  | some w => takeRuns ((accWords a.kind a.off).map fun o => w.base + o) a.phys
  | none => []

/-- A translated access may still fault as it is performed: a store that needs collision entries (R123), or a CAS whose outcome may
charge a page (R276). -/
def mayStillFault (f : Fabric) (a : Acc) : Bool :=
  a.kind.mode != .read && (accRuns f a).flatten.any fun x =>
    if x.planed then (match regionAt f a.line x.va with | some r => isSum r | none => false)
    else a.kind == .cas && spaceOf x.phys == 0 && uncharged f a.line (tileOf a.th) x.va

/-- An access may be performed: it and every earlier one of its generator have been answered (R198, R207), no earlier one may still
fault as it is performed (R157; log 74), and every access it comes after is performed (R138, R157). -/
def accReady (f : Fabric) (a : Acc) : Bool :=
  answered a && (f.accs.all fun b => !(sameGen a b && decide (b.id < a.id)) || (answered b && !mayStillFault f b))
    && (pendingOf f a.need).isEmpty && !tileSaved f a.line (tileOf a.th)

/-- Remove an access: it is performed and frees its entry (R158). A shoot-down no longer waits for it (R205). -/
def retire (id : Nat) (f : Fabric) : Fabric := unshoot id { f with accs := f.accs.filter fun a => a.id != id }

/-- Deliver a returned value (R317, R318): to its register and `lat`, or into its staged slot or the outbox; a discarded
one goes nowhere (R20). A load's return is an arrival of the registers it writes (R236). -/
def deliver (load : Bool) (l th id : Nat) (r : Reg) (seq node : Nat) (f : Fabric) : Fabric :=
  match findElem f l th with
  | some e =>
    match e.awaits.find? fun a => a.id == id with
    | some aw =>
      let f := updElem l th (fun x =>
        let x := if aw.drop then x else x.setResult aw.d r
        { x with
          awaits := x.awaits.filter fun a => a.id != id
          loads := if load && !aw.drop then ((dstRegs aw.d).map fun n => (n, f.cycle)) ++ x.loads else x.loads }) f
      match aw.d with
      | .c h =>
        match vget e.h h with
        | .chan cl n => updChan cl n (fun c =>
            let fill (s : Staged) : Staged := { s with tok := { s.tok with payload := r.v, poison := r.poison }, await := none }
            drainStaged (relOf e) f c.staged.length { c with staged := upd (fun s => s.await == some id) fill c.staged }) f
        | .outbox => updStation l e.station (fun st =>
            match workItem st with
            | some it => if it.seq = seq && !aw.drop then putOutbox ⟨r.v, 0, r.poison, node, seq, relOf e⟩ st else st
            | none => st) f
        | _ => f
      | _ => f
    | none => f
  | none => f

/-- The unit a load's charge names (R131): its generator. -/
def chargeRec (f : Fabric) (a : Acc) : Rec := { accRec f a 7 0 0 255 with resumable := true, halted := false, unit := 1, what := .budget }

def loadReturnDue (id : Nat) (_ : Memory) (f : Fabric) : Bool :=
  match findAcc f id with
  | some a =>
    (a.kind == .ld || a.kind == .ldv) && accReady f a
      && (f.accs.filter fun b => b.line == a.line && b.th == a.th && b.id < a.id).all fun b =>
          b.kind != .ld && b.kind != .ldv && b.kind != .mxq
  | none => false

/-- Read a run, with its aligned word as one (R134): bytes, poison, cost and releases. -/
def readRun (m : Memory) (a : Acc) (x : Run) (f : Fabric) : List Byte × Bool × Nat × List Release × Fabric :=
  let (v, poi, cost, rel, f) := readWord m a.line x.cls x.word a.know a.late f
  (((leBytes 4 v.toNat).drop (x.va % 4)).take x.len, poi, cost, rel, f)

/-- Read the runs of one word of an access. -/
def readRuns (m : Memory) (a : Acc) : List Run → Fabric → List Byte × Bool × Nat × List Release × Fabric
  | [], f => ([], false, 0, [], f)
  | x :: r, f =>
    let (bs, poi, cost, rel, f) := readRun m a x f
    let (cs, ps, co, rs, f) := readRuns m a r f
    (bs ++ cs, poi || ps, cost + co, rel ++ rs, f)

/-- Read the words of a load, lane 0 first: value, poison, cost and the releases read. -/
def readLanes (m : Memory) (a : Acc) : List (List Run) → Fabric → List Word × Bool × Nat × List Release × Fabric
  | [], f => ([], false, 0, [], f)
  | x :: r, f =>
    let (bs, poi, cost, rel, f) := readRuns m a x f
    let (vs, ps, cs, rs, f) := readLanes m a r f
    (BitVec.ofNat 32 (ofBytes bs) :: vs, poi || ps, cost + cs, rel ++ rs, f)

/-- The place of the 32 aligned bytes of a slice or of DRAM that an LDV or STV touches as one whole (R134). DESIGN CHOICE a row that a
window base leaves unaligned is touched word by word (log 92). -/
def rowWhole (a : Acc) : Option (Nat × Nat) :=
  match a.phys with
  | some (p, pl, c) :: _ =>
    if (a.kind == .ldv || a.kind == .stv) && spaceOf p < 2 && p % 32 == 0 && a.phys == (List.range 8).map fun i => some (p + 4 * i, pl, c)
    then some (p, c) else none
  | _ => none

/-- What a load reads: its words, lane by lane, poison, cost and releases. Lanes naming one word read one value, since they form
one access; an LDV in a slice or in DRAM reads its 32 bytes as one whole (R134). -/
def loadValue (m : Memory) (a : Acc) (f : Fabric) : List Word × Bool × Nat × List Release × Fabric :=
  match rowWhole a with
  | some (p, c) => readWhole m a.line c p a.know a.late f
  | none =>
    let ws := accRuns f a
    let us := ws.eraseDups
    let (vs, poi, cost, rels, f) := readLanes m a us f
    (ws.map fun p => (vs[us.idxOf p]?).getD 0, poi, cost, rels, f)

/-- What an access that reads comes after by issue order (R135, R141): its element's stores to its words through its window, and what
those that release come after (R138). -/
def ownStores (f : Fabric) (a : Acc) : List Nat :=
  ((f.hist.filter fun h => a.know.contains h.id && (accRuns f a).flatten.any fun x => x.word == h.word).flatMap fun h =>
    h.id :: (h.rel.filter fun r => r.line == a.line && r.th == a.th).flatMap fun r => r.ids).eraseDups

/-- The element reads releases (R139, R140): what a later acquire fence may take up, and, when the access acquires, what it
learns at once. -/
def takeReleases (a : Acc) (rels : List Release) (f : Fabric) : Fabric :=
  match findElem f a.line a.th with
  | some e =>
    let f := updElem a.line a.th (fun x => { x with reads := rels ++ x.reads }) f
    if a.ordered then learn a.line a.th a.id (union (ownStores f a) (learned f e a.scope rels)) f else f
  | none => f

/-- A load returns (R317). -/
def loadReturn (id : Nat) (m : Memory) (f : Fabric) : Fabric :=
  match findAcc f id with
  | some a =>
    let (vs, poi, cost, rels, f) := loadValue m a f
    let f := retire id (charge (vfOf a.line) cost (chargeRec f a) f a.gen)
    takeReleases a rels (deliver true a.line a.th id ⟨Lanes.ofList vs, poi || a.poison⟩ a.seq a.node f)
  | none => f

def execLoadReturn (id : Nat) (s : State) : Host.Outcome State Fault Refusal := runEvent (loadReturnDue id) (loadReturn id) s

def storeAcceptDue (id : Nat) (_ : Memory) (f : Fabric) : Bool :=
  match findAcc f id with
  | some a => (a.kind == .st || a.kind == .stv || a.kind == .fence) && accReady f a
  | none => false

/-- What a store writes: its runs, each with its bytes. -/
def storeRuns (f : Fabric) (a : Acc) : List (Run × List Byte) :=
  (accRuns f a).zipIdx.flatMap fun (xs, i) =>
    xs.map fun x => (x, ((leBytes 4 (a.data.get i).toNat).drop (if x.va % 4 = 0 then 4 - x.len else 0)).take x.len)

/-- Of the lanes of one store that name one word, the highest is the one stored (R115). -/
def lastLanes : List (Run × List Byte) → List (Run × List Byte)
  | [] => []
  | x :: r => if r.any fun y => y.1.phys == x.1.phys then lastLanes r else x :: lastLanes r

/-- A contributor's word with bytes of it rewritten: it keeps the others of its own contribution, else of the present word (R118, R119,
R121). -/
def mergedWord (m : Memory) (f : Fabric) (r : Region) (word who st at_ : Nat) (bs : List Byte) : Word :=
  let own := ((findRegion f r.line r.num).bind fun x => x.contribs.find? fun c => c.word == word && c.who == who && c.step == st).map
    fun c => c.val.toNat
  let old := leBytes 4 (own.getD (wordNow m f (regionWord f r word)).toNat)
  BitVec.ofNat 32 (ofBytes ((List.range 4).map fun i => if at_ ≤ i && i < at_ + bs.length then bs.getD (i - at_) 0 else old.getD i 0))

/-- Put bytes of an access in a planed region's next plane (R118, R376), in the step it was issued in (R119); none when they find no room
(R123). -/
def storePlaned (m : Memory) (a : Acc) (x : Run) (bs : List Byte) (poison : Bool) (f : Fabric) : Option Fabric :=
  match regionAt f a.line x.va with
  | some rg =>
    let st := ((a.stepAt.find? fun y => y.1 == rg.num).map Prod.snd).getD (stepOf f rg)
    let o := x.va - regionArea - rg.at_
    contribute a.line rg.num (o / 4) a.th st (mergedWord m f rg (o / 4) a.th st (o % 4) bs) poison a.slot a.node a.seq (countPlaned rg poison f)
  | none => some f

/-- Write a run of a store in memory: a whole word, of an STV the whole row (R134), or bytes of a word, whose others stay. -/
def putRun (m : Memory) (a : Acc) (x : Run) (bs : List Byte) (poison : Bool) (rels : List Release) (f : Fabric) : Fabric :=
  noteDirty a.line x.va x.phys x.cls
    (if x.len = 4 then writeWord m (vfOf a.line) x.cls x.phys a.id (rowWhole a).isSome (BitVec.ofNat 32 (ofBytes bs)) poison a.know rels f
     else writeEngine m (vfOf a.line) x.cls x.phys a.id bs poison a.know rels f)

/-- Store runs in order; none when a contribution finds no room (R123). An STV is one whole (R134). -/
def storeAll (m : Memory) (a : Acc) : List (Run × List Byte) → Fabric → Option Fabric
  | [], f => some f
  | (x, bs) :: r, f =>
    if x.planed then (storePlaned m a x bs a.poison f).bind (storeAll m a r) else storeAll m a r (putRun m a x bs a.poison a.rels f)

/-- A store is accepted at its home (R158, R358), all of it or, on PLANE_OVF, nothing (R123, R359); a FENCE ends (R295). -/
def storeAccept (id : Nat) (m : Memory) (f : Fabric) : Fabric :=
  match findAcc f id with
  | some a =>
    if a.kind = .fence then
      let f := retire id f
      match findElem f a.line a.th with
      | some e => if a.ordered then learn a.line a.th id (learned f e a.scope e.reads) f else f
      | none => f
    else
      match accWindow f a with
      | some w =>
        match storeAll m a (lastLanes (storeRuns f a)) f with
        | some f => retire id f
        | none => accFault a 9 0 (w.base + a.off.l0.toNat) (accMask a.kind) f
      | none => f
  | none => f

def execStoreAccept (id : Nat) (s : State) : Host.Outcome State Fault Refusal := runEvent (storeAcceptDue id) (storeAccept id) s

def atomicReturnDue (id : Nat) (_ : Memory) (f : Fabric) : Bool :=
  match findAcc f id with
  | some a => (match a.kind with | .atom _ | .cas => true | _ => false) && accReady f a
  | none => false

/-- The new word of an ATOM (R266). -/
def atomNew (e : Elem) (op : Nat) (old a : Word) : Word :=
  let w := intWidth e.ifmt
  let t := floatFmt e.ffmt
  match op with
  | 0 => packElems w fun n => addE false w (elemU old n w) (elemU a n w)
  | 1 => packElems w fun n => minE w (elemU old n w) (elemU a n w)
  | 2 => packElems w fun n => maxE w (elemU old n w) (elemU a n w)
  | 3 => old &&& a
  | 4 => old ||| a
  | 5 => old ^^^ a
  | 6 => a
  | _ => packElems t.width fun n => faddE t 0 (elemU old n t.width) (elemU a n t.width)

/-- The releases an atomic's write carries on: those of every write before it in the word's atomic order (R140, R146). -/
def priorReleases (f : Fabric) (p : Nat) : List Release := ((f.hist.filter fun h => h.word == p).flatMap fun h => h.rel).eraseDups

/-- A run of an ATOM or CAS is written, in memory or in a planed region's next plane (R118). -/
def atomWrite (m : Memory) (a : Acc) (x : Run) (bs : List Byte) (poison : Bool) (f : Fabric) : Option Fabric :=
  if x.planed then storePlaned m a x bs poison f else some (putRun m a x bs poison (a.rels ++ priorReleases f x.word) f)

/-- Read the runs of a word as memory holds them now, the last write in each word's order (R146): bytes, poison, cost and releases. -/
def readNow (m : Memory) (a : Acc) : List Run → Fabric → List Byte × Bool × Nat × List Release × Fabric
  | [], f => ([], false, 0, [], f)
  | x :: r, f =>
    let (y, f) := readPhys m (vfOf a.line) x.cls x.phys x.len f
    let rel := ((f.hist.find? fun h => h.word == x.word).map fun h => h.rel).getD []
    let (bs, poi, cost, rels, f) := readNow m a r f
    (y.bytes ++ bs, y.poison || poi, y.cost + cost, rel ++ rels, f)

/-- Write the runs of a word of an ATOM or CAS. -/
def atomRuns (m : Memory) (a : Acc) (poison : Bool) : List Run → List Byte → Fabric → Option Fabric
  | [], _, f => some f
  | x :: r, bs, f => (atomWrite m a x (bs.take x.len) poison f).bind (atomRuns m a poison r (bs.drop x.len))

/-- The lanes of an ATOM or CAS, ascending (R266, R276): each reads the last write in the word's order and writes; none when a
contribution finds no room (R123). -/
def atomLanes (m : Memory) (e : Elem) (a : Acc) : List (Nat × List Run) → Fabric → Option (List Word × Bool × Nat × List Release × Fabric)
  | [], f => some ([], false, 0, [], f)
  | (i, xs) :: r, f =>
    let (bs, poi, cost, rel, f) := readNow m a xs f
    let old := BitVec.ofNat 32 (ofBytes bs)
    let write := match a.kind with | .cas => old == a.cmp.get i | _ => true
    let new := match a.kind with | .atom op => atomNew e op old (a.data.get i) | _ => a.data.get i
    match if write then atomRuns m a (poi || a.poison) xs (leBytes 4 new.toNat) f else some f with
    | some f => (atomLanes m e a r f).map fun y => (old :: y.1, poi || y.2.1, cost + y.2.2.1, rel ++ y.2.2.2.1, y.2.2.2.2)
    | none => none

/-- Charge the pages of runs for a write (R133): a fault and its address, or none. -/
def chargeRuns (m : Memory) (a : Acc) : List Run → Fabric → Option (XFault × Nat) × Fabric
  | [], f => (none, f)
  | x :: r, f =>
    match genXlate (fun f => xlateNow m f a.line (tileOf a.th) x.va .write) a.line (tileOf a.th) a.gen a.window x.va .write f with
    | (.fault y, f) => (some (y, x.va), f)
    | (_, f) => chargeRuns m a r f

/-- The pages a CAS's successful lanes write are charged first, where the translation it used is one to be charged (R133, R200); a charge
that fails faults with nothing written (R276). -/
def casCharges (m : Memory) (a : Acc) (old : Nat → Word) (lanes : List Nat) (f : Fabric) : Option (XFault × Nat) × Fabric :=
  chargeRuns m a ((lanes.filter fun i => old i == a.cmp.get i).flatMap fun i => (accRuns f a).getD i []) f

/-- The lanes of an ATOM or CAS still to be performed, by the word they name: each word's lanes are performed one directly after
another (R266). -/
def atomWords (f : Fabric) (a : Acc) : List (List (Nat × List Run)) :=
  let left := ((accRuns f a).zipIdx.map fun (x, i) => (i, x)).filter fun y => !y.2.isEmpty && !(a.got.any fun g => g.1 == y.1)
  ((left.map fun y => y.2).eraseDups).map fun p => left.filter fun y => y.2 == p

/-- Perform words of an ATOM or CAS, each an atomic of its own: the lanes with the old values and poison they read, the cost and the
releases read. -/
def atomEach (m : Memory) (e : Elem) (a : Acc) : List (List (Nat × List Run)) → Fabric →
    Option (List (Nat × Word × Bool) × Nat × List Release × Fabric)
  | [], f => some ([], 0, [], f)
  | g :: r, f =>
    match atomLanes m e a g (newAccess f) with
    | some (vs, poi, cost, rels, f) =>
      (atomEach m e a r f).map fun y => ((g.zip vs).map (fun x => (x.1.1, x.2, poi)) ++ y.1, cost + y.2.1, rels ++ y.2.2.1, y.2.2.2)
    | none => none

/-- How many of an atomic's words one event performs: other parties' accesses may fall between lanes that name different words (R266),
so a free number. DESIGN CHOICE one that may still fault is performed as a whole, with nothing written where it faults (log 75). -/
def atomShare (a : Acc) (f : Fabric) : Nat × Fabric :=
  let n := (atomWords f a).length
  if n ≤ 1 || mayStillFault f a then (n, f) else let (k, f) := pick (vfOf a.line) n f; (k + 1, f)

/-- The old value a lane of an atomic read. -/
def gotLane (got : List (Nat × Word × Bool)) (i : Nat) : Word := ((got.find? fun g => g.1 == i).map fun g => g.2.1).getD 0

/-- Words of an ATOM or CAS are performed at their homes (R146, R266, R276); with the last of them the old values return to `lat`. -/
def atomicReturn (id : Nat) (m : Memory) (f : Fabric) : Fabric :=
  match findAcc f id, (findAcc f id).bind (fun a => findElem f a.line a.th), (findAcc f id).bind (accWindow f) with
  | some a, some e, some w =>
    let (n, f) := atomShare a f
    let now := (atomWords f a).take n
    let olds := ((atomEach m e a now f).map Prod.fst).getD []
    let (bad, f) := if a.kind = .cas then casCharges m a (gotLane olds) (olds.map Prod.fst) f else (none, f)
    match bad, atomEach m e a now f with
    | some (x, va), _ => accFault a x.1 x.2 va (accMask a.kind) f
    | none, none => accFault a 9 0 (w.base + a.off.l0.toNat) (accMask a.kind) f
    | none, some (got, cost, rels, f) =>
      let f := charge (vfOf a.line) cost (chargeRec f a) f a.gen
      let all := a.got ++ got
      let rels := a.gotRels ++ rels
      if n < (atomWords f a).length then updAcc id (fun x => { x with got := all, gotRels := rels }) f
      else
        takeReleases a rels (deliver false a.line a.th id
          ⟨Lanes.ofFn fun i => gotLane all i, all.any fun g => g.2.2⟩ a.seq a.node (retire id f))
  | _, _, _ => f

def execAtomicReturn (id : Nat) (s : State) : Host.Outcome State Fault Refusal := runEvent (atomicReturnDue id) (atomicReturn id) s

/-- An access dropped by a skip (R206): a load returns zero, poisoned; a store writes nothing. -/
def dropAcc (a : Acc) (f : Fabric) : Fabric :=
  let f := retire a.id f
  match a.kind with
  | .ld | .ldv => deliver true a.line a.th a.id ⟨Lanes.zero, true⟩ a.seq a.node f
  | .mxq | .atom _ | .cas => deliver false a.line a.th a.id ⟨Lanes.zero, true⟩ a.seq a.node f
  | _ => f

end Sys2Proof.Machine
end

