-- ==== Sys2Proof/Machine/GroupWords.lean ====
section
/-!
DEFINITION. Group words GNEW, GFREE, JOIN, LEAVE, STEP (R62, R63, R309 to R315, R320, R361), the completion of a step and
the swap of planes (R118 to R123, R151): PLANE_SWAP_DONE.
-/
namespace Sys2Proof.Machine

/-- A live group of the element's line that a word names (R309). -/
def liveGroup (f : Fabric) (e : Elem) (a : Src) : Option Group :=
  match findGroup f (vfOf e.line) (groupArg f e a) with
  | some g => if g.line = e.line then some g else none
  | none => none

/-- The lowest free group number from `n` on (R311); one freed in this cycle is free from the next (R310; log 26). -/
def lowestFree (f : Fabric) (vf : Nat) : Nat → Nat → Option Nat
  | 0, _ => none
  | k + 1, n => if f.groups.any (fun g => g.vf == vf && g.num == n) || f.freed.contains (vf, n) then lowestFree f vf k (n + 1) else some n

/-- A new group. -/
def Group.new (vf num line : Nat) : Group where
  vf := vf
  num := num
  line := line
  members := []
  arrived := []
  joining := []
  step := 0
  swapBy := none
  collided := false
  waiting := []
  relIds := []
  stepIds := []
  doneIds := []
  swapIds := []

def execGnew (t : Nat) (d : Dst) (s : State) : Host.Outcome State Fault Refusal :=
  fireWord (.gnew t d) (fun _ e slot f =>
    match lowestFree f (vfOf e.line) 4096 0 with
    | some n =>
      .ok (writeResult e slot d ⟨Lanes.two (BitVec.ofNat 32 n) 0, false⟩
        { f with groups := f.groups ++ [Group.new (vfOf e.line) n e.line] })
    | none => .error (codeGroup, 0)) s

/-- The regions of a line bound to a group (R119). -/
def boundRegions (f : Fabric) (g : Group) : List Region :=
  f.regions.filter fun r => r.line == g.line && r.planes == 1 && r.group == some g.num

def execGfree (t : Nat) (a : Src) (s : State) : Host.Outcome State Fault Refusal :=
  fireWord (.gfree t a) (fun _ e _ f =>
    match liveGroup f e a with
    | some g =>
      if !g.members.isEmpty || !g.joining.isEmpty || !(boundRegions f g).isEmpty then .error (codeGroup, 0)
      else .ok { f with groups := f.groups.filter (fun x => !(x.vf == g.vf && x.num == g.num)), freed := (g.vf, g.num) :: f.freed }
    | none => .error (codeGroup, 0)) s

def execJoin (t : Nat) (a : Src) (s : State) : Host.Outcome State Fault Refusal :=
  fireWord (.join t a) (fun _ e _ f =>
    match liveGroup f e a with
    | some g =>
      if g.members.contains e.thread || g.joining.contains e.thread then .ok f
      else .ok (updGroup g.vf g.num (fun x =>
        if x.arrived.isEmpty then { x with members := e.thread :: x.members }
        else { x with joining := e.thread :: x.joining }) f)
    | none => .error (codeGroup, 0)) s

/-! ## The swap -/

/-- The contributions of a step to a word, by ascending contributor (R121). -/
def contribsOf (r : Region) (step word : Nat) : List Contrib :=
  sortBy (fun x y => decide (x.who ≤ y.who)) (r.contribs.filter fun c => c.step == step && c.word == word)

/-- The words with a contribution in a step, ascending. -/
def wordsOfStep (r : Region) (step : Nat) : List Nat :=
  sortBy (fun x y => decide (x ≤ y)) (((r.contribs.filter fun c => c.step == step).map fun c => c.word).eraseDups)

/-- One addition of the sum rules, rounded once to nearest-even (R121). -/
def addRound (collide : Nat) (a b : Word) : Word :=
  if collide = 2 then a + b
  else let t := floatFmt (collide - 3); packElems t.width fun n => faddE t 0 (elemU a n t.width) (elemU b n t.width)

/-- The value and poison a word takes (R121). -/
def settleWord (r : Region) (cs : List Contrib) : Option (Word × Bool) :=
  match cs with
  | [] => none
  | c :: rest =>
    if isSum r then some (rest.foldl (fun v x => addRound r.collide v x.val) c.val, cs.any fun x => x.poison)
    else some (c.val, c.poison)

/-- Swap one step of a region: write every word with a contribution and free its entries (R121, R123). -/
def swapStep (m : Memory) (rn l step id : Nat) (know : List Nat) (f : Fabric) : Fabric :=
  match findRegion f l rn with
  | some r =>
    let f := (wordsOfStep r step).foldl (fun f w =>
      match settleWord r (contribsOf r step w) with
      | some (v, p) => presentWord m r.cls (regionWord f r w) id v p know f
      | none => f) f
    updRegion l rn (fun x => { x with contribs := x.contribs.filter fun c => c.step != step, swapping := false }) f
  | none => f

/-- Collision entries a step holds (R120, R123). -/
def entriesOf (r : Region) (step : Nat) : Nat := (r.contribs.filter fun c => c.step == step && c.entry != 0).length

/-- The lowest colliding word of a fault-rule region in a step, with its contributions (R122). -/
def collision (r : Region) (step : Nat) : Option (Nat × Contrib) :=
  if r.collide ≠ 0 then none
  else (wordsOfStep r step).findSome? fun w =>
    match contribsOf r step w with
    | c :: _ :: _ => some (w, c)
    | _ => none

/-- The PLANE_COLLIDE record (R122). -/
def planeRec (f : Fabric) (r : Region) (w : Nat) (c : Contrib) (what : Unit_) : Rec :=
  let base : Rec := { Rec.ofLine f r.line 8 with resumable := true, halted := true, addr := 4 * w, what := what }
  if c.who < 16384 then
    { base with kind := 0, bolt := c.who / 256, tile := c.who / 16 % 16, elem := c.who % 16, slot := c.slot, node := c.node,
                seq := c.seq, loopv := ((findElem f r.line c.who).map fun e => loopValue e c.slot).getD 0 }
  else if c.who < 24576 then
    let t := (c.who - 16384) / 2
    { base with kind := 2, bolt := t / 16, tile := t % 16, unit := c.who % 2, node := 0xFFF, seq := 0 }
  else
    let t := c.who - 24576
    { base with kind := 3, bolt := t / 16, tile := t % 16, node := c.node, seq := c.seq }

/-- The steps a group has completed of which a region still holds contributions, in order. -/
def openSteps (g : Group) (r : Region) : List Nat :=
  sortBy (fun x y => decide (x ≤ y)) (((r.contribs.map fun c => c.step).filter fun x => x < g.step).eraseDups)

/-- The first collision, under the fault rule, of the steps a group has completed (R122). -/
def groupCollision (f : Fabric) (g : Group) : Option (Region × Nat × Contrib) :=
  (boundRegions f g).findSome? fun r => (openSteps g r).findSome? fun st => (collision r st).map fun x => (r, x)

/-- A collision under the fault rule holds the swap and stops the line at the step's completion (R122). -/
def holdCollision (vf n : Nat) (f : Fabric) : Fabric :=
  match (findGroup f vf n).bind fun g => groupCollision f g with
  | some (r, w, c) =>
    takeFault (planeRec f r w c (.planes (some n))) true (updGroup vf n (fun x => { x with swapBy := none, collided := true }) f)
  | none => f

/-- PLANE_STEP_COMPLETE (R120, R122, R315): the arrived members wait for the swap, and joiners become members. Each member's STEP has
acquired what the members' STEPs released (R138, R151). An arrived member keeps firing (R120), and may hand its item to one that has not
arrived: DEDUCED no access that it issues before the completion waits for the other members' STEPs or comes after their releases, and
every later one does (log 20). -/
def completeStep (vf n : Nat) (f : Fabric) : Fabric :=
  match findGroup f vf n with
  | some g =>
    let e := ((boundRegions f g).map fun r => entriesOf r g.step).foldl (· + ·) 0
    let f := g.stepIds.foldl (fun f i => updElem g.line i.1 (fun x => { x with know := union g.relIds x.know }) f) f
    holdCollision vf n (updGroup vf n (fun x => { x with
      step := x.step + 1
      waiting := union x.arrived x.waiting
      arrived := []
      members := union x.joining x.members
      joining := []
      stepIds := []
      doneIds := union (x.stepIds.map Prod.snd) x.doneIds
      swapIds := x.relIds
      swapBy := some (f.cycle + 1 + (e + 63) / 64) }) f)
  | none => f

/-- A step completes when every member, at least one, has arrived, in the cycle in which the last one does or the last other leaves (R63,
R120, R361). -/
def checkStep (vf n : Nat) (f : Fabric) : Fabric :=
  match findGroup f vf n with
  | some g => if !g.members.isEmpty && g.members.all (fun t => g.arrived.contains t) then completeStep vf n f else f
  | none => f

def execLeave (t : Nat) (a : Src) (s : State) : Host.Outcome State Fault Refusal :=
  fireWord (.leave t a) (fun _ e _ f =>
    match liveGroup f e a with
    | some g =>
      if g.joining.contains e.thread then
        .ok (updGroup g.vf g.num (fun x => { x with joining := x.joining.filter (· != e.thread) }) f)
      else if g.members.contains e.thread then
        .ok (checkStep g.vf g.num (updGroup g.vf g.num (fun x => { x with
          members := x.members.filter (· != e.thread), arrived := x.arrived.filter (· != e.thread)
          stepIds := x.stepIds.filter fun y => y.1 != e.thread }) f))
      else .error (codeGroup, 0)
    | none => .error (codeGroup, 0)) s

/-- STEP (R361). It has a number of its own, which stands for it in what its member's later accesses come after (R151). -/
def execStep (t : Nat) (a : Src) (s : State) : Host.Outcome State Fault Refusal :=
  fireWord (.step t a) (fun _ e _ f =>
    match liveGroup f e a with
    | some g =>
      if g.members.contains e.thread then
        let (id, f) := fresh f
        let f := updElem e.line e.thread (fun x => { x with know := addNew id x.know }) f
        .ok (checkStep g.vf g.num (updGroup g.vf g.num (fun x => { x with
          arrived := addNew e.thread x.arrived, relIds := union (relOf e) x.relIds, stepIds := (e.thread, id) :: x.stepIds }) f))
      else .error (codeGroup, 0)
    | none => .error (codeGroup, 0)) s

/-- Accesses that come before a swap read none of its writes (R142, R151, R152). -/
def lateFor (id : Nat) (p : Acc → Bool) (f : Fabric) : Fabric :=
  { f with accs := upd p (fun a => { a with late := id :: a.late }) f.accs }

/-- The stores that a completed step's swap still waits for: what was stored in the step belongs to it (R119, R120; log 20). -/
def stepStores (f : Fabric) (g : Group) : List Acc :=
  f.accs.filter fun a => a.line == g.line && a.stepAt.any fun x => decide (x.2 < g.step) && (boundRegions f g).any fun r => r.num == x.1

/-- Make the swap of every step a group has completed, in order (R120, R151): its writes come after what the members did before their
STEPs, and what comes after a member's STEP comes after the writes: also where a release that the member issued before the swap has
handed it on. -/
def makeSwap (g : Group) (m : Memory) (f : Fabric) : Fabric :=
  let (id, f) := fresh f
  let f := (boundRegions f g).foldl (fun f r => (openSteps g r).foldl (fun f st => swapStep m r.num r.line st id g.swapIds f) f) f
  let f := lateFor id (fun a => g.swapIds.contains a.id) f
  let f := g.doneIds.foldl (fun f i => noteLearnt i [id] f) f
  updGroup g.vf g.num (fun x => { x with waiting := [], swapBy := none, collided := false, doneIds := [] }) f

/-- PLANE_SWAP_DONE: the swap is made, unless a collision that has not been resumed holds it, one of the last stores of the step among
them (R122). -/
def swapGroup (vf n : Nat) (m : Memory) (f : Fabric) : Fabric :=
  match findGroup f vf n with
  | some g => if !g.collided && (groupCollision f g).isSome then holdCollision vf n f else makeSwap g m f
  | none => f

/-- A swap waits to be made, and every store of its step is performed; one that a collision holds is made at the resume (R122). -/
def planeSwapDoneDue (vf n : Nat) (_ : Memory) (f : Fabric) : Bool :=
  match findGroup f vf n with
  | some g => g.swapBy.isSome && (stepStores f g).isEmpty
  | none => false

def execPlaneSwapDone (vf n : Nat) (s : State) : Host.Outcome State Fault Refusal :=
  runEvent (planeSwapDoneDue vf n) (swapGroup vf n) s

end Sys2Proof.Machine
end

