-- ==== Sys2Proof/Machine/LineWords.lean ====
section
/-!
DEFINITION. RANGE and SPAWN (R193, R195, R196, R348, R355, R356) and their answers: RANGE_ANSWER, SPAWN_ANSWER's link side.
-/
namespace Sys2Proof.Machine

/-- The route latency from a tile to the line's source tile (R270, R328, R348). -/
def routeTo (f : Fabric) (l tile : Nat) : Nat :=
  match findLine f l with
  | some x => ((x.routes.find? fun r => r.1 == tile).map Prod.snd).getD 0
  | none => 0

/-- The tile of the line's source station (R369). -/
def sourceTile (f : Fabric) (l : Nat) : Nat :=
  match findLine f l with
  | some x => ((findStation f l x.source).map fun st => st.tile).getD 0
  | none => 0

/-- Send a request; its result is awaited (R50, R348, R355). -/
def fireRequest (i : Instr) (spawn : Bool) (d : Dst) (a : Src) (s : State) : Host.Outcome State Fault Refusal :=
  fireWord i (fun _ e slot f =>
    let x := readSrc f e .int a
    let tile := tileOf e.thread
    let at_ := f.cycle + (if spawn then 1 else if tile = sourceTile f e.line then 2 else 2 + routeTo f e.line tile)
    let (id, g) := fresh f
    let r : Request := {
      id := id, line := e.line, th := e.thread, spawn := spawn, a := x.v, poison := x.poison, d := d, seq := seqOf f e,
      node := nodeOf e slot, at_ := at_, need := if spawn then union e.mine e.know else [] }
    .ok (awaitResult e slot d id { g with requests := g.requests ++ [r] })) s

def execRange (t : Nat) (d : Dst) (a : Src) (s : State) : Host.Outcome State Fault Refusal :=
  fireRequest (.range t d a) false d a s
def execSpawn (t : Nat) (d : Dst) (a : Src) (s : State) : Host.Outcome State Fault Refusal :=
  fireRequest (.spawn t d a) true d a s

/-- Answer a request: lanes to its destination, with A's poison. -/
def answer (r : Request) (v : Lanes) (f : Fabric) : Fabric :=
  deliver false r.line r.th r.id ⟨v, r.poison⟩ r.seq r.node { f with requests := f.requests.filter fun x => x.id != r.id }

/-- The unit a RANGE names. -/
def rangeUnit (r : Request) : Nat := r.a.l0.toNat % 8

/-- A RANGE is answered in its cycle, after those that reached its unit before it, and after those of a lower thread. -/
def rangeAnswerDue (id : Nat) (_ : Memory) (f : Fabric) : Bool :=
  match findRequest f id with
  | some r =>
    !r.spawn && r.at_ ≤ f.cycle && !tileSaved f r.line (tileOf r.th)
      && f.requests.all fun q => q.spawn || q.line != r.line || rangeUnit q != rangeUnit r || q.id == r.id
          || r.at_ < q.at_ || (r.at_ == q.at_ && r.th < q.th)
  | none => false

/-- The chunk of R196. -/
def chunkOf (u : RangeUnit) : Nat :=
  if !u.given || u.stop ≤ u.next then 0
  else Nat.min (u.stop - u.next) (Nat.max u.minChunk ((u.stop - u.next + 2 * u.memb - 1) / (2 * u.memb)))

/-- An absent range unit. -/
def RangeUnit.absent : RangeUnit := ⟨false, 0, 0, 1, 1⟩

/-- Take a chunk from the request's unit (R196, R348). -/
def rangeAnswer (id : Nat) (_ : Memory) (f : Fabric) : Fabric :=
  match findRequest f id with
  | some r =>
    match findLine f r.line with
    | some l =>
      let u := l.ranges.getD (rangeUnit r) RangeUnit.absent
      let c := chunkOf u
      let f := updLine r.line (fun x => { x with ranges := x.ranges.set (rangeUnit r) { u with next := u.next + c } }) f
      answer r (Lanes.two (BitVec.ofNat 32 u.next) (BitVec.ofNat 32 c)) f
    | none => f
  | none => f

def execRangeAnswer (id : Nat) (s : State) : Host.Outcome State Fault Refusal := runEvent (rangeAnswerDue id) (rangeAnswer id) s

end Sys2Proof.Machine
end

