-- ==== Sys2Proof/Machine/LoadCheck.lean ====
section
/-!
DEFINITION. The load-time checks (R81, R82) over a decoded image, and the LOAD_ILLEGAL record.
-/
namespace Sys2Proof.Machine

/-- A failed check: cause, then tile, element, slot and detail; all ones where they do not apply (R81). -/
structure Fail where
  cause : Nat
  tile : Nat
  elem : Nat
  slot : Nat
  detail : Nat
  deriving DecidableEq, Repr

/-- A failure that concerns no element and no controller. R81 sets tile, element and slot to all ones and does not speak of the
detail: DESIGN CHOICE all ones too (log 67). -/
def Fail.image (cause : Nat) : Fail := ⟨cause, 0xFFFF, 0xFF, 0xFF, 0xFFFFFFFF⟩

/-- A check that must hold. -/
def must (b : Bool) (x : Fail) : List Fail := if b then [] else [x]

/-- The order in which the first failure is chosen (R81). -/
def Fail.le (a b : Fail) : Bool :=
  a.cause < b.cause || (a.cause == b.cause && (a.tile < b.tile || (a.tile == b.tile &&
    (a.elem < b.elem || (a.elem == b.elem && a.slot ≤ b.slot)))))

/-- A channel record is the writer end of a mailbox: its own depth is ignored, for the reader end's governs (R195). -/
def mailboxWriter (c : ChanRec) : Bool := c.link == 1 && c.reader == .boundary

/-- The channel's depth is this record's: no hand-off's, and no mailbox writer end's (R49, R195). -/
def ownDepth (c : ChanRec) : Bool := !c.handoff && !mailboxWriter c

/-- The depth a guard condition on a handle meets: 1 for an inbox or an outbox (R49, R370), and for a c0 no channel record names,
which is its station's inbox (R16, R369). That of a mailbox is not known in its writer's image: DEDUCED no count is above it (log 67). -/
def recDepth (img : Image) (er : ElemRec) (h : Nat) : Option Nat :=
  match er.handles.getD h none with
  | some n =>
    match img.chans[n]? with
    | some c => some (match c.reader with
      | .inbox _ _ => if h < 4 || c.handoff then 1 else c.depth
      | _ => if mailboxWriter c then 64 else c.depth)
    | none => none
  | none => if h = 0 then some 1 else none

/-- The checks of a guard entry (R74, R49). R81's table names no cause for a nonzero g0 or a nonzero condition of count 0:
DESIGN CHOICE cause 4, as for the entry's reserved bits, and detail 0 (log 67). -/
def checkGuard (img : Image) (er : ElemRec) (i : Nat) (g : Nat) : List Fail :=
  let at_ (c : Nat) : Fail := ⟨c, er.tile, er.elem, 32 + i, 0⟩
  must (i != 0 || g == 0) (at_ 4)
    ++ must (g / 2 % 128 == 0) (at_ 4)
    ++ must ((g / 2 ^ 48 % 256) &&& (255 - g / 2 ^ 56 % 256) == 0) (at_ 7)
    ++ (guardConds g).flatMap fun x =>
        let h := x / 128 % 8
        if x / 8 % 16 = 0 then must (x == 0) (at_ 4)
        else match recDepth img er h with
          | none => [at_ 7]
          | some d => must (x / 8 % 16 ≤ d) (at_ 7) ++ must (h < 4 || x % 8 == 0) (at_ 7)

/-- The window of a memory word and its scope extension. -/
def wordWindow (i : Instr) : Option (Nat × Nat) :=
  match i with
  | .ld _ _ _ w _ e | .ldv _ _ _ w _ e | .st _ _ _ w _ e | .stv _ _ _ w _ e | .atomAdd _ _ _ w _ e | .atomMin _ _ _ w _ e
  | .atomMax _ _ _ w _ e | .atomAnd _ _ _ w _ e | .atomOr _ _ _ w _ e | .atomXor _ _ _ w _ e | .atomXchg _ _ _ w _ e
  | .atomFadd _ _ _ w _ e | .cas _ _ _ w _ e | .fence _ w _ e => some (w, e)
  | .mxq _ _ _ w => some (w, 0)
  | _ => none

/-- ATOM or CAS. -/
def isAtomic (i : Instr) : Bool :=
  match i with
  | .atomAdd .. | .atomMin .. | .atomMax .. | .atomAnd .. | .atomOr .. | .atomXor .. | .atomXchg .. | .atomFadd ..
  | .cas .. => true
  | _ => false

/-- A word that converts between the element's integer and float formats (R102). -/
def convertsFormat (i : Instr) : Bool := match i with | .fcvti .. | .fcvtf .. => true | _ => false

/-- The checks of a slot's word (R65 to R73, R81 causes 3 to 10, 17 and 20, R102). R80 gives every nonzero slot a source-node entry
and names no refusal where one lacks, and R81 gives an element's failure no detail: DESIGN CHOICE cause 1 there, and detail 0
(log 67). -/
def checkSlot (img : Image) (er : ElemRec) (i : Nat) (w : Nat) : List Fail :=
  let at_ (c : Nat) : Fail := ⟨c, er.tile, er.elem, i, 0⟩
  let t := w / 67108864
  must (w == 0 || er.nodes.any fun n => n.1 == i) (at_ 1)
    ++ must (t == 0 || ((er.guards.getD t 0).toNat % 2 == 1)) (at_ 6)
    ++ match decodeElem w with
  | .error r => [at_ r.cause]
  | .ok ins =>
    must (!convertsFormat ins || intWidth (fld er.cfg 0 3) == (floatFmt (fld er.cfg 4 3)).width) (at_ 17)
      ++ (match wordWindow ins with
        | some (k, e) =>
          match (er.windows.getD k none).bind fun n => img.windows[n]? with
          | some (wd, _, _) =>
            must (wd.scope + e ≤ 5) (at_ 10)
              ++ must (!isAtomic ins || (match wd.region.bind fun r => img.regions[r]? with
                  | some r => r.planes == 0 | none => true)) (at_ 20)
          | none => [at_ 10]
        | none => [])

/-- The checks of a source-node entry, also of one that names no element record (R80, R81). R81 does not speak of its fields in the
record: DESIGN CHOICE the tile, element and slot the entry names, and detail 0 (log 67). -/
def checkNode (img : Image) (n : NodeEntry) : List Fail :=
  let at_ (c : Nat) : Fail := ⟨c, n.tile, n.elem, n.slot, 0⟩
  must n.zeroOk (at_ 4)
    ++ must (decide (n.tile < 16 * img.bolts ∧ n.elem < 16 ∧ n.slot < 32)
        && (n.loop < 8 || (64 ≤ n.loop && n.loop < 128) || n.loop == 255)) (at_ 1)

/-- The checks of an element record (R79). A failure in no slot and no guard (the configuration word, a constant source, a
binding) has no slot field to name: DESIGN CHOICE all ones, 0xFF, with detail 0 (log 67). A second record of one element has no cause of
its own: DESIGN CHOICE cause 16, as demand above the tile's resources (log 67). -/
def checkElem (img : Image) (er : ElemRec) : List Fail :=
  let at_ (c : Nat) : Fail := ⟨c, er.tile, er.elem, 0xFF, 0⟩
  let inRange (n : Nat) (x : Option Nat) : Bool := match x with | some k => decide (k < n) | none => true
  (er.slots.zipIdx.flatMap fun x => checkSlot img er x.2 x.1.toNat)
    ++ (er.guards.zipIdx.flatMap fun x => checkGuard img er x.2 x.1.toNat)
    ++ must (er.zeroOk && fld er.cfg 3 1 == 0 && fld er.cfg 7 1 == 0 && fld er.cfg 10 2 == 0 && fld er.cfg 14 2 == 0 && er.cfg / 2 ^ 23 == 0)
        (at_ 4)
    ++ must (fld er.cfg 0 3 ≤ 2 && fld er.cfg 4 3 ≤ 4) (at_ 12)
    ++ must (er.constArg.all (inRange img.nargs) && er.constGroup.all (inRange img.groups) && er.handles.all (inRange img.chans.length)
        && er.windows.all (inRange img.windows.length)) (at_ 1)
    ++ must (decide (er.tile < 16 * img.bolts ∧ er.elem < 16 ∧ er.station < img.stations.length)) (at_ 1)
    ++ must ((img.elems.filter fun x => x.tile == er.tile && x.elem == er.elem).length ≤ 1) (at_ 16)

/-- The argument slot a command reads. -/
def cmdArg (i : Instr) : Option Nat :=
  match i with
  | .waitnArg _ _ j | .loopArg _ _ j | .arm _ _ j | .beatPolicy _ j | .recfg _ j | .rsz _ _ j => some j
  | _ => none

/-- The parent of a controller reaches ct0. -/
def reachesRoot (img : Image) (tile : Nat) : Nat → Nat → Bool
  | 0, _ => false
  | k + 1, n =>
    match img.ctls.find? fun c => c.tile == tile && c.num == n with
    | some c => c.num == 0 || reachesRoot img tile k c.parent
    | none => false

/-- A controller is a child of another of its tile. -/
def isChild (img : Image) (c : CtlRec) (n : Nat) : Bool :=
  img.ctls.any fun x => x.tile == c.tile && x.num == n && x.num != 0 && x.parent == c.num

/-- The fields of a command with its reserved bits cleared, for the checks of its other fields (R81). -/
def cmdFields (op f : Nat) : Nat :=
  match op with
  | 0x01 => f / 65536 * 65536 + f / 256 % 64 * 256 + f % 256
  | 0x02 => f / 65536 * 65536
  | 0x03 | 0x06 | 0x0D | 0x10 => 0
  | 0x04 => if f / 8192 % 2 = 0 then f else f / 8192 * 8192 + f % 4096
  | 0x05 | 0x0A => f / 32768 * 32768
  | 0x07 => f / 128 * 128
  | 0x09 => f / 32768 * 32768 + f % 4096
  | 0x0B => f % 256
  | 0x0C => if f / 65536 = 0 then f % 4096 else f
  | 0x0E => f % 4096
  | _ => f

/-- The command's own operands are in range (R158, R178, R273, R288, R313, R323). A BIND names the generator of a GO by its opcode and
that field, whatever else fails of its word (R313). -/
def cmdRange (img : Image) (c : CtlRec) (i : Nat) (ins : Instr) : Bool :=
  match ins with
  | .enab _ n => isChild img c n
  | .cntw _ n _ _ => isChild img c n
  | .sigd _ => c.num != 0
  | .loop _ n _ => c.mode != 2 && n ≤ i
  | .loopArg _ n _ => c.mode != 2 && n ≤ i
  | .bind _ g _ r =>
    (match (c.pats[r]?).map fun p => (patternOf p).2 with
    | some k => (match img.windows[k]? with | some w => w.1.gen == g | none => false) && (windowUser img.elems c.tile k).isSome
    | none => false)
  | .go _ g => img.ctls.any fun x => x.tile == c.tile && x.table.any fun y => y.toNat / 262144 % 256 == 0x01 && y.toNat / 65536 % 4 == g
  | .rsz _ x _ => (match img.regions[x]? with | some r => r.planes != 0 || !r.slice | none => false)
  | _ => true

/-- The checks of a command (R75, R178, R180, R264, R273, R280, R288, R313, R323, R351): of its step condition, its form and its
fields, each whatever the others are. -/
def checkCmd (img : Image) (c : CtlRec) (i : Nat) (w : Nat) : List Fail :=
  let at_ (k : Nat) : Fail := ⟨k, c.tile, 0x80 + c.num, 0xFE, i⟩
  let op := w / 2 ^ 18 % 256
  let f := w % 2 ^ 18
  (match decCond (w / 2 ^ 26 % 64) with
    | some (.token n) => must ((c.num != 0 && n == c.parent) || isChild img c n) (at_ 1)
    | some _ => []
    | none => [at_ 11])
    ++ (match decodeCmdOp op .always f with | .error r => [at_ r.cause] | .ok _ => [])
    ++ match decodeCmdOp op .always (cmdFields op f) with
      | .error r => [at_ r.cause]
      | .ok ins =>
        must (match cmdArg ins with | some j => j < img.nargs | none => true) (at_ 1) ++ must (cmdRange img c i ins) (at_ 1)

/-- The word is a HALTC, whatever else of it fails its own check (R89). -/
def isHaltWord (w : Word) : Bool := w.toNat / 2 ^ 18 % 256 == 0x10

/-- The checks of a controller's table and patterns (R89, R159, R178). For a failure of a controller that is neither a
command nor a pattern record R81 gives no slot field: DESIGN CHOICE all ones for its mode or parent; for a table that does
not end in HALTC the last command's, 0xFE with its index, and 0xFE with 0 for an empty table (log 67). A second record of one
controller has no cause of its own: DESIGN CHOICE cause 16 (log 67). -/
def checkCtl (img : Image) (c : CtlRec) : List Fail :=
  let at_ (k slot detail : Nat) : Fail := ⟨k, c.tile, 0x80 + c.num, slot, detail⟩
  (c.table.zipIdx.flatMap fun x => checkCmd img c x.2 x.1.toNat)
    ++ must (decide (c.tile < 16 * img.bolts ∧ c.num < 8 ∧ c.mode < 3) && reachesRoot img c.tile 9 c.num) (at_ 1 0xFF 0)
    ++ must ((img.ctls.filter fun x => x.tile == c.tile && x.num == c.num).length ≤ 1) (at_ 16 0xFF 0)
    ++ must (((c.table.getLast?).map isHaltWord).getD false) (at_ 1 0xFE (c.table.length - 1))
    ++ c.pats.zipIdx.flatMap fun x =>
        let p := (patternOf x.1).1
        must (patternZero x.1) (at_ 4 0xFD x.2)
          ++ must ((bfld x.1 3 1 == 2 || bfld x.1 3 1 == 5) && 1 ≤ p.counts.1 && 1 ≤ p.counts.2.1 && 1 ≤ p.counts.2.2
              && decide (bfld x.1 0 2 < img.windows.length) && x.1.length == 32) (at_ 1 0xFD x.2)

/-- The checks of a region record (R113, R376). -/
def checkRegion (img : Image) (r : Region) : List Fail :=
  must (r.slice || r.tile == 0) (Fail.image 4)
    ++ must (r.cls ≤ 2 && r.cls ≤ img.cls && (r.planes != 0 || r.collide == 0) && (r.planes == 0 || r.slice) && r.planes ≤ 2
      && r.collide ≤ 5 && r.ovf ≤ 1048576 && (r.planes == 0 || (r.size % 32 == 0 && r.size ≤ 524288))) (Fail.image 1)
    ++ must ((if r.planes = 1 then (match r.group with | some g => decide (g < img.groups) | none => false) else r.group.isNone)
      && decide (r.tile < 16 * img.bolts) && r.at_ % 65536 == 0 && decide (r.at_ + r.size ≤ 2 ^ 47)) (Fail.image 1)

/-- The checks of a window record (R114). -/
def checkWindow (img : Image) (x : Window × Option Nat × Option Nat) : List Fail :=
  must (x.1.scope ≤ 5 && x.1.gen < 4 && (x.2.2.isSome || (1 ≤ x.1.len && x.1.len ≤ 2 ^ 32))
    && (match x.2.1 with | some j => j < img.nargs | none => true) && (match x.2.2 with | some j => j < img.nargs | none => true)
    && (match x.1.region with
        | some r => (match img.regions[r]? with | some rg => x.1.base + x.1.len ≤ rg.size | none => false)
        | none => x.2.1.isSome && x.1.base == 0)) (Fail.image 1)

/-- The copies of a voted station stand in a row, 0 to 2, and name one voter of the line, which serves no other station and no channel
(R177; log 82). -/
def voteFits (img : Image) (n : Nat) (st : StationRec) : Bool :=
  match st.vote with
  | some (v, k) =>
    decide (v < img.votes ∧ k < 3 ∧ k ≤ n)
      && (List.range 3).all (fun i => ((img.stations[n - k + i]?).map fun s => s.vote == some (v, i)).getD false)
      && decide ((img.stations.filter fun s => (s.vote.map Prod.fst) == some v).length = 3)
      && img.chans.all fun c => c.writer != .voterOut v && (match c.reader with | .voterIn w _ => w != v | _ => true)
  | none => true

/-- The station records whose items pass before a station's, straight to it: one, or the copies of a voted one (R177). -/
def recsBefore (img : Image) (n : Nat) : List StationRec :=
  let k := ((img.stations[n]?).bind fun s => s.vote.map Prod.snd).getD 0
  if n ≤ k then []
  else match img.stations[n - k - 1]? with
    | some p =>
      let j := (p.vote.map Prod.snd).getD 0
      (img.stations.take (n - k)).drop (n - k - 1 - j)
    | none => []

/-- An element of a station sees its inbox (R16): its c0 is bound to it, or no channel record names it. -/
def seesInbox (img : Image) (n : Nat) (er : ElemRec) : Bool :=
  match er.handles.getD 0 none with
  | some k => (match img.chans[k]? with | some c => (match c.reader with | .inbox _ m => m == n | _ => false) | none => false)
  | none => true

/-- The checks of a station record (R16, R17, R21, R22, R177). -/
def checkStation (img : Image) (n : Nat) (st : StationRec) : List Fail :=
  must (1 ≤ st.depth && st.depth ≤ 16 && st.carry.length ≤ 16 && st.carry.eraseDups.length == st.carry.length
      && !st.doneSet.isEmpty) (Fail.image 14)
    ++ must (decide (1 ≤ st.elems.length ∧ st.elems.length ≤ 16) && st.elems.all (fun e => e / 16 == st.tile) && st.tile < 16 * img.bolts
      && st.doneSet.all st.elems.contains
      && st.carry.all fun c => st.elems.contains c.1 && (c.2 < 8 || (64 ≤ c.2 && c.2 < 128))) (Fail.image 1)
    ++ must (voteFits img n st) (Fail.image 1)
    ++ must (img.elems.any fun er => er.station == n && seesInbox img n er) (Fail.image 13)

/-- A channel's reader is an inbox. -/
def toInbox (c : ChanRec) : Bool := match c.reader with | .inbox _ _ => true | _ => false

/-- A channel is an input end (R369): a line input over a window, or the reader end of a mailbox or of a parent link, at an
inbox. -/
def isInput (c : ChanRec) : Bool :=
  toInbox c && !c.handoff && match c.writer with | .gen _ _ => true | .boundary => c.link == 1 || c.link == 3 | _ => false

/-- The source's inbox is read as R369 has it: by one input, or in a handler line by no channel. -/
def inputOk (img : Image) (handler : Bool) : Bool :=
  if handler then img.chans.all fun c => c.reader != .inbox 0 0 else img.chans.any isInput

/-- An element's handle is bound to a channel record (R79). -/
def boundTo (img : Image) (th h n : Nat) : Bool :=
  img.elems.any fun e => e.tile * 16 + e.elem == th && e.handles.getD h none == some n

/-- The channel record has a writer (R81 cause 13): an element bound to it, a unit of the line, or the far side of a link. -/
def hasWriter (img : Image) (n : Nat) (c : ChanRec) : Bool :=
  match c.writer with
  | .elem _ th h => 4 ≤ h && boundTo img th h n
  | .gen t g => decide (t < 16 * img.bolts ∧ g < 4)
  | .count t k => decide (t < 16 * img.bolts ∧ k < 16)
  | .voterOut v => decide (v < img.votes)
  | .chain t => decide (t < 16 * img.bolts)
  | .sink => true
  | .boundary => c.link != 0
  | _ => false

/-- The channel record has a reader (R81 cause 13). -/
def hasReader (img : Image) (n : Nat) (c : ChanRec) : Bool :=
  match c.reader with
  | .elem _ th h => h < 4 && boundTo img th h n
  | .inbox _ st => decide (st < img.stations.length)
  | .gen t g => decide (t < 16 * img.bolts ∧ g < 4)
  | .queue t q | .join t q _ => decide (t < 16 * img.bolts ∧ q < 8)
  | .voterIn v k => decide (v < img.votes ∧ k < 3)
  | .resume => true
  | .boundary => c.link != 0
  | _ => false

/-- The fields of a channel record's end lie in their ranges (R39, R43, R104, R158, R162, R167, R177, R195). -/
def endFits (img : Image) (e : End) : Bool :=
  match e with
  | .elem _ th h => decide (th < 256 * img.bolts ∧ h < 8)
  | .inbox _ st => decide (st < img.stations.length)
  | .gen t g => decide (t < 16 * img.bolts ∧ g < 4)
  | .queue t q => decide (t < 16 * img.bolts ∧ q < 8)
  | .join t q k => decide (t < 16 * img.bolts ∧ q < 8 ∧ k < 16)
  | .count t n => decide (t < 16 * img.bolts ∧ n < 16)
  | .chain t => decide (t < 16 * img.bolts)
  | .voterIn v k => decide (v < img.votes ∧ k < 3)
  | .voterOut v => decide (v < img.votes)
  | .sink | .boundary | .resume => true

/-- A link's number is in its range: a mailbox 0 to 255, a spawn or parent port 0 to 15 (R195). -/
def linkFits (c : ChanRec) : Bool :=
  match c.link with
  | 0 => true
  | 1 => decide (c.linkNum < 256)
  | _ => decide (c.link < 4 ∧ c.linkNum < 16)

/-- The checks of a channel record (R43, R104 to R106, R145, R195, R369, R374). R81 does not say which fields the record of cause
13 for a handle bound to two channels names, an element's though the handle is: DESIGN CHOICE as for the channel's other
failures, tile, element and slot all ones. DESIGN CHOICE cause 13 too for two channel records whose reader is one generator, queue, join
input or voter input, which R81 does not name (log 67). The writer end of a mailbox is not judged by its depth (R195). -/
def checkChan (img : Image) (n : Nat) (c : ChanRec) : List Fail :=
  must (c.conv < 14) (Fail.image 4)
    ++ must (endFits img c.writer && endFits img c.reader && linkFits c) (Fail.image 1)
    ++ must (!ownDepth c || (1 ≤ c.depth && c.depth ≤ 64)) (Fail.image 13)
    ++ must (hasWriter img n c && hasReader img n c) (Fail.image 13)
    ++ must (!ownDepth c || unpackOf c.conv ≤ c.depth) (Fail.image 13)
    ++ must (c.conv == 0 || (!c.handoff && match c.swage with | some t => decide (t < 16 * img.bolts) | none => false)) (Fail.image 17)
    ++ must ((c.link == 0 && c.reader != .resume) || c.bnode) (Fail.image 18)
    ++ must (!toInbox c || c.handoff || c.reader == .inbox 0 0) (Fail.image 13)
    ++ must ((img.chans.filter fun x => x.reader == c.reader && c.reader != .boundary && c.reader != .resume).length ≤ 1) (Fail.image 13)
    ++ must ((img.chans.filter fun x => x.writer == c.writer && (match c.writer with | .elem _ _ _ => true | _ => false)).length ≤ 1)
        (Fail.image 13)

/-! ## Resources of a tile -/

/-- The tile an end of an image's channel lies in; none for the far side of a link. A voter lies in its consumer's: that of its output
channel's reader, of the station behind the voted one, or of the sink (R177). -/
def recTile (img : Image) (e : End) : Option Nat :=
  match e with
  | .elem _ th _ => some (tileOf th)
  | .inbox _ st => (img.stations[st]?).map fun s => s.tile
  | .gen t _ | .queue t _ | .join t _ _ | .count t _ | .chain t => some t
  | .voterIn v _ | .voterOut v =>
    match img.chans.find? fun c => c.writer == .voterOut v with
    | some c =>
      (match c.reader with
      | .elem _ th _ => some (tileOf th)
      | .inbox _ st => (img.stations[st]?).map fun s => s.tile
      | .gen t _ | .queue t _ | .join t _ _ => some t
      | _ => none)
    | none => (img.stations.zipIdx.find? fun s => s.1.vote == some (v, 2)).map fun s => ((img.stations[s.2 + 1]?).getD s.1).tile
  | .sink => (img.stations.getLast?).map fun s => s.tile
  | .boundary | .resume => none

/-- Token-pool slots the channels read in a tile take (R43); the depth of a hand-off route is ignored (R370). -/
def poolNeed (img : Image) (tile : Nat) : Nat :=
  ((img.chans.filter fun c => !c.handoff && recTile img c.reader == some tile).map fun c => c.depth).foldl (· + ·) 0

/-- Token-pool slots left free in the sink's tile (R29). -/
def freePool (img : Image) : Nat := 1024 - ((img.stations.getLast?).map fun s => poolNeed img s.tile).getD 0

/-- Slice bytes a tile's regions, rework loops and collision buffer take (R23, R113, R123). The buffer's 8,192 entries are
counted at the 16 bytes of an overflow entry (log 65). -/
def sliceDemand (img : Image) (tile : Nat) : Nat :=
  let rs := img.regions.filter fun r => r.slice && r.tile == tile
  (rs.map fun r => (sliceNeed r + 31) / 32 * 32).foldl (· + ·) 0
    + ((img.stations.filter fun s => s.tile == tile).map fun s => 576 * s.depth).foldl (· + ·) 0
    + (if rs.any fun r => r.planes != 0 && 2 ≤ r.collide then 131072 else 0)

/-- A tile's resources hold what the image asks of them (R7, R81 cause 16). Cause 16 does not name voter nodes, of which a tile has four
(R177): DESIGN CHOICE an image that puts more in one tile is accepted (log 82). -/
def tileFits (img : Image) (tile : Nat) : Bool :=
  decide (poolNeed img tile ≤ 1024 ∧ sliceDemand img tile ≤ 2097152)
    && (List.range 16).all fun n => decide ((img.cnts.filter fun c => c.1 == tile && c.2.1 == n).length ≤ 1)

/-- The swage nodes serve at most four channels each (R104, R106). -/
def swageFits (img : Image) : Bool :=
  img.chans.all fun c => c.conv == 0 || decide ((img.chans.filter fun x => x.conv != 0 && x.swage == c.swage).length ≤ 4)

/-- The edges of the graph that are no gates (R216): from tile to tile, by the channels whose ends lie in two tiles, whatever unit
an end is of, and by the hand-off routes between stations of two tiles. These are the routes a marker waits on (R215). -/
def graphEdges (img : Image) : List (Nat × Nat) :=
  ((img.chans.filter fun c => !c.gate && !c.handoff).filterMap fun c => match recTile img c.writer, recTile img c.reader with
    | some a, some b => if a = b then none else some (a, b)
    | _, _ => none)
    ++ img.stations.zipIdx.flatMap fun x => (recsBefore img x.2).filterMap fun p => if p.tile = x.1.tile then none else some (p.tile, x.1.tile)

/-- Drop the edges that leave a node no edge enters, again and again; what stays lies on cycles or behind them. -/
def pruneEdges : Nat → List (Nat × Nat) → List (Nat × Nat)
  | 0, es => es
  | k + 1, es =>
    let rest := es.filter fun e => es.any fun x => x.2 == e.1
    if rest.length = es.length then es else pruneEdges k rest

/-- Every cycle of the graph holds a gate channel (R216; log 66). -/
def cycleOk (img : Image) : Bool := (pruneEdges (graphEdges img).length (graphEdges img)).isEmpty

/-- W of R29; a voted station counts once (log 82). -/
def windowW (img : Image) : Nat := 1 + ((img.stations.filter fun s => (s.vote.map Prod.snd).getD 0 == 0).map fun s => s.depth).foldl (· + ·) 0

/-- A mailbox end that a resident or pre-empted line of the partition already holds (R195). -/
def mailboxHeld (f : Fabric) (img : Image) (c : ChanRec) : Bool :=
  c.link == 1 && (f.chans.any fun x => x.line == linkKey img.vf && x.num == c.linkNum
    && (if c.writer == .boundary then x.reader != .boundary && !x.closed else x.writer != .boundary))

/-- The bellows values lie in their fields (R32), where R33 does not bring them there. -/
def belFits (b : Bellows) : Bool :=
  decide (4 ≤ b.floor) && [b.beat, b.floor, b.min, b.max, b.up, b.down, b.low, b.high].all (fun v => decide (v ≤ 65535))
    && decide (b.window ≤ 32767 ∧ b.stall < 2 ^ 32)

/-- A count node's record is in range (R167): its tile and number, its completion channel, and its counter word, 4-aligned in a
region of the line in its tile's slice. -/
def cntFits (img : Image) (c : Nat × Nat × Option Nat × Option Nat) : Bool :=
  decide (c.1 < 16 * img.bolts ∧ c.2.1 < 16)
    && (match c.2.2.1 with | some n => decide (n < img.chans.length) | none => true)
    && match c.2.2.2 with
      | some a =>
        (match img.regions[a / 2 ^ 32]? with
        | some r => r.slice && r.tile == c.1 && a % 4 == 0 && decide (a % 2 ^ 32 + 4 ≤ r.size)
        | none => false)
      | none => true

/-- The fields of the sections whose record layout the spec does not give lie in their ranges: count nodes (R167), range units and
the launch layout (R77, R196), and initial contents (R77). The route report is no such section: of it only its resources and its
edge links are checked (R255). -/
def sectionsFit (img : Image) : Bool :=
  img.cnts.all (cntFits img)
    && decide (img.ranges.length ≤ 8) && img.ranges.all (fun u => match u with | some j => decide (j < img.nargs) | none => true)
    && decide (img.seq < 65536)
    && img.data.all (fun d => match img.regions[d.1]? with | some r => decide (d.2.1 + 4 * d.2.2.length ≤ r.size) | none => false)

/-- Every failed check of an image launched with or without HANDLER (R81). -/
def loadFails (img : Image) (handler : Bool) : List Fail :=
  must (img.formOk && 1 ≤ img.bolts && img.bolts ≤ 48 && belFits img.bel && img.gap != 1 && img.gap ≤ 65535)
      (Fail.image 1)
    ++ must (img.fingerprint == exactly 32 (Config.shake256 32 Config.fingerprint)) (Fail.image 2)
    ++ must img.reservedOk (Fail.image 4)
    ++ img.elems.flatMap (checkElem img)
    ++ img.nodes.flatMap (checkNode img)
    ++ img.ctls.flatMap (checkCtl img)
    ++ img.regions.flatMap (checkRegion img)
    ++ img.windows.flatMap (checkWindow img)
    ++ (img.stations.zipIdx.flatMap fun x => checkStation img x.2 x.1)
    ++ (img.chans.zipIdx.flatMap fun x => checkChan img x.2 x.1)
    ++ must (!img.stations.isEmpty && sectionsFit img) (Fail.image 1)
    ++ must (inputOk img handler) (Fail.image 13)
    ++ must (if img.unordered then img.cls == 0 || windowW img ≤ 512 else windowW img ≤ 512 && windowW img ≤ freePool img)
        (Fail.image 15)
    ++ must ((List.range (16 * img.bolts)).all (tileFits img)) (Fail.image 16)
    ++ must (swageFits img) (Fail.image 17)
    ++ must (cycleOk img) (Fail.image 19)

/-- What is judged at placement alone (R195): a mailbox end that is held, or a number beyond the capability. -/
def placementFail (f : Fabric) (img : Image) : Option Fail :=
  if img.chans.any fun c => c.link == 1 && (decide (Config.mailboxes ≤ c.linkNum) || mailboxHeld f img c) then some (Fail.image 18) else none

/-- The failures of an image that is refused before its placement: what its placement would fail is one of them (R81). -/
def allFails (f : Fabric) (img : Image) (handler : Bool) (more : List Fail) : List Fail :=
  let fails := loadFails img handler ++ more
  if fails.isEmpty then [] else fails ++ (placementFail f img).toList

/-- The first failure, in the order of R81. -/
def firstFail (f : Fabric) (img : Image) (handler : Bool) (more : List Fail) : Option Fail :=
  (sortBy Fail.le (allFails f img handler more)).head?

/-- The LOAD_ILLEGAL record of a failure (R81, R208): of an image, or of a launch record or doorbell (R186, R187). -/
def loadRec (f : Fabric) (vf ps : Nat) (line : Option Nat) (x : Fail) (image : Bool) : Rec :=
  let base := match line with | some l => Rec.ofLine f l 1 | none => { Rec.blank vf 1 with pasid := ps }
  { base with
    kind := 6
    bolt := if x.tile = 0xFFFF then 0xFF else x.tile / 16
    tile := if x.tile = 0xFFFF then 0xFF else x.tile % 16
    elem := x.elem
    slot := x.slot
    addr := x.cause
    detail := x.detail
    what := if image then .image else .none }

/-- Write a LOAD_ILLEGAL record: nothing stops (R206). -/
def loadIllegal (vf ps : Nat) (line : Option Nat) (x : Fail) (f : Fabric) (image : Bool := true) : Fabric :=
  takeFault (loadRec f vf ps line x image) false f

end Sys2Proof.Machine
end

