-- ==== Sys2Proof/Machine/Control.lean ====
section
/-!
DEFINITION. Controller commands (R75, R178 to R182, R264 to R365): the step condition, the mode and the port scoreboard
decide when a command issues; one that must wait leaves the state as it is.
-/
namespace Sys2Proof.Machine

/-! ## Issue and completion -/

/-- A count node's firings; 0 for an absent node. -/
def firedOf (f : Fabric) (l tile n : Nat) : Nat := ((findCnt f l tile n).map fun c => c.fired).getD 0

/-- The firings, when a command is reached, of the node its step condition names (R75). -/
def baseAt (f : Fabric) (c : Ctl) (pos : Nat) : Nat :=
  match c.table[pos]? with
  | some w => if w.toNat / 2 ^ 30 = 2 then firedOf f c.line c.tile (w.toNat / 2 ^ 26 % 16) else 0
  | none => 0

/-- A command is reached: its node's firings count from now. -/
def reach (f : Fabric) (pos : Nat) (c : Ctl) : Ctl :=
  { c with nodeBase := (pos, baseAt f c pos) :: c.nodeBase.filter fun x => x.1 != pos }

/-- The commands of a controller that have not completed. -/
def openCmds (f : Fabric) (c : Ctl) : List Cmd := f.cmds.filter fun x => x.line == c.line && x.tile == c.tile && x.ct == c.num

/-- What the controller's commands come after: what it has acquired, and what a BAR of its tile has ordered (R148). -/
def ctlKnow (f : Fabric) (c : Ctl) : List Nat :=
  union c.know (((findTile f c.line c.tile).map fun t => t.barKnow).getD [])

/-- The step condition holds (R75, R179). R75 does not say whether a generator is idle whose queue holds element accesses: DESIGN CHOICE
it is while it runs no pattern (log 97). -/
def condOk (f : Fabric) (c : Ctl) (pos : Nat) (cd : Cond) : Bool :=
  match cd with
  | .always => true
  | .token n =>
    if c.num ≠ 0 ∧ n = c.parent then decide (0 < c.enabWait)
    else match findCtl f c.line c.tile n with | some x => decide (0 < x.doneWait) | none => false
  | .node n => decide (((c.nodeBase.find? fun x => x.1 == pos).map Prod.snd).getD 0 < firedOf f c.line c.tile n)
  | .idle n => match findGen f c.line c.tile n with | some g => !g.running | none => true

/-- The line's controllers may issue (R377), and the tile is not saved (R217). -/
def ctlRuns (f : Fabric) (c : Ctl) : Bool := lineRuns f c.line && tileServes f c.line c.tile

/-- A RECFG of the controller is queued or in progress before a position: what follows it in the table waits, and never issues where
its image passes (R183, R349). -/
def recfgBefore (f : Fabric) (c : Ctl) (pos : Nat) : Bool := (openCmds f c).any fun x => x.kind == 14 && decide (x.pos < pos)

/-- A BAR that has not completed holds every later command of its tile, whichever controller's table it stands in and whatever the mode
(R87, R148, R268; log 89). -/
def barHolds (f : Fabric) (c : Ctl) : Bool := f.cmds.any fun x => x.line == c.line && x.tile == c.tile && x.kind == 3

/-- A controller may issue its command at a position (R180). -/
def mayIssue (f : Fabric) (c : Ctl) (pos : Nat) (cd : Cond) : Bool :=
  ctlRuns f c && c.started && !c.stopped && c.haltAt.isNone && !recfgBefore f c pos && !barHolds f c && condOk f c pos cd
    && (match c.mode with
        | 0 => pos == c.pos && (openCmds f c).isEmpty
        | 1 => pos == c.pos
        | _ => (openCmds f c).all (fun x => x.pos != pos) && !(cd == .always && c.once.contains pos))

/-- Consume the token a step condition names, or acquire through its node (R149, R179). -/
def takeCond (c : Ctl) (cd : Cond) (f : Fabric) : Fabric :=
  match cd with
  | .token n =>
    if c.num ≠ 0 ∧ n = c.parent then updCtl c.line c.tile c.num (fun x => { x with enabWait := x.enabWait - 1 }) f
    else updCtl c.line c.tile n (fun x => { x with doneWait := x.doneWait - 1 }) f
  | .node n =>
    updCtl c.line c.tile c.num (fun x => { x with know := union (((findCnt f c.line c.tile n).map fun k => k.rel).getD []) x.know }) f
  | _ => f

/-- HALTC has issued: the commands after it are never reached (R314). -/
def pastHaltc (x : Ctl) : Bool := x.stopped || x.haltAt.isSome

/-- Go on past a command; a stream command of kind 00 issues once (R180). When a sequential or pipe controller reaches its next
command, whose step condition counts firings from then on (R75), no rule says: DESIGN CHOICE it reaches it as it issues the one
before, also where that one has not completed (log 69). -/
def advance (c : Ctl) (pos next : Nat) (cd : Cond) (f : Fabric) : Fabric :=
  updCtl c.line c.tile c.num (fun x =>
    if x.mode = 2 then { x with once := if cd == .always then addNew pos x.once else x.once }
    else if pastHaltc x then { x with pos := next }
    else reach f next { x with pos := next }) f

/-- A command that completes at issue; in stream mode it is re-armed (R180, R181). -/
def rearm (c : Ctl) (pos : Nat) (f : Fabric) : Fabric :=
  updCtl c.line c.tile c.num (fun x => if x.mode = 2 then reach f pos x else x) f

/-- A command is outstanding. -/
def openCmd (c : Ctl) (id pos kind arg val : Nat) (f : Fabric) (placed : List (Nat × Nat) := []) : Fabric :=
  { f with cmds := f.cmds ++ [{ id := id, line := c.line, tile := c.tile, ct := c.num, pos := pos, kind := kind, arg := arg, val := val,
                                placed := placed }] }

/-- A pipe controller past its HALTC stops once its earlier commands have completed (R180, R314). -/
def settleHalt (l tile ct : Nat) (f : Fabric) : Fabric :=
  match findCtl f l tile ct with
  | some c => if c.haltAt.isSome && (openCmds f c).isEmpty then updCtl l tile ct (fun x => { x with stopped := true }) f else f
  | none => f

/-- One outstanding command has completed (R181). -/
def endCmd (x : Cmd) (f : Fabric) : Fabric :=
  let f := { f with cmds := f.cmds.filter fun y => y.id != x.id }
  match findCtl f x.line x.tile x.ct with
  | some c => settleHalt x.line x.tile x.ct (rearm c x.pos f)
  | none => f

/-- Copy entries of a tile that were in progress when a command issued: their writes belong to the earlier commands (R148). -/
def earlierCopies (f : Fabric) (l tile id : Nat) : Bool :=
  f.copies.any fun c => c.line == l && c.tile == tile && c.busy && decide (c.id < id)

/-- An entry whose token stood on an armed queue when a BAR issued has not completed: it is a copy of an earlier command (R148, R268).
One whose queue has been unarmed is not fired (R282). -/
def placedCopies (f : Fabric) (b : Cmd) : Bool :=
  b.placed.any fun x => match findHq f b.line b.tile x.1 with
    | some h => (h.tmpl.isSome || h.arming.isSome) && decide (h.entries < x.2)
    | none => false

/-- The BARs of a tile whose earlier commands have all completed, the writes of their copies with them, complete, in order of
issue (R148, R181, R268); the later commands come after the accesses of the earlier ones. -/
def settleBars (l tile : Nat) (f : Fabric) : Fabric :=
  (f.cmds.filter fun x => x.line == l && x.tile == tile && x.kind == 3).foldl (fun f b =>
    if (f.cmds.any fun y => y.line == l && y.tile == tile && y.id < b.id) || earlierCopies f l tile b.id || placedCopies f b then f
    else updTile l tile (fun t => { t with barKnow := union t.cmdAccs t.barKnow }) (endCmd b f)) f

/-- COMPLETE A COMMAND (R181). -/
def completeCmd (id : Nat) (f : Fabric) : Fabric :=
  match f.cmds.find? fun x => x.id == id with
  | some x => settleBars x.line x.tile (endCmd x f)
  | none => f

/-- The WAITNs of a node whose count has come complete (R168, R365); their controllers acquire (R149). -/
def settleWaits (l tile n : Nat) (f : Fabric) : Fabric :=
  match findCnt f l tile n with
  | some k =>
    (f.cmds.filter fun x => x.line == l && x.tile == tile && x.kind == 4 && x.arg == n).foldl (fun f x =>
      if (k.tot + 4294967296 - x.val % 4294967296) % 4294967296 < 2147483648 then
        completeCmd x.id (updCtl l tile x.ct (fun c => { c with know := union k.rel c.know }) f)
      else f) f
  | none => f

/-- A miss of the address's page is at its walker, whose answer a translation of the page waits for (R201). -/
def walkOut (f : Fabric) (l tile va : Nat) : Bool :=
  (lookup f l tile va .read).1 == .miss && f.accs.any (sharesWalk f l tile va)

/-- The 32 bytes of a launch-argument slot, read through the line's translation (R187, R269), no more than one walk of a page out. -/
def readArg (m : Memory) (f : Fabric) (l tile j : Nat) : Option (Lanes × Fabric) :=
  match findLine f l with
  | some x =>
    if walkOut f l tile (x.args + 32 * j) then none else
    match xlateNow m f l tile (x.args + 32 * j) .read with
    | (.place p, f) =>
      let (r, f) := readPhys m x.vf p.cls p.phys 32 (newAccess f)
      let f := charge x.vf r.cost { Rec.ofLine f l 7 with bolt := tile / 16, tile := tile % 16 } f
      some (Lanes.ofFn (fun i => BitVec.ofNat 32 (ofBytes ((r.bytes.drop (4 * i)).take 4))), f)
    | _ => none
  | none => none

/-- A LOOP's count runs at a position (R322). -/
def loopRuns (c : Ctl) (pos : Nat) : Bool := c.loops.any fun y => y.1 == pos

/-- The argument slot of the LOOP at a position, if one with a count in a slot stands there (R322). -/
def loopSlot (c : Ctl) (pos : Nat) : Option Nat :=
  match c.table[pos]? with
  | some w => (match decodeCmd w.toNat with | .ok (.loopArg _ _ j) => some j | _ => none)
  | none => none

/-- THE LOOP IS REACHED: with no count running it loads its count from its argument slot as the slot stands now (R322). DEDUCED where
the slot cannot be read yet, as while its page's translation is out at the walker, the LOOP loads its count as it issues (log 69). -/
def loadLoop (m : Memory) (l tile ct : Nat) (f : Fabric) : Fabric :=
  match findCtl f l tile ct with
  | some c =>
    if c.mode == 2 || pastHaltc c || loopRuns c c.pos then f
    else
      match (loopSlot c c.pos).bind fun j => readArg m f l tile j with
      | some (v, f) => updCtl l tile ct (fun x => { x with loops := (c.pos, v.l0.toNat % 65536) :: x.loops }) f
      | none => f
  | none => f

/-- ISSUE A COMMAND (R180): it issues when its condition, mode and scoreboard let it, else it waits. `eff` is given the
command's number and answers the fabric, whether the command is complete at issue, and the next position. Where no controller
issues, nothing happens. -/
def issueCmd (cd : Cond) (may : Memory → Fabric → Ctl → Bool) (eff : Memory → Nat → Nat → Ctl → Fabric → Fabric × Bool × Nat)
    (s : State) : Host.Outcome State Fault Refusal :=
  match s.fab.cur with
  | .ctl l tile ct pos =>
    match findCtl s.fab l tile ct with
    | some c =>
      if mayIssue s.fab c pos cd && may s.mem s.fab c then
        let (id, f) := fresh s.fab
        let f := takeCond c cd f
        let c := (findCtl f l tile ct).getD c
        let (f, now, next) := eff s.mem id pos c f
        let f := loadLoop s.mem l tile ct (advance c pos next cd f)
        .next (State.commit s.mem (settleHalt l tile ct (settleBars l tile (if now then rearm c pos f else f))))
      else .next s
    | none => .next s
  | _ => .next s

/-- A command that reads an argument slot waits until the slot can be read. -/
def argReady (j : Nat) (m : Memory) (f : Fabric) (c : Ctl) : Bool := (readArg m f c.line c.tile j).isSome

/-- The slot's lanes, and the fabric after the read. -/
def argOf (m : Memory) (c : Ctl) (j : Nat) (f : Fabric) : Lanes × Fabric := (readArg m f c.line c.tile j).getD (Lanes.zero, f)

/-- The 64-bit address in bytes 0 to 7 of a slot. -/
def argAddr (v : Lanes) : Nat := v.l0.toNat + 4294967296 * v.l1.toNat

def always (_ : Memory) (_ : Fabric) (_ : Ctl) : Bool := true

/-- An access of a tile's commands, with what it comes after (R141, R148). -/
def cmdAccess (l tile id : Nat) (know : List Nat) (f : Fabric) : Fabric :=
  updTile l tile (fun t => { t with cmdAccs := addNew id (union know t.cmdAccs) }) f

/-! ## Patterns -/

/-- BIND waits until the pattern bound earlier to the port, or running on the generator, has ended (R182, R273). -/
def bindMay (g p : Nat) (_ : Memory) (f : Fabric) (c : Ctl) : Bool :=
  (match findGen f c.line c.tile g with | some x => !x.running | none => false)
    && f.gens.all fun x => x.line != c.line || x.tile != c.tile || x.port != p || x.pat.isNone || x.ended

def execBind (cd : Cond) (g p r : Nat) (s : State) : Host.Outcome State Fault Refusal :=
  issueCmd cd (bindMay g p) (fun _ _ pos c f =>
    (updGen c.line c.tile g (fun x => { x with
      pat := (match c.pats[r]? with | some q => some q | none => x.pat), port := p, ended := false, visit := 0, lanes := [] }) f,
     true, pos + 1)) s

def execGo (cd : Cond) (g : Nat) (s : State) : Host.Outcome State Fault Refusal :=
  issueCmd cd (fun _ f c => match findGen f c.line c.tile g with | some x => x.pat.isSome && !x.running | none => false)
    (fun _ id pos c f =>
      let f := updGen c.line c.tile g (fun x => { x with
        running := true, ended := false, visit := 0, lanes := [], id := id, know := ctlKnow f c }) f
      let f := cmdAccess c.line c.tile id (ctlKnow f c) f
      (openCmd c id pos 2 g 0 f, false, pos + 1)) s

/-! ## Flow -/

/-- The channel a reader end names. -/
def chanTo (f : Fabric) (l : Nat) (r : End) : Option Chan := f.chans.find? fun c => c.line == l && c.reader == r

/-- The tokens placed on a queue so far: those its entries have taken, and those that count as filled now (R347). -/
def placedNow (f : Fabric) (l tile q : Nat) : Nat :=
  ((findHq f l tile q).map fun h => h.started).getD 0 + ((chanTo f l (.queue tile q)).map fun c => (visible f c).length).getD 0

/-- The armed queues of a tile, with the tokens placed on each (R268). -/
def armedNow (f : Fabric) (l tile : Nat) : List (Nat × Nat) :=
  (f.hqs.filter fun h => h.line == l && h.tile == tile && (h.tmpl.isSome || h.arming.isSome)).map fun h => (h.num, placedNow f l tile h.num)

def execBar (cd : Cond) (s : State) : Host.Outcome State Fault Refusal :=
  issueCmd cd always (fun _ id pos c f => (openCmd c id pos 3 0 0 f (armedNow f c.line c.tile), false, pos + 1)) s

/-- WAITN's effect for a value (R365). -/
def waitFor (n v id pos : Nat) (c : Ctl) (f : Fabric) : Fabric × Bool × Nat :=
  (settleWaits c.line c.tile n (openCmd c id pos 4 n v f), false, pos + 1)

def execWaitn (cd : Cond) (n v : Nat) (s : State) : Host.Outcome State Fault Refusal :=
  issueCmd cd always (fun _ id pos c f => waitFor n v id pos c f) s
def execWaitnArg (cd : Cond) (n j : Nat) (s : State) : Host.Outcome State Fault Refusal :=
  issueCmd cd (argReady j) (fun m id pos c f => let (v, f) := argOf m c j f; waitFor n v.l0.toNat id pos c f) s

/-- The child's edge, if the child is in the image. -/
def child (f : Fabric) (c : Ctl) (n : Nat) : Option Ctl := findCtl f c.line c.tile n

def execEnab (cd : Cond) (n : Nat) (s : State) : Host.Outcome State Fault Refusal :=
  issueCmd cd (fun _ f c => match child f c n with | some x => decide (x.enabOut.length < x.enabWin) | none => false)
    (fun _ id pos c f =>
      let f := updCtl c.line c.tile n (fun x => { x with enabWait := x.enabWait + 1, enabOut := x.enabOut ++ [id] }) f
      if c.mode = 0 then (openCmd c id pos 5 n 0 f, false, pos + 1) else (f, true, pos + 1)) s

/-- SIGD (R179, R354). -/
def execSigd (cd : Cond) (s : State) : Host.Outcome State Fault Refusal :=
  issueCmd cd always (fun _ _ pos c f =>
    if c.doneWin ≤ c.sigs + 1 then
      let f := updCtl c.line c.tile c.num (fun x => { x with sigs := 0, doneWait := x.doneWait + 1, enabOut := x.enabOut.drop 1 }) f
      ((match c.enabOut.head? with | some k => completeCmd k f | none => f), true, pos + 1)
    else (updCtl c.line c.tile c.num (fun x => { x with sigs := x.sigs + 1 }) f, true, pos + 1)) s

def execCntw (cd : Cond) (n e d : Nat) (s : State) : Host.Outcome State Fault Refusal :=
  issueCmd cd (fun _ f c => match child f c n with | some x => x.enabOut.isEmpty | none => false)
    (fun _ _ pos c f => (updCtl c.line c.tile n (fun x => { x with enabWin := e, doneWin := d, sigs := 0 }) f, true, pos + 1)) s

/-- LOOP with a count to load when none runs (R322). -/
def loopBack (n count pos : Nat) (c : Ctl) (f : Fabric) : Fabric × Bool × Nat :=
  let k := ((c.loops.find? fun x => x.1 == pos).map Prod.snd).getD count
  let rest := fun (x : Ctl) => x.loops.filter fun y => y.1 != pos
  if k = 0 then (updCtl c.line c.tile c.num (fun x => { x with loops := rest x }) f, true, pos + 1)
  else (updCtl c.line c.tile c.num (fun x => { x with loops := (pos, k - 1) :: rest x }) f, true, pos - n)

def execLoop (cd : Cond) (n k : Nat) (s : State) : Host.Outcome State Fault Refusal :=
  issueCmd cd always (fun _ _ pos c f => loopBack n k pos c f) s
/-- The position of the command that issues. -/
def curPos (f : Fabric) : Nat := match f.cur with | .ctl _ _ _ pos => pos | _ => 0
def execLoopArg (cd : Cond) (n j : Nat) (s : State) : Host.Outcome State Fault Refusal :=
  issueCmd cd (fun m f c => loopRuns c (curPos f) || argReady j m f c) (fun m _ pos c f =>
    if loopRuns c pos then loopBack n 0 pos c f
    else let (v, f) := argOf m c j f; loopBack n (v.l0.toNat % 65536) pos c f) s

def execHaltc (cd : Cond) (s : State) : Host.Outcome State Fault Refusal :=
  issueCmd cd (fun _ _ c => c.mode != 2) (fun _ _ pos c f =>
    (updCtl c.line c.tile c.num (fun x =>
      if x.mode = 0 then { x with stopped := true } else { x with haltAt := some pos }) f, true, pos + 1)) s

/-! ## Queues -/

def execArm (cd : Cond) (q j : Nat) (s : State) : Host.Outcome State Fault Refusal :=
  issueCmd cd (fun m f c => argReady j m f c &&
      (match findHq f c.line c.tile q with | some x => x.tmpl.isNone && x.arming.isNone && x.disarm.isNone | none => false))
    (fun m id pos c f =>
      let (v, f) := argOf m c j f
      let f := updHq c.line c.tile q (fun x => { x with arming := some (argAddr v), armCmd := id, know := ctlKnow f c }) f
      let f := cmdAccess c.line c.tile id (ctlKnow f c) f
      (openCmd c id pos 9 q 0 f, false, pos + 1)) s

def execDisarm (cd : Cond) (q : Nat) (s : State) : Host.Outcome State Fault Refusal :=
  issueCmd cd (fun _ f c => match findHq f c.line c.tile q with | some x => x.arming.isNone && x.disarm.isNone | none => false)
    (fun _ id pos c f =>
      match (findHq f c.line c.tile q).bind fun x => x.tmpl with
      | some _ => (openCmd c id pos 10 q 0 (updHq c.line c.tile q (fun x => { x with
          disarm := some id, know := union (ctlKnow f c) x.know }) f), false, pos + 1)
      | none => (f, true, pos + 1)) s

def execQfen (cd : Cond) (m : Nat) (s : State) : Host.Outcome State Fault Refusal :=
  issueCmd cd always (fun _ _ pos c f =>
    let qs := (List.range 8).filter fun q => m / 2 ^ q % 2 == 1
    let rec_ := qs.map fun q => (q, placedNow f c.line c.tile q)
    let hit (h : HwQ) : Bool := h.line == c.line && h.tile == c.tile && qs.contains h.num
    let note (h : HwQ) : HwQ := { h with fens := (rec_, placedNow f c.line c.tile h.num) :: h.fens }
    ({ f with hqs := upd hit note f.hqs }, true, pos + 1)) s

/-! ## The beat, rounds, reconfiguration -/

/-- A BEAT or MARK is on its way to the line's source tile (R270, R328). -/
def post (c : Ctl) (id pos kind : Nat) (b : Option BeatCmd) (f : Fabric) : Fabric × Bool × Nat :=
  let at_ := f.cycle + (if c.tile = sourceTile f c.line then 1 else routeTo f c.line c.tile)
  (openCmd c id pos kind 0 0 (updLine c.line (fun l => { l with posted := l.posted ++ [⟨at_, c.tile, c.num, id, b⟩] }) f), false, pos + 1)

def execBeatPolicy (cd : Cond) (j : Nat) (s : State) : Host.Outcome State Fault Refusal :=
  issueCmd cd (argReady j) (fun m id pos c f => let (v, f) := argOf m c j f; post c id pos 12 (some (.policy v)) f) s
def execBeatFixed (cd : Cond) (l : Nat) (s : State) : Host.Outcome State Fault Refusal :=
  issueCmd cd always (fun _ id pos c f => post c id pos 12 (some (.fixed l)) f) s
def execBeatSet (cd : Cond) (l : Nat) (s : State) : Host.Outcome State Fault Refusal :=
  issueCmd cd always (fun _ id pos c f => post c id pos 12 (some (.set l)) f) s
def execMark (cd : Cond) (s : State) : Host.Outcome State Fault Refusal :=
  issueCmd cd always (fun _ id pos c f => post c id pos 13 none f) s

/-- A line's own mailbox ends do not stand against its new image (R183, R195). -/
def withoutMailboxes (f : Fabric) (l : Nat) : Fabric :=
  let own (e : End) : Bool := match e with | .elem x _ _ => x == l | .inbox x _ => x == l | _ => false
  { f with chans := f.chans.map fun c => { c with
      writer := if own c.writer then .boundary else c.writer, reader := if own c.reader then .boundary else c.reader } }

/-- Step 1 of R183 for the oldest queued RECFG: a refused image is recorded and completes it; a passed one closes the
line's source. Further refused ones are taken in turn. -/
def startRecfg (l : Nat) : Nat → Fabric → Fabric
  | 0, f => f
  | n + 1, f =>
    match findLine f l with
    | some x =>
      match x.closing, x.recfg with
      | false, (va, _, id) :: rest =>
        let fail := match findImage f x.vf x.pasid va with
          | some img => (firstFail (withoutMailboxes f l) img x.handler []).or (placementFail (withoutMailboxes f l) img)
          | none => some (Fail.image 1)
        (match fail with
        | some e => startRecfg l n (completeCmd id (updLine l (fun y => { y with recfg := rest }) (loadIllegal x.vf x.pasid (some l) e f)))
        | none => updLine l (fun y => { y with closing := true, state := if y.state = 2 then 4 else y.state }) f)
      | _, _ => f
    | none => f

def execRecfg (cd : Cond) (j : Nat) (s : State) : Host.Outcome State Fault Refusal :=
  issueCmd cd (argReady j) (fun m id pos c f =>
    let (v, f) := argOf m c j f
    let f := openCmd c id pos 14 0 0 (updLine c.line (fun l => { l with recfg := l.recfg ++ [(argAddr v, c.tile, id)] }) f)
    let n := ((findLine f c.line).map fun l => l.recfg.length).getD 0
    (startRecfg c.line n f, false, pos + 1)) s

def execRsz (cd : Cond) (x j : Nat) (s : State) : Host.Outcome State Fault Refusal :=
  issueCmd cd (argReady j) (fun m id pos c f =>
    let (v, f) := argOf m c j f
    let (rid, f) := fresh f
    ({ openCmd c id pos 15 x 0 f with resizes := f.resizes ++ [⟨rid, c.line, x, v.l0.toNat, id⟩] }, false, pos + 1)) s

end Sys2Proof.Machine
end

