-- ==== Sys2Proof/Machine/Voter.lean ====
section
/-!
DEFINITION. The records of a tile's engines, and the voter nodes (R177): the vote on one token, whether it comes by a channel or is
handed on at an edge by a copy of a voted station.
-/
namespace Sys2Proof.Machine

/-- A record of a tile's engine (R208). -/
def engineRec (f : Fabric) (l tile kind unit code detail addr : Nat) (what : Unit_) : Rec :=
  { Rec.ofLine f l code with
    resumable := true, halted := true, bolt := tile / 16, tile := tile % 16, kind := kind, unit := unit, addr := addr,
    detail := detail, what := what }

/-- The unit that a charge of an engine names (R131). -/
def engineCharge (f : Fabric) (l tile kind : Nat) : Rec := { engineRec f l tile 8 kind 7 0 0 .budget with halted := true }

/-! ## The vote -/

/-- Two tokens are equal for a voter (R177). -/
def sameToken (a b : Token) : Bool := a.payload == b.payload && a.tag == b.tag && a.poison == b.poison

/-- Log a disagreement: the count, VOT_LAST and a charge of 16 (R125, R177). -/
def voterLog (l v copy seq : Nat) (f : Fabric) : Fabric :=
  let tile := ((findVoter f l v).map fun x => x.tile).getD 0
  let f := updVoter l v (fun x => { x with
    dis0 := if copy = 0 then satN 10 (x.dis0 + 1) else x.dis0
    dis1 := if copy = 1 then satN 10 (x.dis1 + 1) else x.dis1
    dis2 := if copy = 2 then satN 10 (x.dis2 + 1) else x.dis2
    lastCopy := copy, lastSeq := seq }) f
  charge (vfOf l) 16 (engineCharge f l tile 10) f v

/-- The channel a voter forwards to; none for the voter of a hand-off. -/
def voterChan (f : Fabric) (l v : Nat) : Option Chan := f.chans.find? fun c => c.line == l && c.writer == .voterOut v

/-- Forward a token: to the voter's output channel, or for the edge to take. -/
def voterForward (l v : Nat) (t : Token) (f : Fabric) : Fabric :=
  match voterChan f l v with
  | some c => markMoved l (updChan c.line c.num (commitTok t f) f)
  | none => updVoter l v (fun z => { z with out := z.out ++ [t] }) f

/-- The voter can take a token: it holds those of up to 8 sequence numbers, those forwarded with a copy still to come among them
(R177). -/
def Voter.takes (x : Voter) (t : Token) : Bool :=
  let seqs := ((x.held ++ x.fwd).map fun y => y.2.seq).eraseDups
  seqs.contains t.seq || decide (seqs.length < 8)

/-- THE VOTE on one token of a copy (R177). -/
def voterTake (l v copy : Nat) (t : Token) (f : Fabric) : Fabric :=
  match findVoter f l v with
  | some x =>
    let held := x.held.filter fun y => y.2.seq == t.seq
    let rest := x.held.filter fun y => y.2.seq != t.seq
    match x.fwd.find? fun y => y.2.seq == t.seq with
    | some y =>
      let f := updVoter l v (fun z => { z with fwd := z.fwd.filter fun w => w.2.seq != t.seq }) f
      if sameToken y.2 t then f else voterLog l v copy t.seq f
    | none =>
      match held.find? fun y => y.1 != copy && sameToken y.2 t with
      | some y =>
        let f := updVoter l v (fun z => { z with
          held := rest, fwd := if held.length = 1 then (copy, y.2) :: z.fwd else z.fwd }) f
        let f := voterForward l v y.2 f
        (held.filter fun z => !sameToken z.2 t).foldl (fun f z => voterLog l v z.1 t.seq f) f
      | none =>
        if held.length = 2 then
          let first := ((held.find? fun y => y.1 == 0).map Prod.snd).getD t
          let f := updVoter l v (fun z => { z with held := rest }) f
          let f := voterForward l v { first with poison := true } f
          voterLog l v 2 t.seq (voterLog l v 1 t.seq (voterLog l v 0 t.seq f))
        else updVoter l v (fun z => { z with held := z.held ++ [(copy, t)] }) f
  | none => f

/-! ## Voted stations (R177)

A station declared with `.vote` stands in the image as three stations in a row, copies 0 to 2, that name their voter. R177 says that
it is placed three times and that the outputs meet at a voter of the consumer's tile. DESIGN CHOICE (log 82): the item an edge hands
to the station goes to its three copies, the voter takes what they hand on at that edge, and the next station takes one forwarded
token at an edge; what the voter cannot take yet, or the next station has not taken, waits in order. -/

/-- The copy of a voted station that a station is; 0 for one that is not voted. -/
def Station.copy (s : Station) : Nat := (s.vote.map Prod.snd).getD 0

/-- The station's place in the order in which items pass: copies share one. -/
def stageOf (sts : List Station) (n : Nat) : Nat := (sts.filter fun s => s.num ≤ n && s.copy == 0).length - 1

/-- The stations that hand on to a station: the one before it, or the copies of one (R24, R177). -/
def stationsBefore (f : Fabric) (s : Station) : List Station :=
  if s.num ≤ s.copy then []
  else match findStation f s.line (s.num - s.copy - 1) with
    | some p => f.stations.filter fun x => x.line == s.line && decide (p.num - p.copy ≤ x.num ∧ x.num ≤ p.num)
    | none => []

/-- Take what waits at the voter of a hand-off, in each copy's order. -/
def voterServe (l v : Nat) : Nat → Fabric → Fabric
  | 0, f => f
  | n + 1, f =>
    match findVoter f l v with
    | some x =>
      match x.wait.find? fun y => (x.wait.find? fun z => z.1 == y.1) == some y && x.takes y.2 with
      | some y => voterServe l v n (voterTake l v y.1 y.2 (updVoter l v (fun z => { z with wait := z.wait.erase y }) f))
      | none => f
    | none => f

/-- The token the voter of a hand-off gives the next station at an edge. -/
def voterOutput (l v : Nat) (f : Fabric) : Option Token × Fabric :=
  let f := voterServe l v (((findVoter f l v).map fun x => x.wait.length).getD 0) f
  (((findVoter f l v).map fun x => x.out).getD [] |>.head?, updVoter l v (fun z => { z with out := z.out.drop 1 }) f)

/-- What the stations hand on at an edge, one token or bubble for each place in the order: a voted station's by its voter, once its
three copies have brought theirs (R177). -/
def stageOutputs (l : Nat) : List (Station × Option Token) → Fabric → List (Option Token) × Fabric
  | [], f => ([], f)
  | (s, o) :: r, f =>
    match s.vote with
    | none => let (os, f) := stageOutputs l r f; (o :: os, f)
    | some (v, k) =>
      let f := match o with
        | some t => updVoter l v (fun z => { z with wait := z.wait ++ [(k, t)] }) f
        | none => f
      if k < 2 then stageOutputs l r f
      else
        let (o, f) := voterOutput l v f
        let (os, f) := stageOutputs l r f
        (o :: os, f)

end Sys2Proof.Machine
end

