-- ==== Sys2Proof/Machine/Line.lean ====
section
/-!
DEFINITION. The beat: the edge procedure and its parts (R15 to R38, R212 to R214, R244, R250 to R252, R270, R328, R368 to
R371), LINE_STALL, REWORK_RESUME, EOS_COMMIT and TRACE_WALK.
-/
namespace Sys2Proof.Machine

/-! ## Stations -/

/-- The stations of a line, the source first. -/
def stationsOf (f : Fabric) (l : Nat) : List Station :=
  sortBy (fun x y => decide (x.num ≤ y.num)) (f.stations.filter fun s => s.line == l)

/-- The item is complete (R17). -/
def Item.complete (it : Item) : Bool := it.done.isSome

/-- The current item exists and is not complete. -/
def unfinished (st : Station) : Bool := match st.item with | some it => !it.complete | none => false

/-- A station overflows: its item is not complete and no loop slot is free or finished (R24). -/
def overflows (st : Station) : Bool := unfinished st && st.loop.all fun x => x.state != 0 && x.state != 2

/-- The index of the oldest loop slot in a state (R371). -/
def oldest (state : Nat) (st : Station) : Option Nat :=
  (st.loop.zipIdx.foldl (fun (b : Option (Nat × Nat)) x =>
    if x.1.state ≠ state then b
    else match b with
      | none => some (x.1.age, x.2)
      | some y => if x.1.age < y.1 then some (x.1.age, x.2) else b) none).map Prod.snd

/-- A free loop slot. -/
def freeSlot (st : Station) : Option Nat := (st.loop.zipIdx.find? fun x => x.1.state == 0).map Prod.snd

/-- Change one loop slot. -/
def setSlot (i : Nat) (g : LoopSlot → LoopSlot) (st : Station) : Station :=
  { st with loop := st.loop.zipIdx.map fun x => if x.2 = i then g x.1 else x.1 }

/-- The carry set as it stands in the station's elements (R22). -/
def carryOf (f : Fabric) (st : Station) : List Reg :=
  st.carry.map fun c => match findElem f st.line c.1 with | some e => e.entry c.2 | none => Reg.zero

/-- Both ends of a channel lie inside the station: in its elements, or, for the writer, in the MX it includes (R16, R20). -/
def internalTo (st : Station) (c : Chan) : Bool :=
  match c.writer, c.reader with
  | .elem l a _, .elem k b _ => l == st.line && k == st.line && st.elems.contains a && st.elems.contains b
  | .chain t, .elem k b _ => st.mx && t == st.tile && c.line == st.line && k == st.line && st.elems.contains b
  | _, _ => false

/-- OVERRUN_DISCARD (R20, R250): tokens, staged slots and partial packs of the station's own channels are discarded; loads
awaited for such slots deliver nowhere, and stay awaited until they return (log 30). -/
def discardInternal (st : Station) (f : Fabric) : Fabric :=
  let wipe (c : Chan) : Chan :=
    if internalTo st c then { c with q := [], raw := [], part := [], staged := [], pend := none, nodePend := none } else c
  let lost (e : Elem) (a : Await) : Await :=
    match a.d with
    | .c h => (match handleChan f e h with | some c => if internalTo st c then { a with drop := true } else a | none => a)
    | _ => a
  let unwait (e : Elem) : Elem :=
    if e.line == st.line && st.elems.contains e.thread then { e with awaits := e.awaits.map (lost e) } else e
  { f with chans := f.chans.map wipe, elems := f.elems.map unwait }

/-- Predicates take their start values (R20). -/
def resetPreds (l : Nat) (ths : List Nat) (f : Fabric) : Fabric :=
  { f with elems := f.elems.map fun e => if e.line == l && ths.contains e.thread then { e with preds := e.start } else e }

/-- RESPILL (R24): the resumed item returns to its slot, waiting, with its carry set and its age. -/
def respill (st : Station) (f : Fabric) : Fabric :=
  match st.resumed with
  | some (i, it) =>
    let carry := carryOf f st
    let f := updStation st.line st.num (fun s => { setSlot i (fun x =>
      { x with state := 1, tok := it.desc, spilled := satN 16 (x.spilled + 1), carry := carry }) s with resumed := none, restore := 0 }) f
    discardInternal st f
  | none => f

/-- The element of a station whose handle is its outbox, and the handle. -/
def outboxWriter (f : Fabric) (st : Station) : Option (Nat × Nat) :=
  ((f.elems.filter fun e => e.line == st.line && e.station == st.num).flatMap fun e =>
    ((List.range 8).filter fun h => vget e.h h == .outbox).map fun h => (e.thread, h)).head?

/-- What the commits of a station's outbox writer release at an edge (R143). -/
def outboxRel (f : Fabric) (st : Station) : List Nat :=
  (f.elems.filter fun e => e.line == st.line && e.station == st.num && (List.range 8).any fun h => vget e.h h == .outbox).foldl
    (fun k e => union (relOf e) k) []

/-- A hand-off is a release at the edge, also of an unchanged descriptor (R143). -/
def released (f : Fabric) (st : Station) (t : Token) : Token := { t with rel := union (outboxRel f st) t.rel }

/-- What an item hands on: the outbox's token, else its descriptor (R16, R284), carrying the number the item keeps for its
whole life (R15), also where the outbox was given a token forwarded with another number (log 64). -/
def handedOn (it : Item) : Token := { it.out.getD it.desc with seq := it.seq }

/-- SPILL (R24): the item goes to a free slot, waiting, its marks cleared (R283). -/
def spill (st : Station) (it : Item) (f : Fabric) : Fabric :=
  match freeSlot st with
  | some i =>
    let carry := carryOf f st
    let f := updStation st.line st.num (fun s => { setSlot i (fun _ =>
      { state := 1, tok := it.desc, spilled := 1, carry := carry, age := s.ageCtr }) s with ageCtr := s.ageCtr + 1 }) f
    discardInternal st f
  | none => f

/-- One station's part of the edge: its output, and whether it overran (R24). An item completed in the stretch has overrun
too (R19), so its station's own channels are discarded (R20). -/
def stationEdge (n : Nat) (l : Nat) (f : Fabric) : Option Token × Bool × Fabric :=
  match findStation f l n with
  | some st0 =>
    let f := respill st0 f
    match findStation f l n with
    | some st =>
      let done := match st.item with | some it => it.complete | none => false
      match st.item with
      | some it =>
        if done then (some (released f st (handedOn it)), it.late, if it.late then discardInternal st f else f)
        else
          let (out, f) := match oldest 2 st with
            | some i => ((st.loop[i]?).map fun x => released f st x.tok, updStation l n (setSlot i fun x => { x with state := 0 }) f)
            | none => (none, f)
          let st := (findStation f l n).getD st
          (out, true, spill st it f)
      | none =>
        match oldest 2 st with
        | some i => ((st.loop[i]?).map fun x => released f st x.tok, false, updStation l n (setSlot i fun x => { x with state := 0 }) f)
        | none => (none, false, f)
    | none => (none, false, f)
  | none => (none, false, f)

/-- The tile of an edge port of a logical bolt (R4). -/
def portTile (p : Nat) : Nat :=
  let k := p % 4
  p / 16 * 16 + (match p / 4 % 4 with | 0 => k | 1 => 4 * k + 3 | 2 => 12 + k | _ => 4 * k)

/-- A boundary guard drops a token at an edge port of a line's bolt (R226, R227): counter event 14 at the port's tile (R241),
and a record when the port has none or its last was written for a drop 1,024 cycles before. `tile` is the sending tile. -/
def guardDropped (l p tile loopv : Nat) (t : Token) (f : Fabric) : Fabric :=
  let key := boltOf f l (p / 16) * 16 + p % 16
  let old := f.module_.drops.find? fun d => d.1 == key
  let n := (old.map fun d => d.2.1).getD 0 + 1
  let f := countEvent l (portTile p) 14 f
  let f := { f with module_ := { f.module_ with
    drops := (key, n, old.bind fun d => d.2.2) :: f.module_.drops.filter fun d => d.1 != key } }
  let writes := (match old.bind fun d => d.2.2 with | some c => decide (c + 1024 ≤ f.cycle) | none => true)
    && !(f.newRecs.any fun r => match r.what with | .guard k _ _ => k == key | _ => false)
  if writes then
    takeFault { Rec.ofLine f l 14 with
      bolt := tile / 16, tile := tile % 16, kind := 7, seq := t.seq, node := t.node, loopv := loopv,
      detail := p % 16 + 256 * satN 24 n, what := .guard key f.cycle n } false f
  else f

/-- A station's output passes its hand-off route, or ends at a guarded port, where it is dropped at the edge (R226, R255). -/
def routeOutput (l n : Nat) (o : Option Token) (f : Fabric) : Option Token × Fabric :=
  match o, findStation f l n with
  | some t, some st =>
    (match firstGuard f l st.ports with
    | some p =>
      (none, guardDropped l p st.tile (((outboxWriter f st).map fun w => nodeLoop f l w.1 t.node).getD 0) t f)
    | none => (o, f))
  | _, _ => (o, f)

/-- Every station's output, in order; the last station's goes to the sink. R34 and R177 do not say what the copies of a voted station
count: DESIGN CHOICE each that overruns, or whose outbox overflows, counts by itself (log 82). -/
def edgeOutputs (l : Nat) : List Nat → Fabric → List (Option Token) × Nat × Fabric
  | [], f => ([], 0, f)
  | n :: r, f =>
    let (o, late, f) := stationEdge n l f
    let f := if late then (match findStation f l n with | some st => countEvent l st.tile 5 f | none => f) else f
    let (o, f) := routeOutput l n o f
    let (os, k, f) := edgeOutputs l r f
    (o :: os, k + b2n late, f)

/-! ## The sink -/

/-- SAMPLE_START (R237). -/
def startSample (l : Nat) (t : Token) (f : Fabric) : Fabric :=
  let p := getPart f (vfOf l)
  if p.trcPeriod = 0 ∨ p.trcLog = 0 ∨ t.seq % p.trcPeriod ≠ 0 then f
  else match findLine f l with
    | some x =>
      if x.walk.isSome then updPart (vfOf l) (fun p => { p with trcLost := satN 16 (p.trcLost + 1) }) f
      else match (findStation f l x.sinkStation).bind (outboxWriter f) with
        | some (th, h) => updLine l (fun x => { x with walk := some ⟨t.seq, x.beatIx, th, h⟩ }) f
        | none => f
    | none => f

/-- EMIT a result at the sink (R30, R127): a Muslin line counts a poisoned one; the kept descriptor goes (R212). -/
def emitResult (l : Nat) (t : Token) (f : Fabric) : Fabric :=
  let f := updLine l (fun x => { x with
    emitted := x.emitted + 1, emitq := x.emitq ++ [t], kept := x.kept.filter fun k => k.1.seq != t.seq }) f
  let f := if t.poison && ((findLine f l).map fun x => x.cls) == some 0 then countMuslin (vfOf l) 1 f else f
  startSample l t f

/-- Emit held results in order from NEXT (R30). -/
def drainHeld (l : Nat) : Nat → Fabric → Fabric
  | 0, f => f
  | n + 1, f =>
    match findLine f l with
    | some x =>
      match x.held.find? fun t => t.seq == x.next with
      | some t =>
        drainHeld l n (emitResult l t (updLine l (fun y => { y with
          held := y.held.filter fun u => u.seq != t.seq, next := (y.next + 1) % 65536 }) f))
      | none => f
    | none => f

/-- Take one good result: emit it, or hold it in an ordered line (R30). -/
def takeResult (l : Nat) (t : Token) (f : Fabric) : Fabric :=
  match findLine f l with
  | some x => if x.unordered then emitResult l t f else updLine l (fun y => { y with held := y.held ++ [t] }) f
  | none => f

/-- Stop a line at once: the edge that would follow does not come (R37, R122, R213). -/
def stopNow (r : Rec) (f : Fabric) : Fabric := updLine r.line (fun x => { x with stop := some r.code, state := 5 }) (takeFault r false f)

/-- A poisoned result of a Damask or Twill line (R127, R212, R213): re-injected, or MEM_UNCORR after three. -/
def poisonedResult (l : Nat) (t : Token) (f : Fabric) : Fabric :=
  match findLine f l with
  | some x =>
    let n := ((x.kept.find? fun k => k.1.seq == t.seq).map Prod.snd).getD 0
    if n < 3 then
      updLine l (fun y => { y with
        reinject := y.reinject ++ [t.seq], kept := y.kept.map fun k => if k.1.seq = t.seq then (k.1, n + 1) else k }) f
    else
      let st := findStation f l x.sinkStation
      stopNow { Rec.ofLine f l 6 with
        resumable := true, halted := true, kind := 4, bolt := ((st.map fun s => s.tile).getD 0) / 16,
        tile := ((st.map fun s => s.tile).getD 0) % 16, seq := t.seq, node := t.node, detail := n, what := .sink t.seq }
        (updLine l (fun y => { y with bad := t :: y.bad }) f)
  | none => f

/-- SINK_END_OF_STREAM (R31). -/
def sinkEos (l : Nat) (f : Fabric) : Fabric :=
  match findLine f l with
  | some x =>
    match x.eosTok with
    | some t => if !x.eosDone && x.emitted == x.admitted then updLine l (fun y => { y with eosDone := true, emitq := y.emitq ++ [t] }) f else f
    | none => f
  | none => f

/-- SINK_STEP (R30). -/
def sinkStep (l : Nat) (out : Option Token) (f : Fabric) : Fabric :=
  let f := match out with
    | some t => if t.poison && ((findLine f l).map fun x => x.cls) != some 0 then poisonedResult l t f else takeResult l t f
    | none => f
  drainHeld l (((findLine f l).map fun x => x.held.length).getD 0) f

/-! ## Admission -/

/-- W of R29, for a resident line. A voted station's loops hold the same items: it counts once (log 82). -/
def lineW (f : Fabric) (l : Nat) : Nat := 1 + ((f.stations.filter fun s => s.line == l && s.copy == 0).map fun s => s.loop.length).foldl (· + ·) 0

/-- The token at the head of the line's input, if it is visible (R369). -/
def inputHead (f : Fabric) (x : Line) : Option Token :=
  (x.srcChan.bind fun c => findChan f c.1 c.2).bind fun c => (visible f c).head?

/-- Pop the line's input. -/
def popInput (x : Line) (f : Fabric) : Fabric :=
  match x.srcChan with
  | some (a, b) => markMoved x.id (updChan a b (popChan 1 f) f)
  | none => f

/-- Record the end of the input, when it is at the head (R31): the line drains (R185). A source that RECFG has closed takes
nothing more from its input (R183). -/
def noteEnd (l : Nat) (f : Fabric) : Fabric :=
  match findLine f l with
  | some x =>
    match inputHead f x with
    | some t =>
      if x.eosTok.isNone && !x.closing && isEos t.tag then
        updLine l (fun y => { y with eosTok := some t, state := if y.state = 2 then 4 else y.state }) (popInput x f)
      else f
    | none => f
  | none => f

/-- SOURCE_ADMISSION (R28, R29, R212): what enters at the edge that opens beat `index`. `reinj` are the re-inject requests
made before this edge; at pre-emption markers nothing enters (R252). -/
def admission (l index : Nat) (reinj : List Nat) (markers : Bool) (f : Fabric) : Option Token × Fabric :=
  if markers then (none, f)
  else
    let f := noteEnd l f
    match findLine f l with
    | some x =>
      match reinj with
      | s :: _ =>
        ((x.kept.find? fun k => k.1.seq == s).map Prod.fst, updLine l (fun y => { y with reinject := y.reinject.erase s }) f)
      | [] =>
        if x.eosTok.isSome || x.closing then (none, f)
        else if 2 ≤ x.gap ∧ (index + 1) % x.gap = 0 then (none, f)
        else if (if x.unordered then x.cls != 0 && decide (lineW f l + 1 ≤ x.kept.length)
                 else decide (lineW f l < (x.nextSeq + 65536 - x.next) % 65536)) then (none, f)
        else match inputHead f x with
          | some t =>
            let d := { t with seq := x.nextSeq }
            (some d, updLine l (fun y => { y with
              nextSeq := (y.nextSeq + 1) % 65536, lastSeq := some y.nextSeq, admitted := y.admitted + 1,
              kept := if y.cls = 0 then y.kept else y.kept ++ [(d, 0)] }) (popInput x f))
          | none => (none, f)
    | none => (none, f)

/-- Put a token or a bubble in a station's inbox. -/
def deliverItem (l n : Nat) (t : Option Token) (f : Fabric) : Fabric :=
  updStation l n (fun s => { s with
    item := t.map fun t => ⟨t.seq, t, none, [], none, false⟩, itemAt := f.cycle + 1 }) f

/-! ## The bellows -/

/-- The values R33 gives for values out of range. -/
def Bellows.clamp (b : Bellows) : Bellows :=
  let mn := Nat.max b.min 4
  let lo := if b.low = 65535 then 65534 else b.low
  { b with min := mn, max := Nat.max b.max (Nat.max mn b.floor), window := Nat.max b.window 1, low := lo, high := Nat.max b.high (lo + 1),
           stall := Nat.max b.stall 1 }

/-- Restart the decision window (R34). -/
def Bellows.restart (b : Bellows) : Bellows := { b with wovr := 0, wbeats := 0, wstr := false }

/-- Count overruns, overflows and stretch cycles (R34). -/
def Bellows.count (ovr ovf str : Nat) (b : Bellows) : Bellows :=
  { b with ovr := satN 32 (b.ovr + ovr), ovf := satN 32 (b.ovf + ovf), str := satN 32 (b.str + str) }

/-- The decision of R34. -/
def Bellows.judge (ovr ovf str : Nat) (b : Bellows) : Bellows :=
  if b.fixed then b
  else
    let b := { b with wovr := satN 16 (b.wovr + ovr), wbeats := b.wbeats + 1, wstr := b.wstr || str != 0 }
    if ovf ≠ 0 ∧ b.ovfRaise = true then Bellows.restart { b with beat := Nat.min b.max (b.beat + b.up) }
    else if b.wbeats = b.window then
      Bellows.restart
        (if b.high ≤ b.wovr then { b with beat := Nat.min b.max (b.beat + b.up) }
         else if b.wovr ≤ b.low ∧ b.wstr = false then { b with beat := Nat.max (Nat.max b.min b.floor) (b.beat - b.down) }
         else b)
    else b

/-- BEAT_COMMAND_APPLY (R269, R270). -/
def Bellows.apply (c : BeatCmd) (b : Bellows) : Bellows :=
  let b := match c with
    | .policy v =>
      let lo (w : Word) := w.toNat % 65536
      let hi (w : Word) := w.toNat / 65536
      let b := Bellows.clamp { b with
        fixed := false, beat := lo v.l0, ovfRaise := v.l0.toNat / 65536 % 2 == 1, min := lo v.l1, max := hi v.l1,
        up := lo v.l2, down := hi v.l2, window := v.l3.toNat % 32768, low := lo v.l4, high := hi v.l4, stall := v.l5.toNat }
      { b with beat := Nat.min b.max (Nat.max (Nat.max b.min b.floor) b.beat) }
    | .fixed l => { b with fixed := true, beat := Nat.min 65535 (Nat.max b.floor l) }
    | .set l =>
      { b with beat := if b.fixed then Nat.max b.floor l else Nat.min b.max (Nat.max (Nat.max b.min b.floor) l) }
  if b.fixed then b else b.restart

/-- BELLOWS_DECISION (R34, R270). -/
def bellowsEdge (pend : Option BeatCmd) (ovr ovf str : Nat) (b : Bellows) : Bellows :=
  let b := { Bellows.count ovr ovf str b with stretched := false }
  match pend with
  | some c => b.apply c
  | none => b.judge ovr ovf str

/-! ## The edge -/

/-- The line's beat runs (R37, R51, R217). -/
def beatRuns (f : Fabric) (x : Line) : Bool :=
  (x.state == 2 || x.state == 4) && x.stop.isNone && x.stopSoon.isNone && x.endStatus.isNone && !x.noEdge
    && !(getPart f x.vf).ebudget

/-- A unit of the line is halted by a fault (R207, R217). -/
def hasHalted (f : Fabric) (l : Nat) : Bool :=
  f.accs.any (fun a => a.line == l && a.halted) || f.gens.any (fun g => g.line == l && g.halted)
    || f.copies.any (fun c => c.line == l && c.halted) || f.hqs.any (fun q => q.line == l && q.halted)
    || f.mx.any fun b => b.line == l && b.flight.any fun t => t.halted

/-- PLANE_SWAP_BEAT (R38, R122, R152): what was issued before the edge does not read what the swap writes; its writes are performed before
the edge (beatWork). -/
def beatSwap (l : Nat) (m : Memory) (f : Fabric) : Fabric :=
  let rs := f.regions.filter fun r => r.line == l && r.planes == 2
  if rs.isEmpty then f
  else
    let (id, f) := fresh f
    let know := (f.elems.filter fun e => e.line == l).foldl (fun k e => union e.know k) []
    let f := rs.foldl (fun f r =>
      match collision r 0 with
      | some (w, c) =>
        stopNow (planeRec f r w c (.planes none)) (updRegion l r.num (fun x => { x with swapping := true }) f)
      | none => swapStep m r.num l 0 id know f) f
    let f := lateFor id (fun a => a.line == l) f
    { f with elems := f.elems.map fun e => if e.line == l then { e with know := addNew id e.know } else e }

/-- MARKER_COMMIT (R214, R328): pre-emption markers serve every accepted MARK; else one MARK is served. -/
def commitMarkers (l : Nat) (pre : Bool) (f : Fabric) : Fabric :=
  match findLine f l with
  | some x =>
    if pre then
      x.marks.foldl (fun f id => completeCmd id f) (updLine l (fun y => { y with
        rounds := y.rounds ++ [(y.round, true)], round := y.round + 1, noEdge := true, marks := [] }) f)
    else
      match x.marks with
      | id :: r =>
        completeCmd id (updLine l (fun y => { y with
          rounds := y.rounds ++ [(y.round, false)], round := y.round + 1, marks := r }) f)
      | [] => f
  | none => f

/-- THE EDGE (R24, R28 to R38): for all stations at once, with the stretch that preceded it. -/
def edge (l : Nat) (m : Memory) (f : Fabric) : Fabric :=
  match findLine f l with
  | some x =>
    let pre := x.preempt && !hasHalted f l
    let sts := stationsOf f l
    let (given, ovr, f) := edgeOutputs l (sts.map fun s => s.num) f
    let (outs, f) := stageOutputs l (sts.zip given) f
    let f := sinkStep l (outs.getLast?.getD none) f
    let (src, f) := admission l (x.beatIx + 1) x.reinject pre f
    let f := sts.foldl (fun f s => deliverItem l s.num ((src :: outs).getD (stageOf sts s.num) none) f) f
    let f := resetPreds l ((f.elems.filter fun e => e.line == l).map fun e => e.thread) f
    let f := beatSwap l m f
    let f := updLine l (fun y => { y with
      bel := bellowsEdge y.pendBeat ovr x.overflowing.length x.stretch y.bel, pendBeat := none, beatIx := y.beatIx + 1,
      beats := y.beats + 1, cyc := 0, overflowing := [], stretch := 0, stallFrom := 0 }) f
    let f := if given.any Option.isSome || outs.any Option.isSome then markMoved l f else f
    commitMarkers l pre (sinkEos l f)
  | none => f

def beatEdgeDue (l : Nat) (_ : Memory) (f : Fabric) : Bool :=
  match findLine f l with
  | some x => beatRuns f x && x.begun && x.overflowing.isEmpty && decide (x.bel.beat ≤ x.cyc)
  | none => false

/-- BEAT_EDGE (R24): a station that overflows holds the edge (R27); else the edge comes. -/
def beatEdge (l : Nat) (m : Memory) (f : Fabric) : Fabric :=
  let crowded := ((stationsOf f l).filter overflows).map fun s => s.num
  if crowded.isEmpty then edge l m f
  else updLine l (fun x => { x with overflowing := crowded, stretch := 0, stallFrom := 0, bel := { x.bel with stretched := true } }) f

def execBeatEdge (l : Nat) (s : State) : Host.Outcome State Fault Refusal := runEvent (beatEdgeDue l) (beatEdge l) s

/-- An overflowing station's item is still unfinished. -/
def heldBack (f : Fabric) (x : Line) : List Nat :=
  x.overflowing.filter fun n => match findStation f x.id n with | some st => unfinished st | none => false

def stretchEdgeDue (l : Nat) (_ : Memory) (f : Fabric) : Bool :=
  match findLine f l with
  | some x => beatRuns f x && !x.overflowing.isEmpty && (heldBack f x).isEmpty
  | none => false

/-- STRETCH_EDGE (R27): the held edge is released. -/
def execStretchEdge (l : Nat) (s : State) : Host.Outcome State Fault Refusal := runEvent (stretchEdgeDue l) (edge l) s

def lineStallDue (l : Nat) (_ : Memory) (f : Fabric) : Bool :=
  match findLine f l with
  | some x => beatRuns f x && !(heldBack f x).isEmpty && decide (x.bel.stall ≤ x.stretch - x.stallFrom)
  | none => false

/-- LINE_STALL (R37): the record names the first overflowing station whose item is still unfinished. -/
def lineStall (l : Nat) (_ : Memory) (f : Fabric) : Fabric :=
  match findLine f l with
  | some x =>
    match ((heldBack f x).head?).bind fun n => findStation f l n with
    | some st =>
      let marks := (st.item.map fun it => it.marks).getD []
      let th := (sortBy (fun a b => decide (a ≤ b)) (st.doneSet.filter fun t => !marks.contains t)).head?.getD 0
      stopNow { Rec.ofLine f l 10 with
        resumable := true, halted := true, kind := 5, bolt := th / 256, tile := th / 16 % 16, elem := th % 16,
        seq := (st.item.map fun it => it.seq).getD 0xFFFF, what := .bellows } f
    | none => f
  | none => f

def execLineStall (l : Nat) (s : State) : Host.Outcome State Fault Refusal := runEvent (lineStallDue l) (lineStall l) s

def lineFirstEdgeDue (l : Nat) (_ : Memory) (f : Fabric) : Bool :=
  match findLine f l with
  | some x =>
    beatRuns f x && !x.begun && (f.ctls.all fun c => c.line != l || c.started) && (inputHead f x).isSome
  | none => false

/-- LINE_FIRST_EDGE (R368): the edge that opens beat 0; no gap beat, overrun or stretch is counted. DEDUCED it
is an edge as the others: planes bound to the beat swap at it (R38), and a BEAT accepted before it takes effect (R33; log 33). -/
def lineFirstEdge (l : Nat) (m : Memory) (f : Fabric) : Fabric :=
  match findLine f l with
  | some x =>
    let pre := x.preempt && !hasHalted f l
    let (src, f) := admission l x.beatIx [] pre f
    let f := ((stationsOf f l).filter fun s => stageOf (stationsOf f l) s.num == stageOf (stationsOf f l) x.source).foldl (fun f s => deliverItem l s.num src f) f
    let f := resetPreds l ((f.elems.filter fun e => e.line == l).map fun e => e.thread) f
    let f := beatSwap l m f
    let f := updLine l (fun y => { y with
      begun := true, cyc := 0, pendBeat := none, bel := (y.pendBeat.map fun c => y.bel.apply c).getD y.bel }) f
    commitMarkers l pre (sinkEos l f)
  | none => f

def execLineFirstEdge (l : Nat) (s : State) : Host.Outcome State Fault Refusal := runEvent (lineFirstEdgeDue l) (lineFirstEdge l) s

/-! ## Rework -/

/-- Slack (R25): no item is unfinished, no resumption runs, and an item waits. -/
def reworkResumeDue (l n : Nat) (_ : Memory) (f : Fabric) : Bool :=
  match findLine f l, findStation f l n with
  | some x, some st =>
    lineRuns f l && x.stopSoon.isNone && x.begun && st.resumed.isNone && !unfinished st && (oldest 1 st).isSome
      && (match findTile f l st.tile with | some t => !t.inRound && !t.saved | none => true)
  | _, _ => false

/-- REWORK_RESUME (R25): the oldest waiting item, its carry set written back, two cycles of restore. -/
def reworkResume (l n : Nat) (_ : Memory) (f : Fabric) : Fabric :=
  match findStation f l n with
  | some st =>
    match oldest 1 st with
    | some i =>
      match st.loop[i]? with
      | some sl =>
        let f := (st.carry.zip sl.carry).foldl (fun f c => updElem l c.1.1 (fun e => e.setEntry c.1.2 c.2) f) f
        let f := updStation l n (fun s => { setSlot i (fun x => { x with state := 3 }) s with
          resumed := some (i, ⟨sl.tok.seq, sl.tok, none, [], none, false⟩), restore := 2 }) f
        countEvent l st.tile 6 (resetPreds l st.elems f)
      | none => f
    | none => f
  | none => f

def execReworkResume (l n : Nat) (s : State) : Host.Outcome State Fault Refusal := runEvent (reworkResumeDue l n) (reworkResume l n) s

/-! ## End-of-stream marks and samples -/

def eosCommitDue (l th h : Nat) (_ : Memory) (f : Fabric) : Bool :=
  match findElem f l th with
  | some e => decide (4 ≤ h) && hasPend f e h && !e.eosNow.contains h && !tileSaved f l (tileOf th)
  | none => false

/-- EOS_COMMIT (R48): the writer's event, at an output handle. -/
def eosCommit (l th h : Nat) (_ : Memory) (f : Fabric) : Fabric :=
  match findElem f l th with
  | some e =>
    match vget e.h h with
    | .chan a n => markMoved l (updChan a n (fun c => if c.closed then { c with pend := none } else commitPend (relOf e) f c) f)
    | _ => f
  | none => f

def execEosCommit (l th h : Nat) (s : State) : Host.Outcome State Fault Refusal := runEvent (eosCommitDue l th h) (eosCommit l th h) s

/-- The hops of a critical-path walk, newest last, with how it ended: 2 source, 4 load, 8 limit, 0 otherwise (R237). A channel
leads to the element that wrote it, of whatever line, and an inbox to the station before, of a voted one to copy 2 (log 82). -/
def walkHops (f : Fabric) (l : Nat) : Nat → Nat → Nat → List Arrival × Nat
  | 0, _, _ => ([], 8)
  | n + 1, th, h =>
    match findElem f l th with
    | some e =>
      let a := vget e.arrivals h
      let go (x : Option (Nat × Nat × Nat)) : List Arrival × Nat := match x with
        | some (k, t, o) => let (r, z) := walkHops f k n t o; (a :: r, z)
        | none => ([a], 0)
      if a.code < 4 then go (match handleChan f e a.code with
        | some c => (match c.writer with | .elem k t o => some (k, t, o) | _ => none)
        | none => none)
      else if a.code = 4 then ([a], 4)
      else if a.code = 5 then
        (match (((findStation f l e.station).map (stationsBefore f)).getD []).getLast? with
        | none => ([a], 2)
        | some p => go ((outboxWriter f p).map fun w => (l, w)))
      else ([a], 0)
    | none => ([], 0)

/-- The physical address of byte `o` of an array of records at a physical base: DESIGN CHOICE in DRAM the array runs on, past its
first frame, into frames that follow in raw units as Damask frames do (log 90). -/
def recordPlace (base o : Nat) : Nat :=
  let n := base % 65536 + o
  (base / 65536 + n / 65536 * (if spaceOf base = 0 then unitsOf 2 else 1)) * 65536 + n % 65536

/-- Write a record of the device's own, of the fault queue, the trace ring or the digest array (R209, R238, R239), at byte `o` of its
array. A function writes no memory of another function (R225): host memory is its own, and DEDUCED a record for a frame that is not its
own, or for a malformed address, is not written (log 90). No rule gives the record a class: DESIGN CHOICE that in which its frame is laid out,
else Damask (log 68). -/
def deviceWrite (vf base o : Nat) (bs : List Byte) (f : Fabric) : Fabric :=
  let a := recordPlace base o
  let cls := ((f.layouts.find? fun x => x.1 == a / 65536 && x.2.2).map fun x => x.2.1).getD 2
  if frameForm 2 (a / 65536) && ownsFrame f vf (a / 65536) then writePhys vf cls (ownAddr vf a) bs false f else f

/-- One trace record of up to six hops (R237). -/
def traceRec (w : Walk) (hops : List Arrival) (more : Bool) (ended t0 : Nat) : List Byte :=
  leBytes 2 w.seq ++ leBytes 1 hops.length ++ leBytes 1 (if more then 1 else ended) ++ leBytes 4 w.beat
    ++ (List.range 6).flatMap (fun i => match hops[i]? with
        | some a => leBytes 2 a.node ++ leBytes 1 a.code ++ leBytes 1 0 ++ leBytes 4 (a.cycle - t0)
        | none => leBytes 8 0)
    ++ leBytes 8 0

/-- Write trace records to the partition's ring, six hops each (R238). -/
def writeTrace (vf : Nat) (w : Walk) (ended t0 : Nat) : Nat → List Arrival → Fabric → Fabric
  | 0, _, f => f
  | n + 1, hops, f =>
    if hops.isEmpty then f
    else
      let p := getPart f vf
      let more := decide (6 < hops.length)
      let f := deviceWrite vf p.trcBase (64 * (p.trcTail % 2 ^ p.trcLog)) (traceRec w (hops.take 6) more ended t0) f
      let f := updPart vf (fun q => { q with trcTail := (q.trcTail + 1) % 2 ^ p.trcLog }) f
      writeTrace vf w ended t0 n (hops.drop 6) f

def traceWalkDue (l : Nat) (_ : Memory) (f : Fabric) : Bool := match findLine f l with | some x => x.walk.isSome | none => false

/-- TRACE_WALK (R237, R238). -/
def traceWalk (l : Nat) (_ : Memory) (f : Fabric) : Fabric :=
  match findLine f l with
  | some x =>
    match x.walk with
    | some w =>
      let (hops, ended) := walkHops f l 32 w.th w.h
      let f := updLine l (fun y => { y with walk := none }) f
      if (getPart f x.vf).trcLog = 0 then f else writeTrace x.vf w ended x.placedAt 6 hops f
    | none => f
  | none => f

def execTraceWalk (l : Nat) (s : State) : Host.Outcome State Fault Refusal := runEvent (traceWalkDue l) (traceWalk l) s

end Sys2Proof.Machine
end

