-- ==== Sys2Proof/Machine/Engines.lean ====
section
/-!
DEFINITION. The engines of a tile: patterns (R159 to R161, R253), copy templates and hardware queues (R162 to R166, R169,
R264, R282, R347), count nodes (R167, R168), voters (R177), swage nodes (R104, R105, R374), remote rows (R228), boundary
guards (R226, R227) and counters (R240, R242).
-/
namespace Sys2Proof.Machine

/-! ## Accesses of engines -/

/-- An engine's access in pieces of one page each, of which an access may have several: virtual address and length. -/
def pieces (va n : Nat) : List (Nat × Nat) :=
  if n = 0 then [(va, 0)]
  else (List.range ((va % 65536 + n + 65535) / 65536)).map fun i =>
    let a := if i = 0 then va else (va / 65536 + i) * 65536
    (a, Nat.min (va + n) ((va / 65536 + i + 1) * 65536) - a)

/-- A piece with its place. -/
structure Part_ where
  va : Nat
  len : Nat
  place : Place
  deriving DecidableEq, Repr

/-- Translate the pieces of an access by `ask`: in the region area its last byte too must lie in a region (R376). -/
def engPlaces (ask : Nat → Fabric → Xlate × Fabric) (l : Nat) : List (Nat × Nat) → Fabric → Except (XFault × Nat) (List Part_) × Fabric
  | [], f => (.ok [], f)
  | (va, n) :: r, f =>
    match ask va f with
    | (.fault x, f) => (.error (x, va), f)
    | (.miss, f) => (.error ((3, 0x10), va), f)
    | (.place p, f) =>
      if regionArea ≤ va && n != 0 && (regionAt f l (va + n - 1)).isNone then (.error ((3, 0x70), va), f)
      else match engPlaces ask l r f with
        | (.ok ps, f) => (.ok (⟨va, n, p⟩ :: ps), f)
        | x => x

/-- Translate `n` bytes at an address that may be negative or too large (R164). -/
def engXlateBy (ask : Nat → Fabric → Xlate × Fabric) (l : Nat) (va : Int) (n : Nat) (f : Fabric) : Except (XFault × Nat) (List Part_) × Fabric :=
  if va < 0 then (.error ((3, 0x50), (va % (2 ^ 64 : Int)).toNat), f) else engPlaces ask l (pieces va.toNat n) f

/-- Translate an engine's access by the tile's cache, else a walk (R198). -/
def engXlate (m : Memory) (l tile : Nat) (mode : Mode) (va : Int) (n : Nat) (f : Fabric) : Except (XFault × Nat) (List Part_) × Fabric :=
  engXlateBy (fun va f => xlateNow m f l tile va mode) l va n f

/-- Translate a pattern's access: its generator keeps the leaf last used for the window (R200). -/
def patXlate (m : Memory) (l tile g : Nat) (p : Pattern) (mode : Mode) (off : Int) (f : Fabric) : Except (XFault × Nat) (List Part_) × Fabric :=
  engXlateBy (fun va f => genXlate (fun f => xlateNow m f l tile va mode) l tile g (p.who * 8 + p.winNum) va mode f) l (p.win.base + off) p.size f

/-- Read the bytes of translated pieces. -/
def engReadParts (m : Memory) (l : Nat) (know : List Nat) : List Part_ → Fabric → PhysRead × Fabric
  | [], f => (⟨[], false, 0⟩, f)
  | p :: r, f =>
    let (a, f) := readEngine m l p.place.cls p.place.phys p.len know f
    let (b, f) := engReadParts m l know r f
    (⟨a.bytes ++ b.bytes, a.poison || b.poison, a.cost + b.cost⟩, f)

/-- One read of an engine of line `l`. -/
def engRead (m : Memory) (l : Nat) (know : List Nat) (ps : List Part_) (f : Fabric) : PhysRead × Fabric :=
  engReadParts m l know ps (newAccess f)

/-- A contributor and what its store carries (R119). -/
structure Writer where
  who : Nat
  id : Nat
  know : List Nat
  slot : Nat
  node : Nat
  seq : Nat
  deriving DecidableEq, Repr

/-- Write bytes into a planed region's next plane, word by word; bytes of a word not written keep the contributor's own
contribution, else the present value (R118, R119, R121). A poisoned one into a Muslin region counts (R126). None when a
contribution finds no room (R123). -/
def planeWrite (m : Memory) (l : Nat) (r : Region) (w : Writer) (off : Nat) (bs : List Byte) (poison : Bool) (f : Fabric) : Option Fabric :=
  let st := stepOf f r
  let ws := if bs.isEmpty then [] else (List.range ((off + bs.length - 1) / 4 - off / 4 + 1)).map fun i => off / 4 + i
  ws.foldl (fun (g : Option Fabric) word =>
    match g with
    | none => none
    | some f =>
      let lo := max off (4 * word)
      let now := (bs.drop (lo - off)).take (4 * word + 4 - lo)
      contribute l r.num word w.who st (mergedWord m f r word w.who st (lo - 4 * word) now) poison w.slot w.node w.seq f)
    (some (countPlaned r poison f))

/-- Write bytes to translated pieces of a line, which makes their frames dirty if `dirty` (R239); none on PLANE_OVF (R123). -/
def engWriteAs (dirty : Bool) (m : Memory) (l : Nat) (w : Writer) (poison : Bool) : List Part_ → List Byte → Fabric → Option Fabric
  | [], _, f => some f
  | p :: r, bs, f =>
    let now := bs.take p.len
    let plain := fun (f : Fabric) =>
      let f := writeEngine m (vfOf l) p.place.cls p.place.phys w.id now poison w.know [] f
      if dirty then noteDirty l p.va p.place.phys p.place.cls f else f
    let g := match regionAt f l p.va with
      | some rg => if rg.planes ≠ 0 then planeWrite m l rg w (p.va - regionArea - rg.at_) now poison f else some (plain f)
      | none => some (plain f)
    match g with
    | some f => engWriteAs dirty m l w poison r (bs.drop p.len) f
    | none => none

/-- A write of the line by an engine (R239). -/
def engWrite (m : Memory) (l : Nat) (w : Writer) (poison : Bool) (ps : List Part_) (bs : List Byte) (f : Fabric) : Option Fabric :=
  engWriteAs true m l w poison ps bs f

/-- The visits of a pattern (R161). -/
def Pattern.total (p : Pattern) : Nat := p.counts.1 * p.counts.2.1 * p.counts.2.2

/-- The offset of visit `v` (R161). -/
def Pattern.offset (p : Pattern) (v : Nat) : Int :=
  let c0 := p.counts.1
  let c1 := p.counts.2.1
  (p.base : Int) + (v / (c0 * c1) : Nat) * p.strides.2.2 + (v / c0 % c1 : Nat) * p.strides.2.1 + (v % c0 : Nat) * p.strides.1

/-- The pattern ends: its GO completes (R181, R312). -/
def endPattern (l tile g : Nat) (f : Fabric) : Fabric :=
  let f := updGen l tile g (fun x => { x with running := false, ended := true, lanes := [] }) f
  (f.cmds.filter fun c => c.line == l && c.tile == tile && c.kind == 2 && c.arg == g).foldl (fun f c => completeCmd c.id f) f

/-- A pattern's fault: halted at its visit (R161). -/
def patternFault (l tile g code detail : Nat) (addr : Nat) (f : Fabric) (mask : Nat := 0xFF) : Fabric :=
  takeFault { engineRec f l tile 1 g code detail addr (.pattern tile g) with mask := mask } false
    (updGen l tile g (fun x => { x with halted := true }) f)

/-- The lane of its token a visit fills or stores (R161). -/
def visitLane (x : AGen) (p : Pattern) : Nat :=
  if p.size = 32 then 0 else if p.write then (8 - x.lanes.length) % 8 else x.lanes.length

/-- The channel that a switch port of a generator's tile serves, by its writing or its reading end: the one the route report names there,
else the channel of the generator itself (R161, R253, R273). -/
def portChan (f : Fabric) (l tile g port : Nat) (reads : Bool) : Option Chan :=
  let end_ (c : Chan) : End := if reads then c.reader else c.writer
  let ofTile (e : End) : Bool := match e with | .gen t _ => t == tile | _ => false
  match ((findLine f l).map fun x => x.swPorts).getD [] |>.findSome? fun y =>
      if y.1 == tile && y.2.1 == port then (findChan f y.2.2.1 y.2.2.2).filter fun c => ofTile (end_ c) else none with
  | some c => some c
  | none => f.chans.find? fun c => c.line == l && end_ c == .gen tile g

/-- The accesses a visit comes after that are still to be performed: its GO's, and for a write those its token releases (R143,
R148). -/
def visitPending (f : Fabric) (x : AGen) (p : Pattern) : List Nat :=
  let tok := if p.write && x.lanes.isEmpty then (match portChan f x.line x.tile x.num x.port true with
    | some c => ((visible f c).head?.map fun t => t.rel).getD []
    | none => []) else []
  pendingOf f (x.know ++ tok)

/-- A token a pattern or count node makes: sequence number 0, source node 0xFFF (R161, R168). -/
def engineToken (v : Lanes) (tag : Nat) (poison : Bool) (rel : List Nat) : Token := ⟨v, tag, poison, 0xFFF, 0, rel⟩

/-- What the input link register of a switch port of a tile holds (R253). -/
def linkedAt (f : Fabric) (l tile port : Nat) : List Linked :=
  ((findTile f l tile).map fun t => t.links.filter fun k => k.port == port).getD []

/-- The tokens a pattern's next one joins at a switch port: two at most, those captured at the tile's save among them (R217, R253). -/
def portHeld (f : Fabric) (l tile port : Nat) : Nat :=
  ((findTile f l tile).map fun t => ((t.captured ++ t.links).filter fun k => k.port == port).length).getD 0

/-- Deliver a pattern's token to its port's link register (R253, R312). -/
def pushLink (l tile port g : Nat) (t : Token) (f : Fabric) : Fabric :=
  markMoved l (updTile l tile (fun x => { x with links := x.links ++ [⟨port, g, t⟩] }) f)

/-- A visit is done: a read token that is full, or the last, goes to the port's link register (R161, R253). With EOSEND a read
pattern goes on to its end-of-stream; a write pattern ends with its last write (R312). -/
def finishVisit (l tile g : Nat) (p : Pattern) (got : List (Word × Bool)) (f : Fabric) : Fabric :=
  match findGen f l tile g with
  | some x =>
    let last := decide (p.total ≤ x.visit + 1)
    let lanes := if p.write then x.lanes else x.lanes ++ got
    let full := !p.write && (p.size == 32 || lanes.length == 8 || last)
    let tok := engineToken (Lanes.ofList (lanes.map Prod.fst)) 0 (lanes.any Prod.snd) (addNew x.id x.know)
    let f := updGen l tile g (fun y => { y with
      visit := y.visit + 1, lanes := if full then [] else lanes }) f
    let f := if full then pushLink l tile x.port g tok f else f
    if last && (p.write || !p.eosend) then endPattern l tile g f else f
  | none => f

/-- A visit of a read pattern that is dropped gives zero, poisoned, in its lanes (R206, R312). -/
def dropVisit (l tile g : Nat) (p : Pattern) (f : Fabric) : Fabric :=
  finishVisit l tile g p ((List.range (p.size / 4)).map fun _ => ((0 : Word), true))
    (updGen l tile g (fun y => { y with halted := false, skip := false }) f)

/-- The visit of a read pattern. -/
def readVisit (l tile g : Nat) (x : AGen) (p : Pattern) (m : Memory) (f : Fabric) : Fabric :=
  let off := p.offset x.visit
  match patXlate m l tile g p .read off f with
  | (.error (e, va), f) => patternFault l tile g e.1 e.2 va f
  | (.ok ps, f) =>
    let (r, f) := engRead m l x.know ps f
    let f := charge (vfOf l) r.cost (engineCharge f l tile 1) f g
    let ws := (List.range (p.size / 4)).map fun i => (BitVec.ofNat 32 (ofBytes ((r.bytes.drop (4 * i)).take 4)), r.poison)
    finishVisit l tile g p ws f

/-- The lanes a write visit stores, and those left: it takes a token when it has none (R161), and acquires it (R143). -/
def takeLanes (l tile g : Nat) (x : AGen) (p : Pattern) (f : Fabric) : List (Word × Bool) × List (Word × Bool) × Fabric :=
  let (have_, f) :=
    if x.lanes.isEmpty then
      match portChan f l tile g x.port true with
      | some c =>
        match (visible f c).head? with
        | some t => (t.payload.toList.map fun w => (w, t.poison),
            cmdAccess l tile x.id t.rel (markMoved l
              (updGen l tile g (fun y => { y with know := union t.rel y.know }) (updChan c.line c.num (popChan 1 f) f))))
        | none => ([], f)
      | none => ([], f)
    else (x.lanes, f)
  (have_.take (p.size / 4), if p.size = 32 then [] else have_.drop 1, f)

/-- The visit of a write pattern. A visit that faults takes no token; what its translation charged stays charged (R133). -/
def writeVisit (l tile g : Nat) (x : AGen) (p : Pattern) (m : Memory) (f0 : Fabric) : Fabric :=
  let off := p.offset x.visit
  match patXlate m l tile g p .write off f0 with
  | (.error (e, va), f) => patternFault l tile g e.1 e.2 va f
  | (.ok ps, f1) =>
    let (now, left, f) := takeLanes l tile g x p f1
    let know := ((findGen f l tile g).map fun y => y.know).getD x.know
    let w : Writer := ⟨p.who, x.id, know, 0xFF, 0xFFF, 0⟩
    match engWrite m l w (now.any Prod.snd) ps (now.flatMap fun y => leBytes 4 y.1.toNat) f with
    | some f => finishVisit l tile g p [] (updGen l tile g (fun y => { y with lanes := left }) f)
    | none => patternFault l tile g 9 0 (p.win.base + off).toNat f1

/-- A visit may be made: the generator has no element word left to serve (R159), and what the visit comes after is performed. -/
def patternVisitDue (l tile g : Nat) (_ : Memory) (f : Fabric) : Bool :=
  match findGen f l tile g with
  | some x =>
    match x.pat with
    | some p =>
      x.running && !x.halted && gensServe f l tile
        && (f.accs.all fun a => !(a.line == l && tileOf a.th == tile && a.gen == g)) && (visitPending f x p).isEmpty
        && (if p.write then
              !x.lanes.isEmpty || (match portChan f l tile g x.port true with | some c => !(visible f c).isEmpty | none => false)
            else decide (portHeld f l tile x.port < 2))
    | none => false
  | none => false

/-- PATTERN_VISIT (R115, R161, R253, R312): the visit is checked, translated and performed, or dropped by a resume (R206); after the
last, EOSEND. The spec does not say whether an offset wraps: DESIGN CHOICE base and strides add up as unbounded integers, and one below
zero is out of bounds (log 93). -/
def patternVisit (l tile g : Nat) (m : Memory) (f : Fabric) : Fabric :=
  match findGen f l tile g with
  | some x =>
    match x.pat with
    | some p =>
      if p.total ≤ x.visit then
        endPattern l tile g (pushLink l tile x.port g (engineToken Lanes.zero 3 false x.know) f)
      else if x.skip then dropVisit l tile g p f
      else
        let off := p.offset x.visit
        if off < 0 ∨ off % p.size ≠ 0 ∨ (p.win.len : Int) < off + p.size then
          patternFault l tile g 2 (p.winNum % 8 + 256 * p.size) (off % (2 ^ 64 : Int)).toNat f (2 ^ visitLane x p)
        else if p.write then writeVisit l tile g x p m f else readVisit l tile g x p m f
    | none => f
  | none => f

def execPatternVisit (l tile g : Nat) (s : State) : Host.Outcome State Fault Refusal :=
  runEvent (patternVisitDue l tile g) (patternVisit l tile g) s

/-- The oldest token waiting in a port's link register is committed when the channel has room (R253); with no channel at its
generator's port it reaches no reader (log 17). -/
def drainLink (l tile port : Nat) (f : Fabric) : Fabric :=
  match linkedAt f l tile port with
  | k :: _ =>
    let take (f : Fabric) : Fabric := updTile l tile (fun t => { t with links := t.links.erase k }) f
    match portChan f l tile k.gen port false with
    | some c => if 1 ≤ roomOf f c then markMoved l (updChan c.line c.num (commitTok k.tok f) (take f)) else f
    | none => take f
  | [] => f

/-- Every link register of a tile gives its oldest token on. -/
def drainLinks (f : Fabric) (t : Tile) : Fabric := ((t.links.map fun k => k.port).eraseDups).foldl (fun f p => drainLink t.line t.num p f) f

/-! ## Count nodes -/

/-- What a node's counter write releases (R149): every write it has counted, itself among them, at the scope of this firing, and
what its earlier writes of the word released. -/
def counterRels (f : Fabric) (c : Cnt) (phys id : Nat) : List Release :=
  ⟨c.line, 0xFFFF, c.scope, addNew id c.ids⟩ :: ((f.hist.find? fun h => h.word == phys).map fun h => h.rel.filter fun r => r.th == 0xFFFF).getD []

/-- Fire a node while its count is reached and fewer than four tokens wait (R168). The firing releases every write the node has
counted, at its SCOPE, which the firing then sets to 0 (R149, R168). R119 gives a node no contributor number: DESIGN CHOICE its
write of a counter word that lies in a planed region is no contribution, and writes the present plane (log 83). R168 queues a token at each
firing and lets CHAN be none: DESIGN CHOICE a node without a channel queues none, and its PEND stays 0 (log 84). -/
def fireNode (m : Memory) (l tile n : Nat) : Nat → Fabric → Fabric
  | 0, f => f
  | k + 1, f =>
    match findCnt f l tile n with
    | some c =>
      if 0 < c.tgt && c.tgt ≤ c.val && decide (c.queue.length < 4) then
        let tot := (c.tot + c.tgt) % 2 ^ 32
        let rel := if 2 ≤ c.scope then union c.ids c.rel else c.rel
        let (id, f) := fresh f
        let f := updTile l tile (fun t => { t with cmdAccs := addNew id t.cmdAccs }) f
        let f := match c.addr with
          | some va =>
            (match regionXlate f l va .write with
            | (.place p, f) => 
                writeWord m (vfOf l) p.cls p.phys id false (BitVec.ofNat 32 tot) false c.ids (counterRels f c p.phys id) f
            | (_, f) => f)
          | none => f
        let tok := engineToken (Lanes.two (BitVec.ofNat 32 tot) (BitVec.ofNat 32 n)) 0 c.pois rel
        let f := updCnt l tile n (fun x => { x with
          val := x.val - x.tgt, tot := tot, queue := if x.chan.isSome then x.queue ++ [tok] else x.queue,
          scope := 0, pois := false, rel := rel, fired := x.fired + 1 }) f
        fireNode m l tile n k (settleWaits l tile n f)
      else f
    | none => f

/-- An entry or task that names a node sets its target and scope (R168). DESIGN CHOICE an own word count of 2^32 or more is the target as
it stands, of which CNT_TGT shows the low 32 bits (log 84). -/
def startCount (l tile n decl own scope : Nat) (f : Fabric) : Fabric :=
  updCnt l tile n (fun c => { c with tgt := if decl ≠ 0 then decl else own, scope := max c.scope scope }) f

/-- Words of write `wid`, which came after `know`, acknowledged at their home, on their way to their node. -/
def addAck (l tile n words : Nat) (poison : Bool) (acc wid : Nat) (know : List Nat) (counted : Bool) (remote : Option (Nat × Nat × Nat))
    (f : Fabric) : Fabric :=
  let (id, f) := fresh f
  { f with acks := f.acks ++ [{ id := id, line := l, tile := tile, num := n, words := words, poison := poison, acc := acc, wid := wid,
                                know := know, counted := counted, remote := remote }] }

/-- A copy entry whose beats are all delivered and whose acknowledgements have all come, completes (R165, R347); a BAR may then
complete (R148). -/
def settleCopy (l tile ch : Nat) (f : Fabric) : Fabric :=
  match findCopy f l tile ch with
  | some c =>
    if c.busy && c.beatsDone && !(f.acks.any fun a => a.acc == c.id) then
      settleBars l tile
        (updHq l tile c.queue (fun q => { q with entries := q.entries + 1, doneIds := q.doneIds ++ [union c.ids (addNew c.id c.know)] })
          (updCopy l tile ch (fun x => { x with busy := false, entry := (x.entry + 1) % 2 ^ 32 }) f))
    else f
  | none => f

def countAckDue (id : Nat) (_ : Memory) (f : Fabric) : Bool :=
  match f.acks.find? fun a => a.id == id with
  | some a =>
    !tileSaved f a.line a.tile && (f.acks.filter fun b => b.line == a.line && b.tile == a.tile && b.id < a.id
      && ((a.counted && b.counted && b.num == a.num) || b.acc == a.acc)).isEmpty
      && (!a.counted || (match findCnt f a.line a.tile a.num with | some c => decide (c.queue.length < 4) | none => true))
  | none => false

/-- A remote row is delivered when its acknowledgement returns: WP rises (R164, R165), and its beats count (R241, event 13). -/
def ackRow (a : Ack) (f : Fabric) : Fabric :=
  match a.remote with
  | some (ch, _) =>
    (List.range (a.words / 8)).foldl (fun f _ => countEvent a.line a.tile 13 f) <| updCopy a.line a.tile ch (fun c => if c.id = a.acc then { c with wp := (c.wp + 4 * a.words) % 2 ^ 32 } else c) f
  | none => f

/-- COUNT_ACK (R168). -/
def countAck (id : Nat) (m : Memory) (f : Fabric) : Fabric :=
  match f.acks.find? fun a => a.id == id with
  | some a =>
    let f := ackRow a { f with acks := f.acks.filter fun b => b.id != id }
    let f := if a.counted then
        fireNode m a.line a.tile a.num (((findCnt f a.line a.tile a.num).map fun c => c.val).getD 0 + a.words)
          (updCnt a.line a.tile a.num (fun c => { c with
            val := c.val + a.words, pois := c.pois || a.poison, ids := addNew a.wid (union a.know c.ids) }) f)
      else f
    settleCopy a.line a.tile 0 (settleCopy a.line a.tile 1 f)
  | none => f

def execCountAck (id : Nat) (s : State) : Host.Outcome State Fault Refusal := runEvent (countAckDue id) (countAck id) s

def countTokenCommitDue (l tile n : Nat) (_ : Memory) (f : Fabric) : Bool :=
  match findCnt f l tile n with
  | some c => !tileSaved f l tile && !c.queue.isEmpty && (match c.chan.bind fun k => findChan f l k with | some ch => decide (1 ≤ roomOf f ch) | none => false)
  | none => false

/-- COUNT_TOKEN_COMMIT (R168): the oldest completion token; held counts may then fire. -/
def countTokenCommit (l tile n : Nat) (m : Memory) (f : Fabric) : Fabric :=
  match findCnt f l tile n with
  | some c =>
    match c.queue, c.chan with
    | t :: r, some k =>
      let f := updChan l k (commitTok t f) (updCnt l tile n (fun x => { x with queue := r }) f)
      fireNode m l tile n c.val (markMoved l f)
    | _, _ => f
  | none => f

def execCountTokenCommit (l tile n : Nat) (s : State) : Host.Outcome State Fault Refusal :=
  runEvent (countTokenCommitDue l tile n) (countTokenCommit l tile n) s

/-! ## Arming -/

/-- A control block's template (R163). -/
def readTemplate (addr : Nat) (b : List Byte) : Template :=
  let c := bfld b 0 2
  let cn := bfld b 2 1
  { addr := addr, gather := c % 2 == 1, cross := c / 2 % 2 == 1, remote := c / 4 % 2 == 1, mcast := c / 8 % 2 == 1,
    wbuf := c / 16 % 2 == 1, scope := c / 32 % 8, node := cn % 16, count := cn / 16 % 2 == 1, decl := bfld b 4 4,
    src := bfld b 8 8, dst := bfld b 16 8, rowb := bfld b 0x18 4, rows := bfld b 0x1C 4, sstr := sfld b 0x20, dstr := sfld b 0x24,
    idx := bfld b 0x28 8, dev := bfld b 0x30 4, mbr := bfld b 0x34 1, mbuf := bfld b 0x35 1, bstr := sfld b 0x38 }

/-- The checks of a control block (R163). ASTAT is the device's to write, and R163 does not say that its bits [31:3] are among the
zero fields of a block that ARM reads: DESIGN CHOICE they are not checked (log 78). -/
def templateOk (b : List Byte) : Bool :=
  let t := readTemplate 0 b
  bfld b 1 1 == 0 && bfld b 2 1 / 32 == 0 && bfld b 3 1 == 0 && bfld b 0x36 2 == 0 && t.scope ≤ 5 && t.src < 2 ^ 55
    && 32 ≤ t.rowb && t.rowb ≤ 2 ^ 24 && t.rowb % 32 == 0 && 1 ≤ t.rows && t.rows ≤ 2 ^ 24
    && (if t.gather then t.idx % 4 == 0 else t.idx == 0)
    && (if t.remote then t.dev < 2 ^ 22 else t.dev == 0)
    && (if t.mcast then 2 ≤ t.mbr && t.mbr ≤ 16 && 1 ≤ t.mbuf && t.mbuf ≤ 8 else t.mbr == 0 && t.mbuf == 0)
    && (!t.wbuf || (t.dst < 524288 && t.dst % 32 == 0))

/-- A fault of a queue's ARM or DISARM: its copy channel halts (R164, R264). -/
def armFault (l tile q code detail addr : Nat) (f : Fabric) : Fabric :=
  takeFault (engineRec f l tile 2 q code detail addr (.arm tile q)) false
    (updHq l tile q (fun x => { x with halted := true }) (updCopy l tile (q / 4) (fun x => { x with halted := true }) f))

/-- Write ASTAT, the last word of the block (R163), where the block was read: no store of R133, and only its read is checked
(R264). The write is the device's: it makes no frame dirty (R239), and the line's completion comes after it (R155). R119 names no
contributor for a block in a planed region: DESIGN CHOICE the copy channel that serves the queue, q / 4 (log 83). -/
def writeAstat (l tile q addr v : Nat) (know : List Nat) (m : Memory) (f : Fabric) : Except (XFault × Nat) Fabric :=
  match engXlate m l tile .read (addr + 0x3C : Nat) 4 f with
  | (.error e, _) => .error e
  | (.ok ps, f) =>
    let (id, f) := fresh f
    let f := cmdAccess l tile id know f
    match engWriteAs false m l ⟨16384 + tile * 2 + q / 4, id, know, 0xFF, 0xFFF, 0⟩ false ps (leBytes 4 v) f with
    | some f => .ok f
    | none => .error ((9, 0), addr)

def armCompleteDue (l tile q : Nat) (_ : Memory) (f : Fabric) : Bool :=
  match findHq f l tile q with
  | some x => x.arming.isSome && !x.halted && tileServes f l tile && (pendingOf f x.know).isEmpty
      && (match findCopy f l tile (q / 4) with | some c => !c.halted | none => false)
  | none => false

/-- ARM_COMPLETE (R163, R264, R265). What space tokens that came before an ARM stand for no rule says: DESIGN CHOICE each ARM starts
from no space (R169; log 76). -/
def armComplete (l tile q : Nat) (m : Memory) (f : Fabric) : Fabric :=
  match findHq f l tile q with
  | some x =>
    match x.arming with
    | some addr =>
      if addr % 64 ≠ 0 then armFault l tile q 2 (256 * 32) addr f
      else
        match engXlate m l tile .read (addr : Nat) 64 f with
        | (.error (e, va), f) => armFault l tile q e.1 e.2 va f
        | (.ok ps, f) =>
          let (r, f) := engRead m l x.know ps f
          let f := charge (vfOf l) r.cost (engineCharge f l tile 2) f (q / 4)
          let good := !r.poison && templateOk r.bytes
          match writeAstat l tile q addr (if good then 1 else 4) x.know m f with
          | .error (e, va) => armFault l tile q e.1 e.2 va f
          | .ok f =>
            let t := readTemplate addr r.bytes
            let f := updHq l tile q (fun y => { y with
              arming := none, tmpl := if good then some t else none, permits := if good then List.replicate t.mbuf [] else [], joins := List.replicate 16 [] }) f
            completeCmd x.armCmd f
    | none => f
  | none => f

def execArmComplete (l tile q : Nat) (s : State) : Host.Outcome State Fault Refusal :=
  runEvent (armCompleteDue l tile q) (armComplete l tile q) s

/-- The channel works on an entry of the queue. -/
def entryOf (f : Fabric) (l tile q : Nat) : Bool :=
  match findCopy f l tile (q / 4) with | some c => c.busy && c.queue == q | none => false

def disarmAckDue (l tile q : Nat) (_ : Memory) (f : Fabric) : Bool :=
  match findHq f l tile q with
  | some x => x.disarm.isSome && !x.halted && !entryOf f l tile q && tileServes f l tile
  | none => false

/-- DISARM_ACK (R166, R282): the write of ACK, and a sequential controller's commands behind the DISARM, come after the writes of the
queue's entries. -/
def disarmAck (l tile q : Nat) (m : Memory) (f : Fabric) : Fabric :=
  match findHq f l tile q with
  | some x =>
    match x.tmpl, x.disarm with
    | some t, some id =>
      (match writeAstat l tile q t.addr 2 (union (x.doneIds.foldl union []) x.know) m f with
      | .error (e, va) => armFault l tile q e.1 e.2 va f
      | .ok f =>
        let f := (f.cmds.filter fun c => c.id == id).foldl (fun f c =>
          updCtl l tile c.ct (fun k => if k.mode = 0 then { k with know := union (x.doneIds.foldl union []) k.know } else k) f) f
        completeCmd id (updHq l tile q (fun y => { y with tmpl := none, disarm := none }) f))
    | _, _ => f
  | none => f

def execDisarmAck (l tile q : Nat) (s : State) : Host.Outcome State Fault Refusal := runEvent (disarmAckDue l tile q) (disarmAck l tile q) s

/-! ## Copies -/

/-- A QFEN recording lets the queue's next entry start (R347). -/
def fenceOk (f : Fabric) (h : HwQ) (x : List (Nat × Nat) × Nat) : Bool :=
  h.started < x.2 || x.1.all fun y => match findHq f h.line h.tile y.1 with | some q => decide (y.2 ≤ q.entries) | none => true

/-- A queue has an entry that may start (R162, R347): none once DISARM has issued (R166, R282). -/
def queueReady (f : Fabric) (l tile q : Nat) : Bool :=
  match findHq f l tile q, chanTo f l (.queue tile q) with
  | some h, some c => h.tmpl.isSome && h.disarm.isNone && !h.halted && !(visible f c).isEmpty && h.fens.all (fenceOk f h)
  | _, _ => false

/-- The next queue of a channel in round robin after the one it served last (R162). -/
def nextQueue (f : Fabric) (l tile : Nat) (c : CopyCh) : Option Nat :=
  ([1, 2, 3, 4].map fun k => c.num * 4 + (c.last + k) % 4).find? fun q => queueReady f l tile q

def copyEntryDue (l tile q : Nat) (_ : Memory) (f : Fabric) : Bool :=
  match findCopy f l tile (q / 4) with
  | some c => !c.busy && !c.halted && tileServes f l tile && nextQueue f l tile c == some q
  | none => false

/-- The rows of an entry (R164). -/
def entryRows (t : Template) (tok : Token) : Nat := if tok.payload.l2.toNat = 0 then t.rows else tok.payload.l2.toNat

/-- COPY_ENTRY (R164, R168): the token is popped and the entry starts. It comes after its queue's earlier entries, and after the entries
the QFENs before it have recorded (R148, R347). No rule speaks of a poisoned trigger token: DESIGN CHOICE its entry copies as any other,
and what it writes carries no poison of the trigger (log 95). -/
def copyEntry (l tile q : Nat) (_ : Memory) (f : Fabric) : Fabric :=
  match findHq f l tile q, chanTo f l (.queue tile q) with
  | some h, some c =>
    match h.tmpl, (visible f c).head? with
    | some t, some tok =>
      let (id, f) := fresh f
      let fen := h.fens.foldl (fun k x => if h.started < x.2 then k else
        x.1.foldl (fun k y => match findHq f l tile y.1 with | some g => union ((g.doneIds.take y.2).foldl union []) k | none => k) k) []
      let f := updChan c.line c.num (popChan 1 f) f
      let f := updHq l tile q (fun x => { x with started := x.started + 1 }) f
      let know := union tok.rel (union h.know (union (h.doneIds.foldl union []) fen))
      let f := cmdAccess l tile id know f
      let rows := entryRows t tok
      let f := updCopy l tile (q / 4) (fun x => { x with
        wp := 0, queue := q, last := q, busy := true, tok := tok, row := 0, branch := 0, off := 0, rows := rows, id := id, scope := t.scope,
        ids := [], know := know, src := none, poi := false, beatsDone := false }) f
      let f := if t.count then startCount l tile t.node t.decl (rows * (t.rowb / 4) * max t.mbr 1) t.scope f else f
      markMoved l f
    | _, _ => f
  | _, _ => f

def execCopyEntry (l tile q : Nat) (s : State) : Host.Outcome State Fault Refusal := runEvent (copyEntryDue l tile q) (copyEntry l tile q) s

/-- A copy channel halts at its beat, or at a row that was refused (R164, R204). -/
def copyFault (l tile ch code detail addr : Nat) (f : Fabric) (row : Bool := false) : Fabric :=
  takeFault (engineRec f l tile 2 ch code detail addr (if row then .row tile ch else .copy tile ch)) false
    (updCopy l tile ch (fun x => { x with halted := true }) f)

/-- The destination of a row in a branch (R164). -/
def copyDst (t : Template) (c : CopyCh) : Int :=
  let b : Int := (c.branch : Nat)
  (if t.mcast then (t.dst : Int) + b * t.bstr + ((c.row % max t.mbuf 1 * t.rowb : Nat) : Int)
   else (t.dst : Int) + toS 32 c.tok.payload.l1.toNat + (c.row : Nat) * t.dstr + b * t.bstr) + (c.off : Nat)

/-- The address of a gather row's index (R164). -/
def copyIdx (t : Template) (c : CopyCh) : Int := (t.idx : Int) + 4 * (toS 32 c.tok.payload.l0.toNat + (c.row : Nat))

/-- The source of a row, given its index (R164). -/
def copySrc (t : Template) (c : CopyCh) (ix : Nat) : Int :=
  (if t.gather then (t.src : Int) + (ix : Nat) * t.sstr else (t.src : Int) + toS 32 c.tok.payload.l0.toNat + (c.row : Nat) * t.sstr)
    + (c.off : Nat)

/-- A multicast channel begins a row, for which it uses a permit (R169). -/
def startsRow (t : Template) (c : CopyCh) : Bool := t.mcast && c.off == 0 && c.branch == 0

/-- What the row a channel begins comes after: what the space tokens of its permit released, the accesses of every branch to the buffer it
overwrites among them (R143, R169). -/
def permitKnow (f : Fabric) (c : CopyCh) : List Nat :=
  match findHq f c.line c.tile c.queue with
  | some h => (match h.tmpl with | some t => if startsRow t c then h.permits.headD [] else [] | none => [])
  | none => []

/-- Go to the next beat, delivered by write `wid`: WP rises, for a remote row at its acknowledgement; then the next offset,
branch and row (R164, R165). A row's permit is used at its start (R169). WP has 32 bits and R165 has it never fall within an entry,
which an entry longer than 2^32 - 1 bytes cannot keep: DESIGN CHOICE it wraps there (log 84). -/
def nextBeat (l tile ch : Nat) (t : Template) (poison : Bool) (wid : Nat) (f : Fabric) : Fabric :=
  match findCopy f l tile ch with
  | some c =>
    let f := if t.remote then f else countEvent l tile 13 f
    let f := updTile l tile (fun x => { x with cmdAccs := addNew wid x.cmdAccs }) f
    let f := if startsRow t c then updHq l tile c.queue (fun q => { q with permits := q.permits.drop 1 }) f else f
    let rowEnd := decide (t.rowb ≤ c.off + 32)
    let poi := c.poi || poison
    let f := if t.remote then
        (if rowEnd then addAck l tile t.node (t.rowb / 4) poi c.id wid c.know t.count (some (ch, c.row, c.branch)) f else f)
      else if t.count then addAck l tile t.node 8 poison c.id wid c.know true none f else f
    let rowDone := rowEnd && decide (max t.mbr 1 ≤ c.branch + 1)
    let f := updCopy l tile ch (fun x => { x with
      wp := if t.remote then x.wp else (x.wp + 32) % 2 ^ 32
      ids := addNew wid x.ids
      off := if rowEnd then 0 else x.off + 32
      branch := if rowDone then 0 else if rowEnd then x.branch + 1 else x.branch
      row := if rowDone then x.row + 1 else x.row
      src := if rowDone then none else x.src
      poi := if rowEnd then false else poi
      beatsDone := rowDone && decide (x.rows ≤ x.row + 1) }) f
    settleCopy l tile ch f
  | none => f

/-- A weight buffer's 32 bytes are rewritten: errors there go (R125, R170). -/
def wbufErased (l tile a : Nat) (f : Fabric) : Fabric :=
  let u := wbufUnit (physTile f (boltOf f l (tile / 16)) (tile % 16)) a
  { f with errs := f.errs.filter fun x => !(u ≤ x.at_ && x.at_ < u + 32) }

/-- Write a beat to its destination: the weight buffer, another device or memory (R118, R119, R126, R128, R164, R170). No rule refuses
or orders WBUF and REMOTE in one template: DESIGN CHOICE the beat goes to the weight buffer, and its row is acknowledged as a remote one
is (log 95). R126 speaks of lines of memory, and no rule says how a poisoned beat stands in the weight buffer: DESIGN CHOICE its 32 bytes
are marked until they are rewritten, whatever the line's class, and ERR_MUSLIN does not count the write (log 77). A beat that faults
writes nothing, and what the walk of its destination charged stays charged (R130, R133). -/
def writeBeat (l tile ch : Nat) (t : Template) (c : CopyCh) (srcCls : Nat) (bs : List Byte) (poison : Bool) (m : Memory) (f : Fabric) :
    Fabric :=
  let d := copyDst t c
  let (wid, f) := fresh f
  if t.wbuf then
    if d < 0 ∨ d % 32 ≠ 0 ∨ (524288 : Int) < d + 32 then copyFault l tile ch 2 (256 * 32) (d % (2 ^ 64 : Int)).toNat f
    else
      let a := d.toNat
      nextBeat l tile ch t poison wid (wbufErased l tile a (updTile l tile (fun x => { x with
        wbuf := (bs.zipIdx.map fun y => (a + y.2, y.1)) ++ x.wbuf.filter fun y => !(a ≤ y.1 && y.1 < a + 32)
        wbufPoison := if poison then addNew (a / 32) x.wbufPoison else x.wbufPoison.filter (· != a / 32) }) f))
  else if t.remote then
    if d < 0 ∨ (2 ^ 55 : Int) ≤ d then copyFault l tile ch 3 0x50 (d % (2 ^ 64 : Int)).toNat f
    else nextBeat l tile ch t poison wid { f with
      sent := f.sent ++ [⟨t.dev, ((findLine f l).map fun x => x.pasid).getD 0, d.toNat, bs, poison⟩] }
  else
    match engXlate m l tile .write d 32 f with
    | (.error (e, va), f) => copyFault l tile ch e.1 e.2 va f
    | (.ok ps, f) =>
      if !t.cross && ps.any fun p => decide (srcCls < p.place.cls) then copyFault l tile ch 5 0 d.toNat f
      else
        let w : Writer := ⟨16384 + tile * 2 + ch, wid, union c.ids c.know, 0xFF, 0xFFF, 0⟩
        match engWrite m l w poison ps bs f with
        | some g => nextBeat l tile ch t poison wid g
        | none => copyFault l tile ch 9 0 d.toNat f

def copyBeatDue (l tile ch : Nat) (_ : Memory) (f : Fabric) : Bool :=
  match findCopy f l tile ch with
  | some c =>
    c.busy && !c.halted && !c.beatsDone && tileServes f l tile && (pendingOf f (union (permitKnow f c) c.know)).isEmpty
      && (match findHq f l tile c.queue with
          | some h => (match h.tmpl with
            | some t => !startsRow t c || !h.permits.isEmpty
            | none => false)
          | none => false)
  | none => false

/-- The beat of a copy entry, once the row's index is known. -/
def beatBody (l tile ch : Nat) (t : Template) (c : CopyCh) (ix : Nat) (ixPoison : Bool) (m : Memory) (f : Fabric) : Fabric :=
  match engXlate m l tile .read (copySrc t c ix) 32 f with
  | (.error (e, va), f) => copyFault l tile ch e.1 e.2 va f
  | (.ok ps, f) =>
    let (r, f) := engRead m l c.know ps f
    let f := charge (vfOf l) r.cost (engineCharge f l tile 2) f ch
    let cls := ps.foldl (fun k p => Nat.min k p.place.cls) 2
    writeBeat l tile ch t c cls r.bytes (r.poison || ixPoison) m f

/-- COPY_BEAT (R164, R165): the row's index is read once, at its first beat. What the entry's trigger released comes first, and of a
multicast row what its permit's spaces released (R143, R169). -/
def copyBeat (l tile ch : Nat) (m : Memory) (f : Fabric) : Fabric :=
  match findCopy f l tile ch with
  | some c =>
    let c := { c with know := union (permitKnow f c) c.know }
    let f := updCopy l tile ch (fun x => { x with know := c.know }) f
    match (findHq f l tile c.queue).bind fun h => h.tmpl with
    | some t =>
      if t.gather then
        match c.src with
        | some (ix, p) => beatBody l tile ch t c ix p m f
        | none =>
          match engXlate m l tile .read (copyIdx t c) 4 f with
          | (.error (e, va), f) => copyFault l tile ch e.1 e.2 va f
          | (.ok ps, f) =>
            let (r, f) := engRead m l c.know ps f
            let f := charge (vfOf l) r.cost (engineCharge f l tile 2) f ch
            let ix := (ofBytes r.bytes, r.poison)
            let f := updCopy l tile ch (fun x => { x with src := some ix }) f
            beatBody l tile ch t { c with src := some ix } ix.1 ix.2 m f
      else beatBody l tile ch t c 0 false m f
    | none => f
  | none => f

def execCopyBeat (l tile ch : Nat) (s : State) : Host.Outcome State Fault Refusal := runEvent (copyBeatDue l tile ch) (copyBeat l tile ch) s

def rowRefusedDue (l tile ch : Nat) (_ : Memory) (f : Fabric) : Bool :=
  (f.acks.any fun a => a.line == l && a.tile == tile && match a.remote with | some r => r.1 == ch | none => false)
    && (match findCopy f l tile ch with | some c => c.busy && !c.halted | none => false)

/-- The rows a multicast channel started from a row and branch on: each has used a permit (R169). -/
def rowsStarted (c : CopyCh) (row branch : Nat) : Nat :=
  (c.row + (if c.branch = 0 ∧ c.off = 0 then 0 else 1)) - (row + (if branch = 0 then 0 else 1))

/-- ROW_REFUSED (R204, R228): the destination refuses the oldest row not acknowledged, with the code and detail of what it met
there: outside the peer space or from another device than SRCDEV, a failed walk, or the interface's quota. The channel faults at
that row, and re-performs it on a resume, with the permits that it and the rows behind it used. -/
def rowRefused (l tile ch code detail : Nat) (_ : Memory) (f : Fabric) : Fabric :=
  match f.acks.find? fun a => a.line == l && a.tile == tile && (match a.remote with | some r => r.1 == ch | none => false) with
  | some a =>
    match a.remote, findCopy f l tile ch with
    | some (_, row, branch), some c =>
      let later := fun (b : Ack) => b.line == l && b.tile == tile && b.acc == c.id && a.id ≤ b.id
      let f := { f with acks := f.acks.filter fun b => !later b }
      let back := { c with row := row, branch := branch, off := 0, src := none, poi := false, beatsDone := false }
      let t := (findHq f l tile c.queue).bind fun h => h.tmpl
      let f := if (t.map fun t => t.mcast) == some true then
          updHq l tile c.queue (fun q => { q with permits := List.replicate (rowsStarted c row branch) [] ++ q.permits }) f else f
      copyFault l tile ch code detail (((t.map fun t => copyDst t back).getD 0) % (2 ^ 64 : Int)).toNat
        (updCopy l tile ch (fun x => { x with row := row, branch := branch, off := 0, src := none, poi := false, beatsDone := false }) f) true
    | _, _ => f
  | none => f

def execRowRefused (l tile : Nat) (ans : RowAnswer) (s : State) : Host.Outcome State Fault Refusal :=
  runEvent (rowRefusedDue l tile ans.ch) (rowRefused l tile ans.ch ans.code ans.detail) s

def mcastJoinTokenDue (l tile q k : Nat) (_ : Memory) (f : Fabric) : Bool :=
  match chanTo f l (.join tile q k) with
  | some c => !(visible f c).isEmpty && tileServes f l tile && (findHq f l tile q).isSome
  | none => false

/-- MCAST_JOIN_TOKEN (R169): a permit carries what the spaces it is made of released (R143). One that comes while no template is armed is consumed too, and the next ARM counts no space of it: DESIGN
CHOICE (log 76). -/
def mcastJoinToken (l tile q k : Nat) (_ : Memory) (f : Fabric) : Fabric :=
  match chanTo f l (.join tile q k), findHq f l tile q with
  | some c, some h =>
    let rel := ((visible f c).head?.map fun t => t.rel).getD []
    let f := markMoved l (updChan c.line c.num (popChan 1 f) f)
    let js := h.joins.set k (h.joins.getD k [] ++ [rel])
    let n := ((h.tmpl.map fun t => t.mbr).getD 0)
    if n ≠ 0 ∧ (js.take n).all (fun x => !x.isEmpty) = true then
      let permit := (js.take n).foldl (fun k x => union (x.headD []) k) []
      updHq l tile q (fun x => { x with joins := (js.take n).map (List.drop 1) ++ js.drop n, permits := x.permits ++ [permit] }) f
    else updHq l tile q (fun x => { x with joins := js }) f
  | _, _ => f

def execMcastJoinToken (l tile q k : Nat) (s : State) : Host.Outcome State Fault Refusal :=
  runEvent (mcastJoinTokenDue l tile q k) (mcastJoinToken l tile q k) s

/-! ## Voters -/

/-- A copy's token has come that its voter can take, and the voter's output channel has room (R177). -/
def voterTokenDue (l v copy : Nat) (_ : Memory) (f : Fabric) : Bool :=
  match chanTo f l (.voterIn v copy), findVoter f l v, voterChan f l v with
  | some c, some x, some out =>
    (match (visible f c).head? with | some t => x.takes t | none => false) && 1 ≤ roomOf f out && !tileSaved f l x.tile
  | _, _, _ => false

/-- VOTER_TOKEN (R177). -/
def voterToken (l v copy : Nat) (_ : Memory) (f : Fabric) : Fabric :=
  match chanTo f l (.voterIn v copy) with
  | some c =>
    match (visible f c).head? with
    | some t => voterTake l v copy t (markMoved l (updChan c.line c.num (popChan 1 f) f))
    | none => f
  | none => f

def execVoterToken (l v copy : Nat) (s : State) : Host.Outcome State Fault Refusal :=
  runEvent (voterTokenDue l v copy) (voterToken l v copy) s

/-! ## The swage node -/

/-- Convert one value (R104, R105). -/
def convElem (code rnd : Nat) (sat : Bool) (x : Nat) : Nat :=
  match code with
  | 1 => roundFV bf16 rnd (fval fp32 x)
  | 2 => roundFV fp16 rnd (fval fp32 x)
  | 3 => roundFV fe4m3 rnd (fval fp32 x)
  | 4 => roundFV fe5m2 rnd (fval fp32 x)
  | 5 => roundFV fp32 0 (fval bf16 x)
  | 6 => roundFV fp32 0 (fval fp16 x)
  | 7 => roundFV fp32 0 (fval fe4m3 x)
  | 8 => roundFV fp32 0 (fval fe5m2 x)
  | 9 => satW sat 16 (toS 32 x)
  | 10 => satW sat 8 (toS 32 x)
  | 11 => wrapU 32 (toS 16 x)
  | 12 => wrapU 32 (toS 8 x)
  | _ => x

/-- The packed token of a list of inputs, missing elements zero (R105). -/
def packToken (code rnd : Nat) (sat : Bool) (ts : List Token) (last : Token) : Token :=
  let k := packOf code
  let w := 32 / k
  { last with
    payload := Lanes.ofFn fun l => packElems w fun i =>
      let n := l * k + i
      match ts[n / 8]? with
      | some t => convElem code rnd sat (t.payload.get (n % 8)).toNat
      | none => 0
    poison := ts.any fun t => t.poison
    rel := ts.foldl (fun r t => union t.rel r) [] }

/-- The tokens an unpacking makes from one (R105). -/
def unpackTokens (code : Nat) (t : Token) : List Token :=
  let k := unpackOf code
  let w := 32 / k
  (List.range k).map fun j =>
    let p := Lanes.ofFn fun l =>
      let n := 8 * j + l
      BitVec.ofNat 32 (convElem code 0 false (elemU (t.payload.get (n / k)) (n % k) w))
    { t with payload := p }

/-- The rounding mode and SAT of a conversion: the reading element's, or the source station's lowest element's (R105). For any
other reader the spec names none: DESIGN CHOICE nearest-even and SAT = 0 (log 70). -/
def convMode (f : Fabric) (c : Chan) : Nat × Bool :=
  let e := match c.reader with
    | .elem l th _ => findElem f l th
    | .inbox l n => ((findStation f l n).bind fun st => (sortBy (fun a b => decide (a ≤ b)) st.elems).head?).bind fun th => findElem f l th
    | _ => none
  match e with
  | some e => (e.rnd, e.sat)
  | none => (0, false)

/-- Converted tokens reach the reader's end two cycles on (R104), after the delay that passed before the node: DESIGN CHOICE, the
spec does not divide R46's delay at the node (log 70). -/
def putConverted (ts : List Token) (f : Fabric) (c : Chan) : Chan :=
  { c with q := c.q ++ ts.map fun t => ⟨t, f.cycle + 2⟩ }

/-- The oldest input token that has reached the swage node. -/
def rawHead (f : Fabric) (c : Chan) : Option Token :=
  match c.raw with
  | s :: _ => if s.seen ≤ f.cycle then some s.tok else none
  | [] => none

/-- Slots taken at the reader's end, that of an open pack among them (R374). R46 says when the writer sees a popped slot free, and
no rule when the node does: DESIGN CHOICE the node sees it when the writer does, after the channel's delay (log 70). -/
def takenSlots (f : Fabric) (c : Chan) : Nat :=
  c.q.length + (c.freed.filter fun n => f.cycle < n).length + b2n c.nodePend.isSome + b2n !c.part.isEmpty

/-- The slots the node's next step on a channel needs (R105, R374): a token that is no data flushes an open pack into its reserved
slot first, and an end-of-stream may fold into the one pending at the node's output. -/
def stepSlots (c : Chan) (t : Token) : Nat :=
  if t.tag ≠ 0 then (if !c.part.isEmpty || (isEos t.tag && c.nodePend.isSome) then 0 else 1)
  else if packOf c.conv ≠ 1 then b2n c.part.isEmpty
  else unpackOf c.conv

/-- The swage node of a channel: its line and tile. A link's lies in its reader's line. -/
def swageNode (c : Chan) : Option (Nat × Nat) :=
  c.swage.map fun t => ((match c.reader with | .inbox l _ => l | .elem l _ _ => l | _ => c.line), t)

/-- The node lies beyond the guarded port at which the channel's route ends: the route passes that port before the node, and no token
comes to the node (R226, R255). -/
def swageBeyond (f : Fabric) (c : Chan) : Bool :=
  match guardPort f c with
  | some p => c.conv != 0 && (c.ports.take c.swageHop).contains p
  | none => false

/-- The node could take a step on a channel. -/
def swageReady (f : Fabric) (c : Chan) : Bool :=
  match rawHead f c with
  | some t => c.conv != 0 && !swageBeyond f c && takenSlots f c + stepSlots c t ≤ c.depth
  | none => false

/-- The channel a swage node serves next, by round robin after the one served last; none once it has taken its step of this cycle
(R104). DESIGN CHOICE the order of the channels in a round is that of their numbers (log 70). -/
def swageNext (f : Fabric) (l tile : Nat) : Option (Nat × Nat) :=
  match findTile f l tile with
  | some t =>
    if (t.swage.map fun x => x.2.2) == some f.cycle then none
    else
      let cs := sortBy (fun a b => decide (a.1 < b.1 ∨ (a.1 = b.1 ∧ a.2 ≤ b.2)))
        ((f.chans.filter fun c => swageNode c == some (l, tile) && swageReady f c).map fun c => (c.line, c.num))
      match t.swage with
      | some (a, b, _) => (cs.find? fun x => a < x.1 || (x.1 == a && b < x.2)).or cs.head?
      | none => cs.head?
  | none => none

def swageConvertDue (l ch : Nat) (_ : Memory) (f : Fabric) : Bool :=
  match (findChan f l ch).bind swageNode with
  | some n => swageNext f n.1 n.2 == some (l, ch)
  | none => false

/-- Commit the end-of-stream pending at the node's output, if any (R48, R105). -/
def commitNodePend (f : Fabric) (c : Chan) : Chan :=
  match c.nodePend with
  | some t => { putConverted [t] f c with nodePend := none }
  | none => c

/-- The node's step on a channel (R104, R105): an open pack is flushed before a token that is no data; an end-of-stream becomes
pending at the output, or folds into the one pending there (R48); data is converted. DESIGN CHOICE a flush takes a step of the node by
itself, and the token behind it a later one (log 70). -/
def swageStep (rnd : Nat) (sat : Bool) (t : Token) (f : Fabric) (c : Chan) : Chan :=
  let taken := { c with raw := c.raw.drop 1 }
  if t.tag ≠ 0 then
    match c.part.getLast? with
    | some z => { putConverted [packToken c.conv rnd sat c.part z] f c with part := [] }
    | none =>
      if isEos t.tag then
        { taken with
          nodeEos := f.cycle
          nodePend := some (match c.nodePend with
            | some p => { t with tag := max p.tag t.tag, poison := p.poison || t.poison, rel := union p.rel t.rel }
            | none => t) }
      else putConverted [t] f (commitNodePend f taken)
  else
    let c := commitNodePend f taken
    if packOf c.conv ≠ 1 then
      let part := c.part ++ [t]
      if part.length = packOf c.conv then { putConverted [packToken c.conv rnd sat part t] f c with part := [] } else { c with part := part }
    else putConverted (unpackTokens c.conv t) f c

/-- SWAGE_CONVERT (R104, R105, R374). -/
def swageConvert (l ch : Nat) (_ : Memory) (f : Fabric) : Fabric :=
  match findChan f l ch with
  | some c =>
    match rawHead f c, swageNode c with
    | some t, some n =>
      let (rnd, sat) := convMode f c
      updTile n.1 n.2 (fun x => { x with swage := some (l, ch, f.cycle) }) (updChan l ch (swageStep rnd sat t f) (markMoved n.1 f))
    | _, _ => f
  | none => f

def execSwageConvert (l ch : Nat) (s : State) : Host.Outcome State Fault Refusal := runEvent (swageConvertDue l ch) (swageConvert l ch) s

/-- The end-of-streams pending at swage nodes' outputs whose node has taken none in this cycle are committed (R48, R105). -/
def settleNodes (f : Fabric) : Fabric :=
  { f with chans := f.chans.map fun c => if c.nodePend.isSome && c.nodeEos != f.cycle then commitNodePend f c else c }

/-! ## Remote rows, guards, counters -/

/-- Translate a row of the peer space as a write of its interface (R133, R225, R228). The region area is no part of it: its
regions are a line's (R376). -/
def peerXlate (m : Memory) (f : Fabric) (vf ps va : Nat) : Option Place × Fabric :=
  if regionArea ≤ va then (none, f)
  else
    match walk m { Rec.blank vf 7 with pasid := ps } f vf ps va with
    | (.error _, f) => (none, f)
    | (.ok (e, big, at_, page), f) =>
      match leafCheck f vf none e big true with
      | some _ => (none, f)
      | none =>
        match quotaCharge vf ps e big at_ f with
        | (.ok e, f) => (some (leafPlace vf e big va), noteScrub vf ps (cacheKey big page) e big at_ f)
        | (.error _, _) => (none, f)

/-- Translate the pieces of a row in order, up to one that fails; what the walker charged by then stays (R133). -/
def peerPlaces (m : Memory) (vf ps : Nat) : List (Nat × Nat) → Fabric → Option (List Place) × Fabric
  | [], f => (some [], f)
  | (va, _) :: r, f =>
    match peerXlate m f vf ps va with
    | (some p, f) => let (ps', f) := peerPlaces m vf ps r f; (ps'.map fun l => p :: l, f)
    | (none, f) => (none, f)

/-- Write the pieces of a row at their places. -/
def peerWrite (m : Memory) (vf id : Nat) (poison : Bool) : List (Place × Nat) → List Byte → Fabric → Fabric
  | [], _, f => f
  | (p, n) :: r, bs, f => peerWrite m vf id poison r (bs.drop n) (writeEngine m vf p.cls p.phys id (bs.take n) poison [] [] f)

/-- A row can be sent by any device at any time. -/
def remoteWriteDue (_ : Memory) (_ : Fabric) : Bool := true

/-- REMOTE_WRITE (R228): a row whose address lies beyond the peer space, from another device than SRCDEV, or that does not translate,
is refused and nothing is written; what its translation charged stays charged. -/
def remoteWrite (vf ps dev addr : Nat) (row : RowData) (m : Memory) (f : Fabric) : Fabric :=
  let i := getIface f vf ps
  if i.peerLen * 65536 ≤ addr ∨ (i.peerDev ≠ 0x3FFFFF ∧ i.peerDev ≠ dev) then f
  else
    let ns := pieces (i.peerBase * 65536 + addr) row.bytes.length
    match peerPlaces m vf ps ns f with
    | (some places, f) =>
      let (id, f) := fresh f
      peerWrite m vf id row.poison (places.zip (ns.map Prod.snd)) row.bytes f
    | (none, f) => f

def execRemoteWrite (vf ps dev addr : Nat) (row : RowData) (s : State) : Host.Outcome State Fault Refusal :=
  runEvent remoteWriteDue (remoteWrite vf ps dev addr row) s

/-- The head of what a channel's route that ends at a guarded port brings there: what its swage node has made, or, where the node lies
beyond the port, what the writer committed. -/
def guardHead (f : Fabric) (c : Chan) : Option Token :=
  match if swageBeyond f c then c.raw else c.q with
  | s :: _ => if s.seen ≤ f.cycle then some s.tok else none
  | [] => none

/-- The head of a channel whose route ends at a guarded port has reached it. -/
def guardDropDue (l ch : Nat) (_ : Memory) (f : Fabric) : Bool :=
  match findChan f l ch with
  | some c => (guardPort f c).isSome && (guardHead f c).isSome
  | none => false

/-- GUARD_DROP (R226, R227): for the writer the slot counts as popped. -/
def guardDrop (l ch : Nat) (_ : Memory) (f : Fabric) : Fabric :=
  match findChan f l ch with
  | some c =>
    match guardPort f c, guardHead f c with
    | some p, some t =>
      guardDropped c.line p ((endTile f c.line c.writer).getD 0) (match c.writer with | .elem k th _ => nodeLoop f k th t.node | _ => 0) t
        (updChan l ch (fun c => if swageBeyond f c then popRaw f c else popChan 1 f c) f)
    | _, _ => f
  | none => f

def execGuardDrop (l ch : Nat) (s : State) : Host.Outcome State Fault Refusal := runEvent (guardDropDue l ch) (guardDrop l ch) s

def counterWrapDue (l tile n : Nat) (_ : Memory) (f : Fabric) : Bool :=
  match findTile f l tile with
  | some x => decide (2 ^ 48 ≤ vget x.ctr n)
  | none => false

/-- COUNTER_WRAP (R240, R242): VEC + 1 is signalled when IEN is set. -/
def counterWrap (l tile n : Nat) (_ : Memory) (f : Fabric) : Fabric :=
  match findTile f l tile with
  | some x =>
    let f := updTile l tile (fun t => { t with
      ctr := vset t.ctr n (vget t.ctr n % 2 ^ 48), ovf := t.ovf ||| BitVec.ofNat 16 (2 ^ (n % 16)) }) f
    if x.ien.getLsbD (n % 16) then sendMsix (vfOf l) (((getPart f (vfOf l)).fqVec + 1) % 65536) f else f
  | none => f

def execCounterWrap (l tile n : Nat) (s : State) : Host.Outcome State Fault Refusal := runEvent (counterWrapDue l tile n) (counterWrap l tile n) s

end Sys2Proof.Machine
end

