-- ==== Sys2Proof/Machine/Matrix.lean ====
section
/-!
DEFINITION. The matrix array: accumulation (R100, R107 to R111), tile tasks (R170 to R176, R335, R336).
-/
namespace Sys2Proof.Machine

/-! ## Exact accumulation -/

/-- An exact zero is +0 (R110). -/
def plusZero (x : FV) : FV := match x with | .fin _ 0 _ => .fin false 0 0 | y => y

/-- Round to FP32 nearest-even (R107). -/
def rnd32 (x : FV) : Nat := roundFV fp32 0 (plusZero x)

/-- One accumulator step (R108, R109): the contribution is rounded, then the sum. -/
def accStep (acc : Nat) (x : FV) : Nat := rnd32 (fAdd 0 (fval fp32 acc) (fval fp32 (rnd32 x)))

/-- An exact sum (R110). -/
def sumFV (l : List FV) : FV := plusZero (l.foldl (fAdd 0) (.fin false 0 0))

/-- A scale's value; poison contributes as +0 (R95, R110). -/
def scaleFV (c : Nat) : FV := match s20 c with | some (m, e) => .fin false m e | none => .fin false 0 0

/-- An integer as a value. -/
def intFV (v : Int) : FV := .fin (decide (v < 0)) v.natAbs 0

/-- Byte `i` of a list of bytes. -/
def byteAt (bs : List Byte) (i : Nat) : Nat := (bs.getD i 0).toNat

/-- Element `k` of a row or column for a pairing (R99, R172): M4S units of 64 bytes, or plain elements. -/
def elemFV (pair : Nat) (bs : List Byte) (k : Nat) : FV :=
  let m4s := byteAt bs (64 * (k / 32) + k % 32)
  match pair with
  | 0 | 2 => fval fe4m3 m4s
  | 1 => intFV (toS 8 m4s)
  | 3 => fval fe5m2 m4s
  | 5 => fval bf16 (byteAt bs (2 * k) + 256 * byteAt bs (2 * k + 1))
  | 6 => fval fp16 (byteAt bs (2 * k) + 256 * byteAt bs (2 * k + 1))
  | _ => intFV (toS 8 (byteAt bs k))

/-- The scale code of element `k` of an M4S row or column (R99). -/
def scaleAt (bs : List Byte) (k : Nat) : Nat := ofBytes ((bs.drop (64 * (k / 32) + 32 + 4 * (k % 32 / 4))).take 4)

/-- The code at position `j` of a block (R97). -/
def qn4Code (bs : List Byte) (j : Nat) : Nat := if j % 2 = 0 then byteAt bs (j / 2) % 16 else byteAt bs (j / 2) / 16

/-- One block of R108: the exact block sum, and whether an activation scale in it is poison. -/
def qn4Block (pair kb : Nat) (a : List Byte) (codes : List Byte) : FV × Bool :=
  let group (g : Nat) : FV :=
    let k := 64 * kb + 4 * g
    let s := sumFV ((List.range 4).map fun t => fMul (elemFV pair a (k + t)) (qn4 (qn4Code codes (4 * g + t))))
    let c := scaleAt a k
    if (s20 c).isNone then .fin false 0 0 else fMul s (scaleFV c)
  (sumFV ((List.range 16).map group), (List.range 16).any fun g => (s20 (scaleAt a (64 * kb + 4 * g))).isNone)

/-- R108: one output, with its poison. -/
def accQn4 (pair k : Nat) (a : List Byte) (b : Col) (init : Nat) : Nat × Bool :=
  (List.range (k / 64)).foldl (fun (acc : Nat × Bool) kb =>
    let (x, p) := qn4Block pair kb a ((b.bytes.drop (32 * kb)).take 32)
    let c := b.scales.getD kb 0
    let bad := (s20 c).isNone
    (accStep acc.1 (if bad then .fin false 0 0 else fMul x (scaleFV c)), acc.2 || p || bad)) (init, false)

/-- R109, scaled pairings: one group of 32. -/
def scaledGroup (pair kg : Nat) (a b : List Byte) : FV × Bool :=
  let quad (q : Nat) : FV :=
    let k := 32 * kg + 4 * q
    let s := sumFV ((List.range 4).map fun t => fMul (elemFV pair a (k + t)) (elemFV pair b (k + t)))
    if (s20 (scaleAt a k)).isNone || (s20 (scaleAt b k)).isNone then .fin false 0 0
    else fMul (fMul s (scaleFV (scaleAt a k))) (scaleFV (scaleAt b k))
  (sumFV ((List.range 8).map quad),
    (List.range 8).any fun q => (s20 (scaleAt a (32 * kg + 4 * q))).isNone || (s20 (scaleAt b (32 * kg + 4 * q))).isNone)

/-- R109: one output of the other pairings; elements beyond K are +0. -/
def accPlain (pair k : Nat) (a : List Byte) (b : Col) (init : Nat) : Nat × Bool :=
  if pair = 4 then
    ((List.range k).foldl (fun acc i =>
      wrapU 32 (toS 32 acc + toS 8 (byteAt a i) * toS 8 (byteAt b.bytes i))) init, false)
  else
    (List.range ((k + 31) / 32)).foldl (fun (acc : Nat × Bool) kg =>
      if pair = 2 ∨ pair = 3 then
        let (x, p) := scaledGroup pair kg a b.bytes
        (accStep acc.1 x, acc.2 || p)
      else
        (accStep acc.1 (sumFV (((List.range 32).filter fun t => 32 * kg + t < k).map fun t =>
          fMul (elemFV pair a (32 * kg + t)) (elemFV pair b.bytes (32 * kg + t)))), acc.2)) (init, false)

/-- ONE OUTPUT of a task (R107 to R110). -/
def accumulate (pair k : Nat) (a : List Byte) (b : Col) (init : Nat) : Nat × Bool :=
  if pair ≤ 1 then accQn4 pair k a b init else accPlain pair k a b init

/-! ## The task record -/

/-- Bytes of a row of A, and of a column of B outside QN4 (R172, R174). -/
def rowBytes (pair k : Nat) : Nat := if pair = 4 then k else 2 * k

/-- The task a record describes (R172), for an MXQ access: it comes after the read of its record and what its element had acquired
(R336). -/
def readTask (id : Nat) (a : Acc) (b : List Byte) : Task :=
  let ctl := bfld b 1 1
  let cn := bfld b 2 1
  let ch := bfld b 0x30 2
  { id := id, line := a.line, th := a.th, seq := a.seq, node := a.node, pair := bfld b 0 1, init := ctl % 2 == 1,
    mir := ctl / 2 % 2 == 1, bwb := ctl / 4 % 2 == 1, queue := ctl / 8 % 4, scope := ctl / 32, cnt := cn % 16,
    count := cn / 16 % 2 == 1, wtile := bfld b 3 1, m := bfld b 4 1, n := bfld b 5 1, k := bfld b 6 2, a := bfld b 8 8,
    sa := bfld b 0x10 4, woff := bfld b 0x14 4, b := bfld b 0x18 8, c := bfld b 0x20 8, sc := bfld b 0x28 4,
    sb := bfld b 0x2C 4, chain := if ch = 0xFFFF then none else some ch, decl := bfld b 0x32 2,
    know := addNew a.id a.base, arr := 0, mismatch := [], halted := false, cols := [], row := 0, rowA := none,
    rowC := none, put := 0, wid := 0, out := [] }

/-- The checks of R172. -/
def taskOk (f : Fabric) (bs : List Byte) (t : Task) : Bool :=
  t.pair ≤ 6 && t.scope ≤ 5 && bfld bs 2 1 / 32 == 0 && (if t.bwb then decide (t.wtile < 16) else t.wtile == 0)
    && 1 ≤ t.m && t.m ≤ 64 && 1 ≤ t.n && t.n ≤ 64 && 1 ≤ t.k
    && (!decide (t.pair ≤ 1) || (t.k % 64 == 0 && t.bwb))
    && (!(t.pair == 2 || t.pair == 3) || t.k % 32 == 0)
    && t.a % 32 == 0 && t.sa % 32 == 0 && t.sb % 32 == 0 && t.c % 4 == 0 && t.sc % 4 == 0
    && (if t.bwb then t.b == 0 && t.woff % (if t.pair ≤ 1 then 4 else 32) == 0 else t.woff == 0 && t.b % 32 == 0)
    && (!t.bwb || (if t.pair ≤ 1 then decide (t.woff + 8452 * ((t.n * t.k + 16383) / 16384) ≤ 524288)
        else decide (t.woff + (t.n - 1) * t.sb + rowBytes t.pair t.k ≤ 524288)))
    && (match t.chain with
        | none => t.c != 0
        | some n => (match findChan f t.line n with | some c => (match c.writer with | .chain _ => true | _ => false) | none => false))
    && (bs.drop 0x34).all (· == 0)

/-- The bolt's matrix scheduler; an unlisted one has queued nothing (R173). -/
def getMx (f : Fabric) (l b : Nat) : MxBolt := (findMx f l b).getD ⟨l, b, 0, [[], [], [], []], []⟩

/-- Change a bolt's scheduler. -/
def putMx (x : MxBolt) (f : Fabric) : Fabric :=
  { f with mx := x :: f.mx.filter fun y => !(y.line == x.line && y.bolt == x.bolt) }

/-- A queue has room (R173). -/
def queueRoom (f : Fabric) (l b q : Nat) : Bool := ((getMx f l b).queues.getD q []).length < 64

/-- The 64 bytes an MXQ keeps while its result waits. -/
def heldBytes (a : Acc) : List Byte := (a.data.toList ++ a.cmp.toList).flatMap fun w => leBytes 4 w.toNat

def mxqRecordReadDue (id : Nat) (_ : Memory) (f : Fabric) : Bool :=
  match findAcc f id with
  | some a =>
    a.kind == .mxq && accReady f a
      && ((f.accs.filter fun b => b.line == a.line && b.th == a.th && b.id < a.id).all fun b =>
          b.kind != .ld && b.kind != .ldv && b.kind != .mxq)
      && (match a.result with
          | none => true
          | some _ => queueRoom f a.line (a.th / 256) (readTask 0 a (heldBytes a)).queue)
  | none => false

/-- The result of an MXQ reaches its destination and frees the entry (R335). -/
def mxqAnswer (a : Acc) (lane0 lane1 : Nat) (poison : Bool) (f : Fabric) : Fabric :=
  deliver false a.line a.th a.id ⟨Lanes.two (BitVec.ofNat 32 lane0) (BitVec.ofNat 32 lane1), poison⟩ a.seq a.node (retire a.id f)

/-- Check a record that has been read, and queue its task or keep it until the queue has room (R173, R335). -/
def mxqPlace (a : Acc) (bs : List Byte) (f : Fabric) : Fabric :=
  let (id, g) := fresh f
  let t := readTask id a bs
  if !taskOk f bs t then mxqAnswer a 0xFFFFFFFF 1 a.poison f
  else if queueRoom f a.line (a.th / 256) t.queue then
    let x := getMx f a.line (a.th / 256)
    let f := putMx { x with
      ticket := (x.ticket + 1) % 2 ^ 32
      queues := x.queues.zipIdx.map fun y => if y.2 = t.queue then y.1 ++ [t] else y.1 } g
    mxqAnswer a x.ticket 0 a.poison f
  else
    let ws (i : Nat) : Word := BitVec.ofNat 32 (ofBytes ((bs.drop (4 * i)).take 4))
    updAcc a.id (fun y => { y with
      data := Lanes.ofFn ws, cmp := Lanes.ofFn (fun i => ws (8 + i)), result := some (Lanes.zero, false) }) f

/-- MXQ_RECORD_READ (R173, R335, R336). R173 answers 2 only for a record that reads poisoned; no rule speaks of a poisoned offset:
DEDUCED the record it names is read and placed as any other, and d is poisoned (R45; log 87). -/
def mxqRecordRead (id : Nat) (m : Memory) (f : Fabric) : Fabric :=
  match findAcc f id with
  | some a =>
    match a.result with
    | some _ => mxqPlace a (heldBytes a) f
    | none =>
      let (vs, poi, cost, rels, f) := readLanes m a (accRuns f a) f
      let f := takeReleases a rels (charge (vfOf a.line) cost (chargeRec f a) f a.gen)
      if poi then mxqAnswer a 0xFFFFFFFF 2 true f
      else
        let a := { a with base := union (ownStores f a) a.base }
        mxqPlace a (vs.flatMap fun w => leBytes 4 w.toNat) (updAcc id (fun x => { x with base := a.base }) f)
  | none => f

def execMxqRecordRead (id : Nat) (s : State) : Host.Outcome State Fault Refusal :=
  runEvent (mxqRecordReadDue id) (mxqRecordRead id) s

/-! ## Issue -/

/-- The output range of a task (R174). -/
def outRange (t : Task) : Nat × Nat := if t.c = 0 then (0, 0) else (t.c, t.c + (t.m - 1) * t.sc + 4 * t.n)

/-- The input ranges of a task (R174). -/
def inRanges (t : Task) : List (Nat × Nat) :=
  [(t.a, t.a + (t.m - 1) * t.sa + rowBytes t.pair t.k)]
    ++ (if t.bwb then [] else [(t.b, t.b + (t.n - 1) * t.sb + rowBytes t.pair t.k)])
    ++ (if t.init then [outRange t] else [])

/-- Two ranges share an address. -/
def meet (x y : Nat × Nat) : Bool := decide (x.1 < y.2) && decide (y.1 < x.2)

/-- Two tasks conflict (R174). -/
def conflict (x y : Task) : Bool :=
  ((outRange y :: inRanges y).any fun r => meet (outRange x) r) || ((outRange x :: inRanges x).any fun r => meet (outRange y) r)

/-- The array a head would issue on (R174). -/
def arrayFor (x : MxBolt) (t : Task) : Option Nat :=
  let free (a : Nat) : Bool := !(x.flight.any fun y => y.arr == a)
  if t.bwb then (if free t.wtile then some t.wtile else none) else (List.range 16).find? free

/-- The first queue whose head issues now, with the head and its array (R174). -/
def nextTask (x : MxBolt) : Option (Nat × Task × Nat) :=
  if 32 ≤ x.flight.length then none
  else (List.range 4).findSome? fun q =>
    match x.queues.getD q [] with
    | t :: _ => if x.flight.any (conflict t) then none else (arrayFor x t).map fun a => (q, t, a)
    | [] => none

/-- The tile whose array a task runs on (R174). -/
def taskTile (t : Task) : Nat := t.th / 256 * 16 + t.arr

def mxTaskIssueDue (l bolt : Nat) (_ : Memory) (f : Fabric) : Bool :=
  match nextTask (getMx f l bolt) with
  | some (_, t, a) => tileServes f l (tileOf t.th) && tileServes f l (taskTile { t with arr := a })
  | none => false

/-- The words a task's count node counts (R175): those written to C and 8 for each chain token. -/
def taskWords (t : Task) : Nat := (if t.c = 0 then 0 else t.m * t.n) + (if t.chain.isSome then 8 * (t.m * ((t.n + 7) / 8)) else 0)

/-- The task's array mirrors (R176). -/
def mirrored (f : Fabric) (t : Task) : Bool :=
  ((findLine f t.line).map fun x => x.cls) == some 2 || (t.mir && t.n ≤ 32)

/-- Outputs of an array drawn freely: how many, then each. -/
def drawOutputs (vf m n : Nat) : Nat → List (Nat × Nat) → Fabric → List (Nat × Nat) × Fabric
  | 0, ys, f => (ys, f)
  | k + 1, ys, f =>
    let (i, f) := pick vf (m * n) f
    drawOutputs vf m n k (addNew (i / n, i % n) ys) f

/-- The outputs at which the two halves of a mirrored task will differ: none, or any the hardware's errors strike (R176). -/
def drawMismatch (t : Task) (f : Fabric) : List (Nat × Nat) × Fabric :=
  if mirrored f t then
    let (k, f) := pick (vfOf t.line) (t.m * t.n + 1) f
    drawOutputs (vfOf t.line) t.m t.n k [] f
  else ([], f)

/-- MX_TASK_ISSUE (R168, R174). -/
def mxTaskIssue (l bolt : Nat) (_ : Memory) (f : Fabric) : Fabric :=
  let x := getMx f l bolt
  match nextTask x with
  | some (q, t, a) =>
    let (bad, f) := drawMismatch t f
    let f := putMx { x with
      queues := x.queues.zipIdx.map (fun y => if y.2 = q then y.1.drop 1 else y.1), flight := x.flight ++ [{ t with arr := a, mismatch := bad }] } f
    if t.count then startCount l (tileOf t.th) t.cnt t.decl (taskWords t) t.scope f else f
  | none => f

def execMxTaskIssue (l bolt : Nat) (s : State) : Host.Outcome State Fault Refusal := runEvent (mxTaskIssueDue l bolt) (mxTaskIssue l bolt) s

/-! ## A running task -/

/-- A task in flight on a line. -/
def findTask (f : Fabric) (l id : Nat) : Option Task :=
  (f.mx.filter fun b => b.line == l).findSome? fun b => b.flight.find? fun t => t.id == id

/-- Change a task in flight. -/
def updTask (l id : Nat) (g : Task → Task) (f : Fabric) : Fabric :=
  { f with mx := upd (fun b => b.line == l) (fun b => { b with flight := upd (fun t => t.id == id) g b.flight }) f.mx }

/-- A fault of a task: it halts at the access (R175, R208). -/
def taskFault (t : Task) (x : XFault × Nat) (f : Fabric) : Fabric :=
  takeFault { engineRec f t.line (tileOf t.th) 3 0xFF x.1.1 x.1.2 x.2 (.task t.id) with
      seq := t.seq, node := t.node, loopv := nodeLoop f t.line t.th t.node } false
    (updTask t.line t.id (fun y => { y with halted := true }) f)

/-- Read `n` bytes of a weight buffer for the access in progress, under the class of the line that issued the task: its rows
carry the code of R125 (R170). `w` is the buffer's tile and `at_` its physical tile. -/
def wbufRead (vf cls : Nat) (w : Tile) (at_ off n : Nat) (f : Fabric) : PhysRead × Fabric :=
  let byte (i : Nat) : Byte := ((w.wbuf.find? fun x => x.1 == i).map Prod.snd).getD Config.unwritten
  let bad := w.wbufPoison.any fun u => off / 32 ≤ u && u ≤ (off + n - 1) / 32
  let rows := (List.range ((off + n - 1) / 8 - off / 8 + 1)).map fun i => (off / 8 + i) * 8
  (rows.filter fun r => f.errs.any fun e => e.at_ == wbufUnit at_ r).foldl (fun acc r =>
    let (s, g) := readUnit vf cls (wbufUnit at_ r) ((List.range 8).map fun i => byte (r + i)) acc.2
    let bytes := acc.1.bytes.zipIdx.map fun (b, i) => if r ≤ off + i && off + i < r + 8 then s.bytes.getD (off + i - r) b else b
    (⟨bytes, acc.1.poison || s.poison, acc.1.cost + s.cost⟩, g)) (⟨(List.range n).map fun i => byte (off + i), bad, 0⟩, f)

/-- One block of a QN4 column: its codes, its scale and its poison (R97, R98, R171). -/
def qn4Part (vf cls : Nat) (w : Tile) (at_ woff b : Nat) (f : Fabric) : List Byte × Nat × Bool × Nat × Fabric :=
  let base := woff + 8452 * (b / 256)
  let p := b % 256
  let (sup, f) := wbufRead vf cls w at_ (base + 0x2100) 4 f
  let (scl, f) := wbufRead vf cls w at_ (base + 0x2000 + p) 1 f
  let (cod, f) := wbufRead vf cls w at_ (base + 32 * p) 32 f
  (cod.bytes, blockScale (ofBytes sup.bytes) (ofBytes scl.bytes), sup.poison || scl.poison || cod.poison,
    sup.cost + scl.cost + cod.cost, f)

/-- Column `j` of a QN4 operand, and what its errors cost (R97, R98, R170, R171). -/
def qn4Col (vf cls : Nat) (w : Tile) (at_ : Nat) (t : Task) (j : Nat) (f : Fabric) : Col × Nat × Fabric :=
  (List.range (t.k / 64)).foldl (fun (acc : Col × Nat × Fabric) kb =>
    let (cod, scl, poi, cost, f) := qn4Part vf cls w at_ t.woff (j * (t.k / 64) + kb) acc.2.2
    (⟨acc.1.bytes ++ cod, acc.1.scales ++ [scl], acc.1.poison || poi⟩, acc.2.1 + cost, f)) (⟨[], [], false⟩, 0, f)

/-- Charge a task's reads (R125, R131). -/
def taskCharge (t : Task) (cost : Nat) (f : Fabric) : Fabric :=
  charge (vfOf t.line) cost { engineCharge f t.line (tileOf t.th) 3 with seq := t.seq, node := t.node, loopv := nodeLoop f t.line t.th t.node } f

/-- Fetch column `j` of B (R170, R171, R172, R175). -/
def fetchCol (m : Memory) (t : Task) (j : Nat) (f : Fabric) : Except (XFault × Nat) Col × Fabric :=
  let n := rowBytes t.pair t.k
  let vf := vfOf t.line
  if t.bwb then
    let wt := t.th / 256 * 16 + t.wtile
    let cls := ((findLine f t.line).map fun x => x.cls).getD 0
    let at_ := physTile f (boltOf f t.line (t.th / 256)) t.wtile
    match findTile f t.line wt with
    | some w =>
      if t.pair ≤ 1 then
        let (c, cost, f) := qn4Col vf cls w at_ t j (newAccess f)
        (.ok c, taskCharge t cost f)
      else
        let (r, f) := wbufRead vf cls w at_ (t.woff + j * t.sb) n (newAccess f)
        (.ok ⟨r.bytes, [], r.poison⟩, taskCharge t r.cost f)
    | none => (.ok ⟨[], [], false⟩, f)
  else
    match engXlate m t.line (tileOf t.th) .read (t.b + j * t.sb : Nat) n f with
    | (.error e, f) => (.error e, f)
    | (.ok ps, f) =>
      let (r, f) := engRead m t.line t.know ps f
      (.ok ⟨r.bytes, [], r.poison⟩, taskCharge t r.cost f)

/-- The outputs of row `i`: value and poison (R107 to R110, R176). The spec does not say how much of C one read of INIT = 1 takes:
DESIGN CHOICE the row, and a poisoned word of it poisons every output of the row (log 70). -/
def rowOut (f : Fabric) (t : Task) (i : Nat) (a c : List Byte × Bool) : List (Nat × Bool) :=
  t.cols.zipIdx.map fun (b, j) =>
    let (v, p) := accumulate t.pair t.k a.1 b (bfld c.1 (4 * j) 4)
    (v, p || a.2 || b.poison || c.2 || (mirrored f t && t.mismatch.contains (i, j)))

/-- Write the words of a row of C from word `j` on, ascending (R175): how many are written, and the fault that stops it. -/
def writeRow (m : Memory) (t : Task) (id : Nat) : Nat → List (Nat × Bool) → Fabric → Nat × Option (XFault × Nat) × Fabric
  | j, [], f => (j, none, f)
  | j, (v, poi) :: r, f =>
    let va := t.c + t.row * t.sc + 4 * j
    let w : Writer := ⟨24576 + tileOf t.th, id, t.know, 0xFF, t.node, t.seq⟩
    match engXlate m t.line (tileOf t.th) .write (va : Nat) 4 f with
    | (.error e, f) => (j, some e, f)
    | (.ok ps, f) =>
      match engWrite m t.line w poi ps (leBytes 4 v) f with
      | some f => writeRow m t id (j + 1) r f
      | none => (j, some ((9, 0), va), f)

/-- The chain tokens of a row (R175). -/
def rowTokens (t : Task) (id : Nat) (vs : List (Nat × Bool)) : List Token :=
  (List.range ((t.n + 7) / 8)).map fun k =>
    let ws := (vs.drop (8 * k)).take 8
    ⟨Lanes.ofList (ws.map fun x => BitVec.ofNat 32 x.1), 0, ws.any Prod.snd, t.node, t.seq, addNew id t.know⟩

/-- One read of a task: its bytes and poison. -/
def taskRead (m : Memory) (t : Task) (va n : Nat) (f : Fabric) : Except (XFault × Nat) (List Byte × Bool) × Fabric :=
  match engXlate m t.line (tileOf t.th) .read (va : Nat) n f with
  | (.error e, f) => (.error e, f)
  | (.ok ps, f) =>
    let (r, f) := engRead m t.line t.know ps f
    (.ok (r.bytes, r.poison), taskCharge t r.cost f)

/-- A row is written: it is acknowledged, and its chain tokens wait (R168, R175). -/
def finishRow (t : Task) (id : Nat) (vs : List (Nat × Bool)) (f : Fabric) : Fabric :=
  let tile := tileOf t.th
  let f := if t.count && t.c != 0 then addAck t.line tile t.cnt t.n (vs.any Prod.snd) id id t.know true none f else f
  updTask t.line t.id (fun y => { y with
    row := y.row + 1, rowA := none, rowC := none, put := 0, wid := 0, know := addNew id y.know,
    out := if t.chain.isSome then rowTokens t id vs else [] })
    (updTile t.line tile (fun y => { y with mxAccs := addNew id y.mxAccs }) f)

/-- The next part of a row of a task: read A's row, then C's, then write C word by word (R175). A fault halts the task at that
access, and a resume goes on there. A record with INIT = 1 and C = 0 has nothing to load, and R172 does not refuse it: DESIGN
CHOICE its accumulators start from zero (log 70). -/
def taskRow (m : Memory) (t : Task) (f : Fabric) : Fabric :=
  match t.rowA with
  | none =>
    (match taskRead m t (t.a + t.row * t.sa) (rowBytes t.pair t.k) f with
    | (.error e, f) => taskFault t e f
    | (.ok a, f) => updTask t.line t.id (fun y => { y with rowA := some a }) f)
  | some a =>
    if t.init && t.c != 0 && t.rowC.isNone then
      match taskRead m t (t.c + t.row * t.sc) (4 * t.n) f with
      | (.error e, f) => taskFault t e f
      | (.ok c, f) => updTask t.line t.id (fun y => { y with rowC := some c }) f
    else
      let vs := rowOut f t t.row a (t.rowC.getD ([], false))
      let (id, f) := if t.wid = 0 then fresh f else (t.wid, f)
      if t.c = 0 then finishRow t id vs f
      else
        match writeRow m t id t.put (vs.drop t.put) (newAccess f) with
        | (_, none, f) => finishRow t id vs f
        | (j, some e, f) => taskFault t e (updTask t.line t.id (fun y => { y with put := j, wid := id }) f)

/-- The chain channel has room for a token. -/
def chainRoom (f : Fabric) (t : Task) : Bool :=
  match t.chain.bind fun n => findChan f t.line n with
  | some c => decide (1 ≤ roomOf f c)
  | none => false

/-- Commit one chain token; the count node counts its 8 words (R175). -/
def chainToken (t : Task) (tok : Token) (f : Fabric) : Fabric :=
  match t.chain with
  | some n =>
    let f := markMoved t.line (updChan t.line n (commitTok tok f) f)
    let f := updTask t.line t.id (fun y => { y with out := y.out.drop 1 }) f
    if t.count then addAck t.line (tileOf t.th) t.cnt 8 tok.poison 0 0 t.know true none f else f
  | none => f

/-- The end of a task (R125, R176). Where its array is another tile's than its issuer's, R176 and R241 do not say whose counters take
its events: DESIGN CHOICE events 8 and 15 count at the tile of the element that issued it (log 86). -/
def endTask (t : Task) (f : Fabric) : Fabric :=
  let f := { f with mx := f.mx.map fun b => if b.line = t.line then { b with flight := b.flight.filter fun y => y.id != t.id } else b }
  let f := countEvent t.line (tileOf t.th) 8 f
  if mirrored f t && !t.mismatch.isEmpty then
    taskCharge t 16 (countEvent t.line (tileOf t.th) 15 f)
  else f

/-- Run a task as far as the chain channel and its faults let it (R175). -/
def runTask (m : Memory) (l id : Nat) : Nat → Fabric → Fabric
  | 0, f => f
  | k + 1, f =>
    match findTask f l id with
    | some t =>
      if t.halted then f
      else if t.cols.length < t.n then
        match fetchCol m t t.cols.length f with
        | (.error e, f) => taskFault t e f
        | (.ok c, f) => runTask m l id k (updTask l id (fun y => { y with cols := y.cols ++ [c] }) f)
      else match t.out with
        | tok :: _ => if chainRoom f t then runTask m l id k (chainToken t tok f) else f
        | [] => if t.row < t.m then runTask m l id k (taskRow m t f) else endTask t f
    | none => f

/-- A task that is not stalled goes on: what it comes after is performed, and a chain token waiting has room (R175, R336). -/
def mxTaskCompleteDue (l id : Nat) (_ : Memory) (f : Fabric) : Bool :=
  match findTask f l id with
  | some t =>
    !t.halted && (pendingOf f t.know).isEmpty && tileFinishes f l (taskTile t) && (t.out.isEmpty || chainRoom f t)
  | none => false

/-- MX_TASK_COMPLETE (R175, R176): the task runs to its end, or to where a full chain channel or a fault holds it. -/
def mxTaskComplete (l id : Nat) (m : Memory) (f : Fabric) : Fabric :=
  match findTask f l id with
  | some t => runTask m l id (t.n + 12 * t.m + 2) f
  | none => f

def execMxTaskComplete (l id : Nat) (s : State) : Host.Outcome State Fault Refusal :=
  runEvent (mxTaskCompleteDue l id) (mxTaskComplete l id) s

end Sys2Proof.Machine
end

