-- ==== Sys2Proof/Machine/Anvil.lean ====
section
/-!
DEFINITION. The anvil: the launch queue, placement and the loading of an image (R178, R185 to R196, R187, R190, R246, R355,
R368, R376): LQ_DB, LAUNCH_RECORD, LINE_PLACEMENT, PREREQUISITES_MET and SPAWN_ANSWER.
-/
namespace Sys2Proof.Machine

/-! ## The anvil's own accesses -/

/-- Read bytes at a virtual address of an interface for the anvil. R131 gives the anvil's reads no unit kind: DESIGN CHOICE a charge they
meet names kind 0xFF (log 79). -/
def anvilRead (m : Memory) (vf ps va n : Nat) (f : Fabric) : Option (PhysRead × Fabric) :=
  if regionArea ≤ va then none
  else
    match walk m { Rec.blank vf 7 with pasid := ps } f vf ps va with
    | (.error _, _) => none
    | (.ok (e, big, at_, page), f) =>
      match leafCheck f vf none e big false with
      | some _ => none
      | none =>
        let p := leafPlace vf e big va
        let (r, g) := readPhys m vf p.cls p.phys n (noteScrub vf ps (cacheKey big page) e big at_ (newAccess f))
        some (r, charge vf r.cost { Rec.blank vf 7 with pasid := ps } g)

/-- Write a record at a virtual address of an interface; one that does not translate is not written. -/
def anvilWrite (m : Memory) (vf ps va : Nat) (bs : List Byte) (know : List Nat) (rel : List Release) (f : Fabric) : Fabric :=
  if regionArea ≤ va then f
  else
    match peerXlate m f vf ps va with
    | (some p, g) => let (id, g) := fresh g; writeEngine m vf p.cls p.phys id bs false know rel g
    | (none, _) => f

/-- The argument block (R187): `n` slots of 32 bytes. -/
def readArgs (m : Memory) (vf ps args : Nat) : Nat → Fabric → Option (List Lanes × Fabric)
  | 0, f => some ([], f)
  | n + 1, f =>
    match readArgs m vf ps args n f with
    | some (l, f) =>
      match anvilRead m vf ps (args + 32 * n) 32 f with
      | some (r, f) => some (l ++ [lanesOf r.bytes], f)
      | none => none
    | none => none

/-- A completion record (R189). -/
def cplBytes (tag status emitted beats ovr ovf str beat : Nat) : List Byte :=
  leBytes 4 tag ++ leBytes 4 status ++ leBytes 8 emitted ++ leBytes 8 beats ++ leBytes 4 ovr ++ leBytes 4 ovf ++ leBytes 4 str
    ++ leBytes 4 beat ++ leBytes 24 0

/-- The end-of-stream of rank 3 that a closed link gives (R194, R195). -/
def rank3 : Token := ⟨Lanes.zero, 5, false, 0xFFF, 0, []⟩

/-- A mailbox or link loses its writer: an end-of-stream of rank 3 goes to its reader, and meets one that is pending under R48
(R194, R195). Where the channel is full no rule says: DESIGN CHOICE the end-of-stream is committed beyond its depth (log 32). -/
def loseWriter (f : Fabric) (c : Chan) : Chan :=
  let c := { c with staged := c.staged.filter fun s => s.committed && s.await.isNone }
  { commitPend [] f (foldPend rank3 [] f c) with writer := .boundary, staged := [] }

/-- A mailbox or link loses its reader: it closes and its tokens are discarded (R194, R195). -/
def loseReader (c : Chan) : Chan :=
  { c with reader := .boundary, closed := true, q := [], raw := [], part := [], nodePend := none }

/-- A launch goes without becoming a line: the links that were to lead to it close (R195; log 32). -/
def dropLaunch (x : Launch) (f : Fabric) : Fabric :=
  let key := linkKey x.vf
  let shut (c : Chan) : Chan :=
    match f.links.find? fun k => k.vf == x.vf && k.launch == some x.id && c.line == key && c.num == k.num with
    | some k => if k.down then loseReader c else loseWriter f c
    | none => c
  { f with launches := f.launches.filter (fun y => y.id != x.id), chans := f.chans.map shut }

/-- A launch that leaves no line: its completion record, with a status, and its message (R187, R189). -/
def closeLaunch (m : Memory) (x : Launch) (status : Nat) (f : Fabric) : Fabric :=
  let f := anvilWrite m x.vf x.ps x.cpl (cplBytes x.tag status 0 0 0 0 0 0) [] [] (dropLaunch x f)
  if x.flags % 2 = 1 ∧ x.vec < 64 then { f with msix := f.msix ++ [⟨x.vf, x.vec⟩] } else f

/-- A launch is refused, for its image or for its record (R187): a LOAD_ILLEGAL record, and status 2. -/
def refuseLaunch (m : Memory) (x : Launch) (e : Fail) (image : Bool) (f : Fabric) : Fabric :=
  closeLaunch m x 2 (loadIllegal x.vf x.ps none e f image)

/-! ## The launch queue -/

def lqDbDue (_ : Memory) (_ : Fabric) : Bool := true

/-- LQ_DB (R186): a doorbell too far ahead, or to a disabled queue, is ignored and recorded. -/
def lqDb (vf ps tail : Nat) (_ : Memory) (f : Fabric) : Fabric :=
  let i := getIface f vf ps
  let t := tail % 2 ^ 32
  if i.lqLog = 0 ∨ 2 ^ i.lqLog < (t + 2 ^ 32 - i.lqAcc) % 2 ^ 32 then loadIllegal vf ps none (Fail.image 1) f false
  else updIface vf ps (fun x => { x with lqTail := t }) f

def execLqDb (vf ps tail : Nat) (s : State) : Host.Outcome State Fault Refusal := runEvent lqDbDue (lqDb vf ps tail) s

/-- The virtual address of the next record the device will accept. -/
def slotAddr (i : Iface) : Nat := i.lqBase + 64 * (i.lqAcc % 2 ^ i.lqLog)

def launchRecordDue (vf ps : Nat) (m : Memory) (f : Fabric) : Bool :=
  let i := getIface f vf ps
  i.lqAcc != i.lqTail && i.lqLog != 0 && (anvilRead m vf ps (slotAddr i) 64 f).isSome

/-- A prerequisite's bytes: TAG, tile, node and count (R187). -/
def readPre (b : List Byte) : List (Nat × Nat × Nat × Nat) :=
  let n := bfld b 6 1
  if n / 128 = 1 then [(bfld b 0 4, bfld b 4 2, n % 16, bfld b 8 4)] else []

/-- LAUNCH_RECORD (R186, R187): the record is copied and ACC rises. The launch's flags hold TYPE above bit 8. -/
def launchRecord (vf ps : Nat) (m : Memory) (f : Fabric) : Fabric :=
  let i := getIface f vf ps
  match anvilRead m vf ps (slotAddr i) 64 f with
  | some (r, f) =>
    let b := r.bytes
    let (id, f) := fresh f
    let x : Launch := {
      id := id, vf := vf, ps := ps, flags := bfld b 1 1 + 256 * bfld b 0 1, seq := bfld b 2 2, tag := bfld b 4 4,
      image := bfld b 8 8, args := bfld b 0x10 8, narg := some (bfld b 0x18 4), cpl := bfld b 0x1C 4,
      pre := readPre (b.drop 0x20) ++ readPre (b.drop 0x2C), vec := bfld b 0x38 1, depth := 0, spawner := none,
      since := f.cycle, know := (getPart f vf).released }
    updIface vf ps (fun y => { y with lqAcc := (y.lqAcc + 1) % 2 ^ 32 }) { f with launches := f.launches ++ [x] }
  | none => f

def execLaunchRecord (vf ps : Nat) (s : State) : Host.Outcome State Fault Refusal :=
  runEvent (launchRecordDue vf ps) (launchRecord vf ps) s

/-! ## Bolts and frames -/

/-- A line holds its bolts unless it is saved (R219). -/
def holdsBolts (x : Line) : Bool := !x.saved

/-- The free bolts of a partition, ascending (R190, R220). -/
def freeBolts (f : Fabric) (vf : Nat) : List Nat :=
  (List.range 48).filter fun b =>
    (getPart f vf).grant / 2 ^ b % 2 == 1 && !(f.lines.any fun x => holdsBolts x && x.bolts.contains b)
      && !(f.module_.scrubbing.any fun s => s.1 == b)

/-- Every edge link among the logical bolts placed so far joins adjacent bolts on the named side (R190). -/
def linksOk (links : List (Nat × Nat × Nat)) (bs : List Nat) : Bool :=
  links.all fun x => match bs[x.1]?, bs[x.2.2]? with
    | some a, some b => Config.adjacent a (x.2.1 / 4) b
    | _, _ => true

/-- Every edge link joins two of the line's bolts that are adjacent on the named sides (R190): none joins a bolt the line lacks. -/
def linksJoin (links : List (Nat × Nat × Nat)) (bs : List Nat) : Bool :=
  linksOk links bs && links.all fun x => decide (x.1 < bs.length ∧ x.2.1 < 16 ∧ x.2.2 < bs.length)

/-- The first mapping of `k` more logical bolts onto free bolts, each tried in ascending order (R190). -/
def mapBolts (links : List (Nat × Nat × Nat)) (free : List Nat) : Nat → List Nat → Option (List Nat)
  | 0, acc => if linksJoin links acc then some acc else none
  | k + 1, acc =>
    free.findSome? fun b =>
      if acc.contains b || !linksOk links (acc ++ [b]) then none else mapBolts links free k (acc ++ [b])

/-- The DRAM channels of a line's logical tiles, in order (R376). Which channel is a tile's no rule numbers: DESIGN CHOICE tile t of
bolt b has channel 16 b + t, its own where a spare has taken its place (R1; log 16). -/
def channelsOf (bolts : List Nat) : List Nat := bolts.flatMap fun b => (List.range 16).map fun t => b * 16 + t

/-- A free frame of the pool on a channel, whose units lie within it (R7, R124, R225, R376). -/
def frameOn (f : Fabric) (vf cls ch : Nat) : Option Nat :=
  let p := getPart f vf
  p.pool.find? fun fr => fr / 2 ^ 20 == ch && frameForm cls fr && p.frames.contains fr && !p.poolUsed.contains fr

/-- Take a frame: it reads as zero (R221, R376). -/
def takeFrame (vf cls fr : Nat) (f : Fabric) : Fabric :=
  beginScrub vf cls [fr] (updPart vf (fun p => { p with poolUsed := fr :: p.poolUsed }) f)

/-- Page `i` goes on the channel of tile `i mod` the tiles, or the next one with a free frame (R376). -/
def allocPage (vf cls i : Nat) (chs : List Nat) (f : Fabric) : Option (Nat × Fabric) :=
  ((List.range chs.length).findSome? fun k => frameOn f vf cls (chs.getD ((i + k) % chs.length) 0)).map fun fr => (fr, takeFrame vf cls fr f)

/-- Pages `i` to `i + n - 1` of a region; none when the pool lacks frames. -/
def allocPages (vf cls : Nat) (chs : List Nat) : Nat → Nat → Fabric → Option (List Nat × Fabric)
  | 0, _, f => some ([], f)
  | n + 1, i, f =>
    match allocPage vf cls i chs f with
    | some (fr, f) => (allocPages vf cls chs n (i + 1) f).map fun x => (fr :: x.1, x.2)
    | none => none

/-- Free frames of the pool. -/
def freeFrames (vf : Nat) (l : List Nat) (f : Fabric) : Fabric :=
  updPart vf (fun p => { p with poolUsed := p.poolUsed.filter fun x => !l.contains x }) f

/-- Pages of a region of a size. -/
def pageCount (size : Nat) : Nat := (size + 65535) / 65536

/-- Give a region the pages it lacks: those of a DRAM region, and those of the overflow area of a planed one, 16 bytes an entry
(R113, R123, R376; log 34). -/
def allocRegion (vf : Nat) (chs : List Nat) (r : Region) (f : Fabric) : Option (Region × Fabric) :=
  match allocPages vf r.cls chs (if r.slice then 0 else pageCount r.size - r.pages.length) r.pages.length f with
  | some (ps, f) =>
    (allocPages vf r.cls chs (if r.planes = 0 then 0 else pageCount (16 * r.ovf) - r.ovfPages.length) r.ovfPages.length f).map fun x =>
      ({ r with pages := r.pages ++ ps.map fun fr => (fr, false), ovfPages := r.ovfPages ++ x.1 }, x.2)
  | none => none

/-- Give the regions of a line their pages, in record order. -/
def allocRegions (vf : Nat) (chs : List Nat) : List Region → Fabric → Option (List Region × Fabric)
  | [], f => some ([], f)
  | r :: rs, f =>
    match allocRegion vf chs r f with
    | some (r, f) => (allocRegions vf chs rs f).map fun x => (r :: x.1, x.2)
    | none => none

/-! ## Loading an image -/

/-- An end as an end of line `l`. -/
def End.on (l : Nat) : End → End
  | .elem _ th h => .elem l th h
  | .inbox _ st => .inbox l st
  | e => e

/-- The delay at which each end of a channel sees the other (R46): 2 cycles in one tile, else 1 plus the route latency and at
least 2. On a converting channel the whole of it passes before the swage node (log 70). -/
def chanDelay (img : Image) (c : ChanRec) : Nat :=
  if recTile img c.writer = recTile img c.reader ∧ (recTile img c.writer).isSome = true then 2 else Nat.max 2 (1 + c.route)

/-- The ends of a channel lie in different tiles (R215). -/
def crosses (img : Image) (c : ChanRec) : Bool :=
  match recTile img c.writer, recTile img c.reader with
  | some a, some b => a != b
  | _, _ => false

/-- A channel made from its record. -/
def newChan (img : Image) (l n : Nat) (c : ChanRec) (w r : End) (closed : Bool) (q : List Slot) : Chan where
  line := l
  num := n
  writer := w
  reader := r
  depth := c.depth
  conv := c.conv
  delay := chanDelay img c
  gate := c.gate
  crossTile := crosses img c
  swage := c.swage
  ports := c.ports
  bnode := c.bnode
  swageHop := c.swageHop
  q := q
  raw := []
  part := []
  staged := []
  pend := none
  nodePend := none
  nodeEos := 0
  freed := []
  closed := closed
  gateRec := none

/-- A fresh channel number among the partition's links: above every mailbox. -/
def freshLink (f : Fabric) : Nat × Fabric := let (n, f) := fresh f; (256 + n, f)

/-- Join an end of mailbox `n` (R195): the reader's record governs the channel; before it the depth is 4. -/
def joinMailbox (img : Image) (l : Nat) (c : ChanRec) (f : Fabric) : Fabric :=
  let key := linkKey (vfOf l)
  let n := c.linkNum
  if c.writer == .boundary then
    (match findChan f key n with
    | some _ => updChan key n (fun x => { x with
        reader := c.reader.on l, depth := c.depth, conv := c.conv, swage := c.swage, delay := chanDelay img c, gate := c.gate, closed := false }) f
    | none => { f with chans := f.chans ++ [newChan img key n c .boundary (c.reader.on l) false []] })
  else
    match findChan f key n with
    | some _ => updChan key n (fun x => { x with writer := c.writer.on l }) f
    | none => { f with chans := f.chans ++ [newChan img key n { c with depth := 4 } (c.writer.on l) .boundary false []] }

/-- The element and handle of an end. -/
def endOf (e : End) : Nat × Nat := match e with | .elem _ th h => (th, h) | _ => (0, 0)

/-- A spawn port's end in a spawning line (R195). -/
def openSpawn (img : Image) (l : Nat) (c : ChanRec) (f : Fabric) : Nat × Fabric :=
  let key := linkKey (vfOf l)
  let (n, f) := freshLink f
  let down := c.reader == .boundary
  let (th, h) := endOf (if down then c.writer else c.reader)
  (n, { f with
    chans := f.chans ++ [newChan img key n c (c.writer.on l) (c.reader.on l) false []]
    links := f.links ++ [⟨vfOf l, n, l, th, c.linkNum, down, h, none⟩] })

/-- A parent port's end in a line: it joins the link of its launch, or a closed one (R195). -/
def joinParent (img : Image) (l launch : Nat) (c : ChanRec) (f : Fabric) : Nat × Fabric :=
  let key := linkKey (vfOf l)
  let reads := c.writer == .boundary
  match f.links.find? fun k => k.vf == vfOf l && k.launch == some launch && k.port == c.linkNum && k.down == reads with
  | some k =>
    (k.num, updChan key k.num (fun x => if reads then { x with reader := c.reader.on l } else { x with writer := c.writer.on l }) f)
  | none =>
    let (n, f) := freshLink f
    (n, { f with chans := f.chans ++
      [newChan img key n c (c.writer.on l) (c.reader.on l) true (if reads then [⟨rank3, 0⟩] else [])] })

/-- Make a line's channels; the answer maps each record to its channel's key and number. -/
def loadChans (img : Image) (l launch : Nat) : List (ChanRec × Nat) → Fabric → List (Nat × Nat × Nat) × Fabric
  | [], f => ([], f)
  | (c, i) :: r, f =>
    let key := linkKey (vfOf l)
    let (here, f) :=
      if c.handoff then ((l, i), f)
      else if c.link = 1 then ((key, c.linkNum), joinMailbox img l c f)
      else if c.link = 2 then let (n, f) := openSpawn img l c f; ((key, n), f)
      else if c.link = 3 then let (n, f) := joinParent img l launch c f; ((key, n), f)
      else ((l, i), { f with chans := f.chans ++ [newChan img l i c (c.writer.on l) (c.reader.on l) false []] })
    let (rest, f) := loadChans img l launch r f
    ((i, here) :: rest, f)

/-- A handle's binding (R16, R79, R370): a c0 that no channel record names is the inbox of its station. DESIGN CHOICE any input handle
that names a channel into an inbox, another station's also, is the inbox of the element's own station, and a handle is bound to the
channel its record names, whichever ends that channel names (log 91). -/
def bindHandle (img : Image) (map : List (Nat × Nat × Nat)) (h : Nat) (n : Option Nat) : Handle :=
  match n with
  | none => if h = 0 then .inbox else .unbound
  | some n =>
    match img.chans[n]? with
    | some c =>
      if h < 4 && toInbox c then .inbox
      else if c.handoff then .outbox
      else match map.find? fun x => x.1 == n with | some (_, k, m) => .chan k m | none => .unbound
    | none => .unbound

/-- The windows of an image, resolved at launch (R114, R246, R376). -/
def resolveWindows (img : Image) (args : List Lanes) : List Window :=
  img.windows.map fun (w, ba, la) =>
    let base := match w.region.bind fun r => img.regions[r]? with
      | some r => regionArea + r.at_ + w.base
      | none => match ba with | some j => argAddr (args.getD j Lanes.zero) + w.base | none => w.base
    { w with base := base, len := match la with | some k => (args.getD k Lanes.zero).l0.toNat | none => w.len }

/-- An element from its record (R39, R79). -/
def loadElem (l : Nat) (img : Image) (map : List (Nat × Nat × Nat)) (wins : List Window) (args : List Lanes) (groups : List Nat)
    (know : List Nat) (er : ElemRec) : Elem :=
  let start := BitVec.ofNat 7 (fld er.cfg 16 7)
  let konst (i : Nat) : Lanes :=
    match er.constArg.getD i none, er.constGroup.getD i none with
    | some j, _ => args.getD j Lanes.zero
    | none, some g => Lanes.two (BitVec.ofNat 32 (groups.getD g 0)) 0
    | none, none => er.consts.getD i Lanes.zero
  { line := l, thread := er.tile * 16 + er.elem, station := er.station, slots := Vector.ofFn fun i => er.slots.getD i.val 0,
    guards := Vector.ofFn fun i => er.guards.getD i.val 0, nodes := er.nodes, preds := start, lat := Reg.zero,
    o := Vector.replicate 8 Reg.zero, m := Vector.replicate 64 Reg.zero, k := Vector.ofFn fun i => konst i.val,
    h := Vector.ofFn fun i => bindHandle img map i.val (er.handles.getD i.val none),
    w := Vector.ofFn fun i => (er.windows.getD i.val none).bind fun n => wins[n]?,
    ifmt := fld er.cfg 0 3, ffmt := fld er.cfg 4 3, rnd := fld er.cfg 8 2, sat := fld er.cfg 12 1 == 1,
    rot := fld er.cfg 13 1 == 1, start := start, rotPtr := 31, awaits := [], arrivals := Vector.replicate 8 ⟨0, 6, 0⟩, eosNow := [],
    lastFire := 0, loads := [], redo := none, know := know, mine := [], wins := [], fences := [], reads := [] }

/-- A station from its record (R16 to R23). -/
def loadStation (l : Nat) (n : Nat) (s : StationRec) : Station where
  line := l
  num := n
  tile := s.tile
  elems := s.elems
  doneSet := s.doneSet
  carry := s.carry
  mx := s.mx
  vote := s.vote
  route := s.route
  ports := s.ports
  item := none
  loop := List.replicate s.depth ⟨0, rank3, 0, [], 0⟩
  resumed := none
  restore := 0
  ageCtr := 0
  itemAt := 0

def newGen (l tile n : Nat) : AGen where
  line := l
  tile := tile
  num := n
  pat := none
  port := n
  running := false
  visit := 0
  lanes := []
  halted := false
  skip := false
  kept := []
  ended := false
  id := 0
  know := []

def newCopy (l tile n : Nat) : CopyCh where
  line := l
  tile := tile
  num := n
  wp := 0
  entry := 0
  queue := 4 * n
  busy := false
  tok := rank3
  row := 0
  branch := 0
  off := 0
  rows := 0
  id := 0
  scope := 0
  ids := []
  know := []
  beatsDone := false
  poi := false
  src := none
  halted := false
  last := 0

def newHq (l tile n : Nat) : HwQ where
  line := l
  tile := tile
  num := n
  tmpl := none
  arming := none
  armCmd := 0
  disarm := none
  halted := false
  entries := 0
  started := 0
  joins := List.replicate 16 []
  fens := []
  doneIds := []
  permits := []
  know := []

/-- A count node, with the channel and counter word its record gives (R167). -/
def newCnt (img : Image) (l tile n : Nat) : Cnt :=
  let x := img.cnts.find? fun c => c.1 == tile && c.2.1 == n
  { line := l, tile := tile, num := n, chan := x.bind fun c => c.2.2.1, scope := 0, pois := false, tgt := 0, val := 0, tot := 0,
    addr := (x.bind fun c => c.2.2.2).map fun a =>
      regionArea + ((img.regions[a / 2 ^ 32]?).map fun r => r.at_).getD 0 + a % 2 ^ 32,
    queue := [], ids := [], fired := 0, rel := [] }

def newTile (l n : Nat) : Tile where
  line := l
  num := n
  round := 0
  roundAt := 0
  inRound := false
  saved := false
  ctr := Vector.replicate 16 0
  sel := Vector.replicate 16 0
  ien := 0
  ovf := 0
  swage := none
  links := []
  captured := []
  now := []
  wrote := []
  wbuf := []
  wbufPoison := []
  xlat := []
  cmdAccs := []
  barKnow := []
  mxAccs := []

/-- The window of the pattern record that `felmap` builds for a line input over a window whose length is an argument (R246,
R253): the record that the BIND placed ahead of ct0's first command names, of the generator the source's inbox is read from. A
`.pattern` of the program's own is never it (R160, R273). -/
def inputPattern (img : Image) (c : CtlRec) (i : Nat) : Option Nat :=
  match c.num, (c.table.head?).map fun w => decodeCmd w.toNat with
  | 0, some (.ok (.bind _ g _ r)) =>
    if r = i && img.chans.any (fun ch => isInput ch && ch.writer == .gen c.tile g) then
      (match (c.pats[i]?).bind fun p => img.windows[(patternOf p).2]? with
      | some (_, _, some _) => (c.pats[i]?).map fun p => (patternOf p).2
      | _ => none)
    else none
  | _, _ => none

/-- A controller's pattern with its window and the element that names it (R159, R160); a line input's takes its counts from
the window's length (R246, R253). -/
def loadPattern (img : Image) (wins : List Window) (c : CtlRec) (p : List Byte × Nat) : Pattern :=
  let (q, r) := patternOf p.1
  let w := (wins[r]?).getD q.win
  let (who, k) := (windowUser img.elems c.tile r).getD (0, 0)
  { q with win := w, who := who, winNum := k, counts := if (inputPattern img c p.2).isSome then (w.len / 32, 1, 1) else q.counts }

/-- A controller from its table (R178): enable and done windows are 1 until CNTW sets them (R179). Its commands come after what the
launch acquired (R154). -/
def loadCtl (l : Nat) (img : Image) (wins : List Window) (know : List Nat) (c : CtlRec) : Ctl where
  line := l
  tile := c.tile
  num := c.num
  mode := c.mode
  parent := c.parent
  table := c.table
  pats := c.pats.zipIdx.map (loadPattern img wins c)
  started := false
  stopped := false
  pos := 0
  nodeBase := []
  loops := []
  once := []
  enabWin := 1
  doneWin := 1
  enabWait := 0
  enabOut := []
  doneWait := 0
  sigs := 0
  haltAt := none
  know := know

/-- A voter node, in its consumer's tile (R177). -/
def newVoter (img : Image) (l n : Nat) : Voter where
  line := l
  num := n
  dis0 := 0
  dis1 := 0
  dis2 := 0
  lastCopy := 0
  lastSeq := 0
  held := []
  fwd := []
  wait := []
  out := []
  tile := (recTile img (.voterOut n)).getD 0

/-- Allocate `n` groups (R62, R77), the lowest free numbers first. What the loader does when every number is in use, no rule
says: DESIGN CHOICE the record takes the number 4096, which no group has, and the line is placed all the same (log 67). -/
def allocGroups (l : Nat) : Nat → Fabric → List Nat × Fabric
  | 0, f => ([], f)
  | n + 1, f =>
    let (gs, f) := allocGroups l n f
    match lowestFree f (vfOf l) 4096 0 with
    | some g => (gs ++ [g], { f with groups := f.groups ++ [Group.new (vfOf l) g l] })
    | none => (gs ++ [4096], f)

/-- A range unit from its argument slot (R196). -/
def loadRange (args : List Lanes) (j : Option Nat) : RangeUnit :=
  match j with
  | some j => let v := args.getD j Lanes.zero
              ⟨true, v.l0.toNat, v.l1.toNat, Nat.max 1 v.l2.toNat, Nat.max 1 v.l3.toNat⟩
  | none => RangeUnit.absent

/-- The bellows at launch (R32, R33). -/
def loadBellows (b : Bellows) : Bellows :=
  let b := Bellows.clamp { b with stretched := false, wovr := 0, wbeats := 0, wstr := false, ovr := 0, ovf := 0, str := 0 }
  { b with beat := if b.fixed then Nat.min 65535 (Nat.max b.floor b.beat) else Nat.min b.max (Nat.max (Nat.max b.min b.floor) b.beat) }

/-- `.data`: words of a region, written at load (R77). -/
def writeData (l : Nat) (d : Nat × Nat × List Word) (f : Fabric) : Fabric :=
  match findRegion f l d.1 with
  | some r =>
    d.2.2.zipIdx.foldl (fun f (w, i) =>
      match regionXlate f l (regionArea + r.at_ + d.2.1 + 4 * i) .read with
      | (.place p, f) => writePhys (vfOf l) p.cls p.phys (leBytes 4 w.toNat) false f
      | (_, f) => f) f
  | none => f

/-- The regions of an image as a line's, before their pages. -/
def imageRegions (l : Nat) (img : Image) (groups : List Nat) : List Region :=
  img.regions.zipIdx.map fun (r, i) =>
    { r with line := l, num := i, group := r.group.bind fun g => groups[g]?, pages := [], ovfPages := [], contribs := [], swapping := false }

/-- Put the units of an image on a line's tiles (R178, R190): all but its Line record, tiles, regions and data. -/
def loadUnits (l launch : Nat) (img : Image) (args : List Lanes) (groups know : List Nat) (f : Fabric) : List (Nat × Nat × Nat) × Fabric :=
  let (map, f) := loadChans img l launch img.chans.zipIdx f
  let wins := resolveWindows img args
  let ts := List.range (16 * img.bolts)
  (map, { f with
    elems := f.elems ++ img.elems.map (loadElem l img map wins args groups know)
    stations := f.stations ++ img.stations.zipIdx.map fun x => loadStation l x.2 x.1
    gens := f.gens ++ ts.flatMap fun t => (List.range 4).map (newGen l t)
    copies := f.copies ++ ts.flatMap fun t => (List.range 2).map (newCopy l t)
    hqs := f.hqs ++ ts.flatMap fun t => (List.range 8).map (newHq l t)
    cnts := f.cnts ++ ts.flatMap fun t => (List.range 16).map (newCnt img l t)
    voters := f.voters ++ (List.range img.votes).map (newVoter img l)
    ctls := f.ctls ++ img.ctls.map (loadCtl l img wins know) })

/-- The switch ports the route report names, with the channels they serve (R273). -/
def loadPorts (img : Image) (map : List (Nat × Nat × Nat)) : List (Nat × Nat × Nat × Nat) :=
  img.swPorts.filterMap fun p => (map.find? fun x => x.1 == p.2.2).map fun x => (p.1, p.2.1, x.2)

/-- The channel a line's input is read from (R211, R369). -/
def inputOf (img : Image) (map : List (Nat × Nat × Nat)) : Option (Nat × Nat) :=
  (img.chans.zipIdx.find? fun c => isInput c.1).bind fun c => (map.find? fun x => x.1 == c.2).map fun x => x.2

/-- A line's record at placement (R15, R185, R188, R193): in state 0 until the cycle ends. -/
def newLine (f : Fabric) (l : Nat) (x : Launch) (img : Image) (args : List Lanes) (bolts : List Nat) (src : Option (Nat × Nat))
    (ports : List (Nat × Nat × Nat × Nat)) : Line :=
  let seq := if x.flags / 2 % 2 = 1 then x.seq else img.seq
  { id := l, vf := x.vf, pasid := x.ps, tag := x.tag, depth := x.depth, spawner := x.spawner, image := x.image, args := x.args,
    nargs := img.nargs, cpl := x.cpl, msix := x.flags % 2 == 1, vec := x.vec, persist := x.flags / 4 % 2 == 1,
    handler := x.flags / 8 % 2 == 1, pre := x.pre, state := 0, cls := img.cls, unordered := img.unordered, gap := img.gap,
    bolts := bolts, links := img.links, source := 0, sinkStation := img.stations.length - 1, srcChan := src, routes := img.routes,
    swPorts := ports,
    placedAt := f.cycle, sliceFrom := f.cycle, begun := false, beatIx := 0, beats := 0, cyc := 0, overflowing := [], stretch := 0,
    stallFrom := 0, noEdge := false, stop := none, stopSoon := none, bel := loadBellows img.bel, pendBeat := none, posted := [],
    marks := [], nextSeq := seq, lastSeq := none, eosTok := none, eosDone := false, next := seq, held := [],
    emitq := [], kept := [], reinject := [], bad := [], admitted := 0, emitted := 0, round := 0,
    ranges := (List.range 8).map fun u => loadRange args (img.ranges.getD u none), closing := false, recfg := [], saved := false,
    dirty := [], walk := none, quiet := 0, moved := false, know := x.know, saveFrames := [],
    launchId := x.id, runFrom := 0, preempt := false, rounds := [], endStatus := none }

/-- The fault tokens of a handler line come on a channel of their own (R211). -/
def handlerInput (l : Nat) (f : Fabric) : Nat × Fabric :=
  let key := linkKey (vfOf l)
  let (n, f) := freshLink f
  (n, { f with chans := f.chans ++ [{
    line := key, num := n, writer := .boundary, reader := .inbox l 0, depth := 64, conv := 0, delay := 2, gate := false, crossTile := false,
    swage := none, swageHop := 0, ports := [], bnode := true, q := [], raw := [], part := [], staged := [], pend := none, nodePend := none,
    nodeEos := 0, freed := [], closed := false, gateRec := none }] })

/-- PLACE A LINE (R178, R190, R376): none when the pool lacks frames. -/
def placeLine (l : Nat) (x : Launch) (img : Image) (args : List Lanes) (bolts : List Nat) (f : Fabric) : Option Fabric :=
  let (groups, f) := allocGroups l img.groups f
  match allocRegions (vfOf l) (channelsOf bolts) (imageRegions l img groups) f with
  | some (rs, f) =>
    let f := { f with regions := f.regions ++ rs, tiles := f.tiles ++ (List.range (16 * img.bolts)).map (newTile l) }
    let (map, f) := loadUnits l x.id img args groups x.know f
    let (src, f) := match inputOf img map with
      | some c => (some c, f)
      | none => let (n, f) := handlerInput l f; (some (linkKey (vfOf l), n), f)
    let f := { f with lines := f.lines ++ [newLine f l x img args bolts src (loadPorts img map)] }
    let f := img.data.foldl (fun f d => writeData l d f) f
    some { f with launches := f.launches.filter fun y => y.id != x.id }
  | none => none

/-! ## Which work is placed next -/

/-- The oldest unplaced launch of its interface (R188). -/
def isOldest (f : Fabric) (x : Launch) : Bool := f.launches.all fun y => y.vf != x.vf || y.ps != x.ps || x.id ≤ y.id

/-- The windows whose length is an argument are of a length their image can use (R246). -/
def sizedOk (img : Image) (args : List Lanes) : Bool :=
  img.windows.zipIdx.all fun (w, i) => match w.2.2 with
    | some k =>
      let v := (args.getD k Lanes.zero).l0.toNat
      let feeds := img.ctls.any fun c => (List.range c.pats.length).any fun p => inputPattern img c p == some i
      v != 0 && (!feeds || (v % 32 == 0 && v / 32 ≤ 65535))
    | none => true

/-- A field of the launch record itself is refused: TYPE, VEC, or an NARG that is not its image's (R187). DESIGN CHOICE nothing else of
it is: not a nonzero field that R187 has zero, and no ARGS or CPL off its alignment (log 98). -/
def recordBad (f : Fabric) (x : Launch) : Bool :=
  x.flags / 256 != 1 || decide (64 ≤ x.vec) || (match x.narg, findImage f x.vf x.ps x.image with
    | some n, some img => n != img.nargs
    | _, _ => false)

/-- Why a launch's record and image are refused before an argument slot is read (R81, R187), if they are. -/
def recordFail (f : Fabric) (x : Launch) : Option Fail :=
  if recordBad f x || (findImage f x.vf x.ps x.image).isNone then some (Fail.image 1) else none

/-- Why a launch is refused (R81, R187, R246), if it is; `args` are its argument slots, where they can be read. -/
def launchFail (f : Fabric) (x : Launch) (args : Option (List Lanes)) : Option Fail :=
  match recordFail f x, findImage f x.vf x.ps x.image with
  | some e, _ => some e
  | none, some img =>
    firstFail f img (x.flags / 8 % 2 == 1) (match args with | some as_ => must (sizedOk img as_) (Fail.image 1) | none => [])
  | none, none => none

/-- The argument slots a launch's image reads. -/
def launchArgs (f : Fabric) (x : Launch) : Nat := ((findImage f x.vf x.ps x.image).map fun i => i.nargs).getD 0

/-- A free entry of the line table (R188, R224). -/
def freeLines (f : Fabric) (vf : Nat) : List Nat := (List.range 64).filter fun n => !(f.lines.any fun x => x.id == vf * 64 + n)

/-- Work that waits to be placed: priority, cycle from which it waits, whether a launch, its number, bolts and edge links. -/
structure Work where
  prio : Nat
  since : Nat
  launch : Bool
  id : Nat
  ps : Nat
  bolts : Nat
  links : List (Nat × Nat × Nat)
  deriving DecidableEq, Repr

/-- The order in which waiting work is placed (R191). -/
def Work.before (a b : Work) : Bool :=
  b.prio < a.prio || (a.prio == b.prio && (a.since < b.since || (a.since == b.since && (!a.launch && b.launch ||
    (a.launch == b.launch && a.id ≤ b.id)))))

/-- The work of a partition that waits: the oldest launch of each interface and the saved lines. -/
def workOf (f : Fabric) (vf : Nat) : List Work :=
  let ls := (f.launches.filter fun x => x.vf == vf && isOldest f x).filterMap fun x =>
    (findImage f x.vf x.ps x.image).map fun i => (⟨(getIface f vf x.ps).prio, x.since, true, x.id, x.ps, i.bolts, i.links⟩ : Work)
  let rs := (f.lines.filter fun x => x.vf == vf && x.saved && x.endStatus.isNone).map fun x =>
    (⟨(getIface f vf x.pasid).prio, x.sliceFrom, false, x.id, x.pasid, x.bolts.length, x.links⟩ : Work)
  sortBy Work.before (ls ++ rs)

/-- The bolts of a partition's grant. -/
def grantBolts (f : Fabric) (vf : Nat) : List Nat := (List.range 48).filter fun b => (getPart f vf).grant / 2 ^ b % 2 == 1

/-- Work lacks free bolts (R191). -/
def lacksBolts (f : Fabric) (vf : Nat) (w : Work) : Bool := (mapBolts w.links (freeBolts f vf) w.bolts []).isNone

/-- Work that a full line table keeps back: it does not make its interface waiting (R188). -/
def tableFull (f : Fabric) (vf : Nat) (w : Work) : Bool := w.launch && (freeLines f vf).isEmpty

/-- The work fits in its function's grant (R190, R192). -/
def fitsGrant (f : Fabric) (vf : Nat) (w : Work) : Bool := (mapBolts w.links (grantBolts f vf) w.bolts []).isSome

/-- The work is placed next: it has bolts, none of a higher priority waits or could be placed, and it is the first of its own that the
grant and the line table have room for (R191, R192; log 50). -/
def isNext (f : Fabric) (vf id : Nat) (launch : Bool) : Bool :=
  let ws := workOf f vf
  match ws.find? fun w => w.id == id && w.launch == launch with
  | some w =>
    !lacksBolts f vf w && (ws.all fun y => y.prio ≤ w.prio || tableFull f vf y)
      && ws.find? (fun y => y.prio == w.prio && fitsGrant f vf y && !tableFull f vf y) == some w
  | none => false

/-- The argument slots of a launch, where they can be read (R187). -/
def argsOf (m : Memory) (f : Fabric) (x : Launch) : Option (List Lanes × Fabric) := readArgs m x.vf x.ps x.args (launchArgs f x) f

def linePlacementDue (id : Nat) (m : Memory) (f : Fabric) : Bool :=
  match findLaunch f id with
  | some x =>
    isOldest f x &&
      ((recordFail f x).isSome || (launchFail f x ((argsOf m f x).map Prod.fst)).isSome
        || (isNext f x.vf id true &&
            (match argsOf m f x, findImage f x.vf x.ps x.image with
            | some (args, _), some img =>
              (match mapBolts img.links (freeBolts f x.vf) img.bolts [] with
              | some bolts => (placementFail f img).isSome || (placeLine (x.vf * 64) x img args bolts f).isSome
              | none => false)
            | _, _ => false)))
  | none => false

/-- LINE_PLACEMENT (R81, R187, R188, R190, R195): the launch is refused, or placed under a free line number. A mailbox end that is
held is judged at placement, when the bolts are there. -/
def linePlacement (id : Nat) (m : Memory) (f : Fabric) : Fabric :=
  match findLaunch f id with
  | some x =>
    match launchFail f x ((if (recordFail f x).isSome then none else argsOf m f x).map Prod.fst), argsOf m f x, findImage f x.vf x.ps x.image with
    | some e, _, _ => refuseLaunch m x e (!recordBad f x) f
    | none, some (args, g), some img =>
      (match placementFail f img, mapBolts img.links (freeBolts f x.vf) img.bolts [] with
      | some e, some _ => refuseLaunch m x e true f
      | none, some bolts =>
        let ns := freeLines f x.vf
        let (k, g) := pick x.vf ns.length g
        (placeLine (x.vf * 64 + ns.getD k 0) x img args bolts g).getD f
      | _, none => f)
    | none, _, _ => f
  | none => f

def execLinePlacement (id : Nat) (s : State) : Host.Outcome State Fault Refusal := runEvent (linePlacementDue id) (linePlacement id) s

/-! ## Prerequisites -/

/-- A prerequisite is met (R188): one that names no resident line is. DESIGN CHOICE where the rule is silent: of several resident
lines of the TAG the first of the table counts, a pre-empted one among them, the waiting line itself is none of them, and a node the line
lacks meets nothing (log 71). -/
def preMet (f : Fabric) (x : Line) (p : Nat × Nat × Nat × Nat) : Bool :=
  match f.lines.find? fun y => y.vf == x.vf && y.pasid == x.pasid && y.tag == p.1 && y.id != x.id with
  | some y =>
    (match findCnt f y.id p.2.1 p.2.2.1 with
    | some c => decide ((c.tot + 2 ^ 32 - p.2.2.2 % 2 ^ 32) % 2 ^ 32 < 2 ^ 31)
    | none => false)
  | none => true

def prerequisitesMetDue (l : Nat) (_ : Memory) (f : Fabric) : Bool :=
  match findLine f l with
  | some x => x.state == 1 && !x.saved && !x.preempt && x.endStatus.isNone && x.pre.all (preMet f x)
  | none => false

/-- Start every controller of a line at command 0, which it has then reached (R178, R322). -/
def startCtls (l : Nat) (m : Memory) (f : Fabric) : Fabric :=
  let f : Fabric := { f with ctls := f.ctls.map fun c => if c.line = l then reach f 0 { c with started := true, pos := 0 } else c }
  (f.ctls.filter fun c => c.line == l).foldl (fun f c => loadLoop m l c.tile c.num f) f

/-- PREREQUISITES_MET (R178, R188). While EBUDGET stops its partition the line is stopped too (R131). -/
def prerequisitesMet (l : Nat) (m : Memory) (f : Fabric) : Fabric :=
  startCtls l m (updLine l (fun x => { x with state := runState f x, runFrom := f.cycle + 1 }) f)

def execPrerequisitesMet (l : Nat) (s : State) : Host.Outcome State Fault Refusal :=
  runEvent (prerequisitesMetDue l) (prerequisitesMet l) s

/-! ## SPAWN -/

/-- The launch a SPAWN asks for (R193, R355). -/
def spawnLaunch (f : Fabric) (r : Request) (x : Line) (id : Nat) : Launch where
  id := id
  vf := x.vf
  ps := x.pasid
  flags := 256
  seq := 0
  tag := r.a.l4.toNat
  image := argAddr r.a
  args := r.a.l2.toNat + 4294967296 * r.a.l3.toNat
  narg := none
  cpl := r.a.l5.toNat
  pre := []
  vec := 0
  depth := x.depth + 1
  spawner := some (r.line * 16384 + r.th)
  since := f.cycle
  know := r.need

/-- Give a port a channel of its own for the line of a further SPAWN. What the port has staged, and the end-of-stream that is
pending, are committed after the SPAWN and go along; the old line's end links to nothing from then on, and closes as R195 has it for
such an end: DEDUCED (log 32). -/
def splitLink (l th launch : Nat) (k : Link) (f : Fabric) : Fabric :=
  let key := linkKey (vfOf l)
  match findChan f key k.num with
  | some c =>
    let (n, f) := freshLink f
    let c' : Chan := { c with num := n, q := [], raw := [], part := [], nodePend := none, freed := [], closed := false }
    let c' := if k.down then { c' with reader := .boundary } else { c' with writer := .boundary, staged := [], pend := none }
    let old (x : Chan) : Chan := if k.down then loseWriter f { x with staged := [], pend := none } else loseReader x
    let f := updElem l th (fun e => { e with h := vset e.h k.handle (.chan key n) }) (updChan key k.num old f)
    { f with chans := f.chans ++ [c'], links := f.links ++ [{ k with num := n, launch := some launch }] }
  | none => f

/-- The links of an element go to the line of its new launch (R195): one that led to no launch takes its waiting tokens
along; any other is left to its old line and the port opens anew. -/
def relink (l th launch : Nat) (f : Fabric) : Fabric :=
  let key := linkKey (vfOf l)
  let mine (k : Link) : Bool := k.line == l && k.th == th && vget ((findElem f l th).map (fun e => e.h) |>.getD (Vector.replicate 8 .unbound)) k.handle == .chan key k.num
  (f.links.filter mine).foldl (fun f k =>
    match k.launch with
    | none => { f with links := f.links.map fun y => if y = k then { y with launch := some launch } else y }
    | some _ => splitLink l th launch k f) f

def spawnAnswerDue (id : Nat) (_ : Memory) (f : Fabric) : Bool :=
  match findRequest f id with
  | some r => r.spawn && r.at_ ≤ f.cycle && (pendingOf f r.need).isEmpty && !tileSaved f r.line (tileOf r.th)
  | none => false

/-- SPAWN_ANSWER (R193, R195, R355, R356). -/
def spawnAnswer (id : Nat) (_ : Memory) (f : Fabric) : Fabric :=
  match findRequest f id with
  | some r =>
    match findLine f r.line with
    | some x =>
      let reply (n : Nat) (f : Fabric) : Fabric := answer r (Lanes.two (BitVec.ofNat 32 n) 0) f
      if Config.spawnDepth < x.depth + 1 then reply 1 f
      else
        match (match findImage f x.vf x.pasid (argAddr r.a) with
          | some img => firstFail f img false []
          | none => some (Fail.image 1)) with
        | some e => reply 2 (loadIllegal x.vf x.pasid (some r.line) e f)
        | none =>
          if r.a.l6 ≠ 0 ∨ r.a.l7 ≠ 0 then reply 3 f
          else
            let (n, f) := fresh f
            reply 0 (relink r.line r.th n { f with launches := f.launches ++ [spawnLaunch f r x n] })
    | none => f
  | none => f

def execSpawnAnswer (id : Nat) (s : State) : Host.Outcome State Fault Refusal := runEvent (spawnAnswerDue id) (spawnAnswer id) s

end Sys2Proof.Machine
end

