-- ==== Sys2Proof/Machine/LineEnd.lean ====
section
/-!
DEFINITION. The end of a line and what frees or changes its place: LINE_COMPLETE, ENDED_BY_HOST, BOLT_SCRUB_DONE,
SP_SCRUB_COMPLETE, SLICE_EXPIRY, RECFG_DRAINED, RSZ_COMPLETE and LST_RSZ (R183, R184, R189, R191, R194, R195, R206, R220,
R221, R239, R351).
-/
namespace Sys2Proof.Machine

/-! ## Ending -/

/-- END A LINE (R206): its elements fire nothing more, what is halted or not yet issued is dropped, and what is issued
finishes; its record will carry the status. A line that is complete has ended already. -/
def endLine (l status : Nat) (f : Fabric) : Fabric :=
  match findLine f l with
  | some x =>
    if x.endStatus.isSome || x.state == 6 then f
    else
      let dropAccess (a : Acc) : Bool := a.line == l && (a.halted || a.kind == .mxq || (a.phys.isEmpty && a.kind != .fence))
      let stopGen (g : AGen) : AGen := if g.line = l then { g with running := false, halted := false } else g
      let stopCopy (c : CopyCh) : CopyCh := if c.line = l && c.halted then { c with busy := false, halted := false } else c
      let stopHq (q : HwQ) : HwQ := if q.line = l then { q with arming := none, disarm := none, halted := false } else q
      let stopMx (b : MxBolt) : MxBolt :=
        if b.line = l then { b with queues := [[], [], [], []], flight := b.flight.filter fun t => !t.halted } else b
      let emptyQ (c : Chan) : Chan :=
        match c.reader with | .queue _ _ => if c.line = l then { c with q := [] } else c | _ => c
      let f := { f with
        accs := f.accs.filter fun a => !dropAccess a
        gens := f.gens.map stopGen
        copies := f.copies.map stopCopy
        hqs := f.hqs.map stopHq
        mx := f.mx.map stopMx
        chans := f.chans.map emptyQ }
      updLine l (fun y => { y with state := 4, endStatus := some status, stop := none, stopSoon := none }) f
  | none => f

/-- The launch an ENDED_BY_HOST names: numbers from 4096 on are launches, those below are lines. -/
def heldLaunch (f : Fabric) (l : Nat) : Option Launch := if 4096 ≤ l then findLaunch f (l - 4096) else none

def endedByHostDue (l : Nat) (_ : Memory) (f : Fabric) : Bool :=
  match findLine f l with | some x => x.endStatus.isNone && x.state != 6 | none => (heldLaunch f l).isSome

/-- ENDED_BY_HOST (R187, R189, R192): a line is ended, or a launch not yet placed is removed, with status 1. -/
def endedByHost (l : Nat) (m : Memory) (f : Fabric) : Fabric :=
  match findLine f l, heldLaunch f l with
  | some _, _ => endLine l 1 f
  | none, some x => closeLaunch m x 1 f
  | none, none => f

def execEndedByHost (l : Nat) (s : State) : Host.Outcome State Fault Refusal := runEvent (endedByHostDue l) (endedByHost l) s

/-! ## Completion -/

/-- An end belongs to a line. -/
def End.of (l : Nat) : End → Bool
  | .elem x _ _ => x == l
  | .inbox x _ => x == l
  | _ => false

/-- A link leads to a launch that is not yet placed: what was committed to it waits for its line (R193, R195). -/
def awaitsLaunch (f : Fabric) (k : Link) : Bool := match k.launch with | some n => f.launches.any fun x => x.id == n | none => false

/-- MAILBOX_CLOSE (R194, R195): the ends a line holds of the partition's mailboxes and links; one that is left with no end, and that
no line to come is to join, goes. -/
def closeEnds (l : Nat) (f : Fabric) : Fabric :=
  let key := linkKey (vfOf l)
  let end_ (c : Chan) : Chan :=
    if c.line = key then
      let c := if c.writer.of l then loseWriter f c else c
      if c.reader.of l then loseReader c else c
    else c
  let links := f.links.filter fun k => awaitsLaunch f k || (k.line != l && f.lines.any fun x => x.id == k.line)
  let linked (c : Chan) : Bool := links.any fun k => linkKey k.vf == c.line && k.num == c.num
  let dead (c : Chan) : Bool :=
    c.line == key && c.writer == .boundary && c.reader == .boundary && !linked c && (c.closed || decide (256 ≤ c.num))
  { f with chans := (f.chans.map end_).filter fun c => !dead c, links := links }

/-- The frames of the pool a region holds. -/
def regionFrames (r : Region) : List Nat := r.pages.map Prod.fst ++ r.ovfPages

/-- Remove everything a line has (R189, R220, R376). -/
def removeLine (l : Nat) (f : Fabric) : Fabric :=
  let pages := (f.regions.filter fun r => r.line == l).flatMap regionFrames
  let saves := ((findLine f l).map fun x => x.saveFrames).getD []
  let bolts := match findLine f l with | some x => (if holdsBolts x then x.bolts else []) | none => []
  let f := closeEnds l (freeFrames (vfOf l) (pages ++ saves) f)
  { f with
    elems := f.elems.filter fun e => e.line != l
    stations := f.stations.filter fun e => e.line != l
    chans := f.chans.filter fun e => e.line != l
    gens := f.gens.filter fun e => e.line != l
    accs := f.accs.filter fun e => e.line != l
    copies := f.copies.filter fun e => e.line != l
    hqs := f.hqs.filter fun e => e.line != l
    cnts := f.cnts.filter fun e => e.line != l
    acks := f.acks.filter fun e => e.line != l
    mx := f.mx.filter fun e => e.line != l
    voters := f.voters.filter fun e => e.line != l
    tiles := f.tiles.filter fun e => e.line != l
    ctls := f.ctls.filter fun e => e.line != l
    cmds := f.cmds.filter fun e => e.line != l
    regions := f.regions.filter fun e => e.line != l
    groups := f.groups.filter fun e => e.line != l
    requests := f.requests.filter fun e => e.line != l
    resizes := f.resizes.filter fun e => e.line != l
    recs := (f.recs.filter fun r => r.line != l || r.index.isNone).map fun r => if r.line = l then { r with what := .none } else r
    lines := f.lines.filter fun e => e.id != l
    module_ := { f.module_ with scrubbing := bolts.map (fun b => (b, f.cycle)) ++ f.module_.scrubbing } }

/-- The data bytes of a frame as the digest engine reads them, one access of 64 bytes at a time (R125, R221, R239). What the errors
it meets cost is charged to the line; R131 has no unit kind for the engine: DESIGN CHOICE the unit index is all ones (log 79). -/
def digestBytes (m : Memory) (x : Line) (fr cls : Nat) (f : Fabric) : List Byte × Fabric :=
  (List.range 1024).foldl (fun (acc : List Byte × Fabric) i =>
    let (r, f) := readPhys m x.vf cls (fr * 65536 + 64 * i) 64 (newAccess acc.2)
    (acc.1 ++ r.bytes, charge x.vf r.cost { Rec.ofLine f x.id 7 with unit := 0xFF } f)) ([], f)

/-- DIRTY_PAGE_DIGEST (R239): one record for a dirty frame, or the count of those beyond the array. -/
def digestFrame (m : Memory) (x : Line) (d : Nat × Nat × Nat) (f : Fabric) : Fabric :=
  let p := getPart f x.vf
  if p.digCount < p.digLen then
    let (data, f) := digestBytes m x d.2.1 d.2.2 f
    let rec_ := leBytes 8 (d.1 * 65536) ++ leBytes 1 x.pasid ++ leBytes 1 0 ++ leBytes 2 (x.id % 64) ++ leBytes 4 x.tag
      ++ exactly 32 (Config.shake256 32 data) ++ leBytes 16 0
    updPart x.vf (fun q => { q with digCount := q.digCount + 1 }) (deviceWrite x.vf p.digBase (64 * p.digCount) rec_ f)
  else updPart x.vf (fun q => { q with digOver := satN 16 (q.digOver + 1) }) f

/-- The dirty frames of a line, by ascending virtual address. -/
def dirtyFrames (x : Line) : List (Nat × Nat × Nat) := sortBy (fun a b => decide (a.1 ≤ b.1)) x.dirty

/-- Every access a line has made: its completion record releases them (R155). -/
def lineAccesses (f : Fabric) (l : Nat) : List Nat :=
  let es := (f.elems.filter fun e => e.line == l).foldl (fun k e => union e.mine (union e.know k)) []
  let ts := (f.tiles.filter fun t => t.line == l).foldl (fun k t => union t.cmdAccs (union t.mxAccs k)) es
  (f.cnts.filter fun c => c.line == l).foldl (fun k c => union c.ids k) ts

/-- Nothing of an ended line is still to finish (log 38). -/
def endDrained (f : Fabric) (l : Nat) : Bool :=
  f.accs.all (fun a => a.line != l || a.halted) && f.copies.all (fun c => c.line != l || !c.busy || c.halted)
    && f.mx.all fun b => b.line != l || b.flight.all fun t => t.halted

/-- A channel holds a token or one on its way in. -/
def Chan.loaded (c : Chan) : Bool := !(c.q.isEmpty && c.raw.isEmpty && c.part.isEmpty)

/-- A token waits on an armed queue: a copy entry of its line is still to be performed (R162). -/
def entryWaits (f : Fabric) (h : HwQ) : Bool :=
  h.tmpl.isSome && h.disarm.isNone
    && (match chanTo f h.line (.queue h.tile h.num) with | some c => c.loaded | none => false)

/-- A write pattern still has data to store (R161). -/
def storeWaits (f : Fabric) (g : AGen) : Bool :=
  g.running && (match g.pat with
    | some p => p.write && (!g.lanes.isEmpty
        || (match portChan f g.line g.tile g.num g.port true with | some c => c.loaded | none => false))
    | none => false)

/-- No copy or matrix task of the line is in flight, no access, request, acknowledgement or write of a pattern of it is still to be
performed (R155, R189). -/
def lineQuiet (f : Fabric) (l : Nat) : Bool :=
  f.accs.all (fun a => a.line != l) && f.copies.all (fun c => c.line != l || !c.busy) && f.acks.all (fun a => a.line != l)
    && f.mx.all (fun b => b.line != l || (b.flight.isEmpty && b.queues.all List.isEmpty)) && f.requests.all (fun r => r.line != l)
    && f.hqs.all (fun h => h.line != l || !entryWaits f h) && f.gens.all fun g => g.line != l || !storeWaits f g

/-- The line completes (R189), a stopped one too: its sink has emitted the closing end-of-stream, its controllers are through, and nothing
of it is in flight. -/
def lineCompleteDue (l : Nat) (_ : Memory) (f : Fabric) : Bool :=
  match findLine f l with
  | some x =>
    match x.endStatus with
    | some _ => x.state != 6 && endDrained f l
    | none =>
      x.state != 6 && !x.saved && !x.persist && !x.closing && x.recfg.isEmpty && x.eosDone && x.emitq.isEmpty
        && (f.ctls.all fun c => c.line != l || c.stopped || c.mode == 2) && lineQuiet f l
  | none => false

/-- LINE_COMPLETE (R155, R189, R239): the records are written and the line is complete; it goes when the cycle ends (R185, R194, R220). -/
def lineComplete (l : Nat) (m : Memory) (f : Fabric) : Fabric :=
  match findLine f l with
  | some x =>
    let f := (dirtyFrames x).foldl (fun f d => digestFrame m x d f) f
    let ids := lineAccesses f l
    let b := x.bel
    let f := anvilWrite m x.vf x.pasid x.cpl
      (cplBytes x.tag (x.endStatus.getD 0) x.emitted x.beats b.ovr b.ovf b.str (b.beat + 65536 * b.floor)) ids [⟨l, 0xFFFF, 5, ids⟩] f
    let f := if x.msix then sendMsix x.vf x.vec f else f
    updLine l (fun y => { y with state := 6 }) (updPart x.vf (fun p => { p with released := union ids p.released }) f)
  | none => f

/-- What a tile's counters wrap to in the last cycle it has them: VEC + 1 is signalled where IEN is set (R240, R242). -/
def lastWraps (f : Fabric) (t : Tile) : Fabric :=
  let y := addCounts t
  ((List.range 16).filter fun n => decide (2 ^ 48 ≤ vget y.ctr n) && y.ien.getLsbD n).foldl
    (fun f _ => sendMsix (vfOf t.line) (((getPart f (vfOf t.line)).fqVec + 1) % 65536) f) f

/-- The complete lines go (R189, R220), and their counters with them. -/
def reapLines (f : Fabric) : Fabric :=
  (f.lines.filter fun x => x.state == 6).foldl (fun f x => removeLine x.id ((f.tiles.filter fun t => t.line == x.id).foldl lastWraps f)) f

def execLineComplete (l : Nat) (s : State) : Host.Outcome State Fault Refusal := runEvent (lineCompleteDue l) (lineComplete l) s

/-! ## Scrub -/

/-- An address lies in a slice of a bolt, or names a place in one of its weight buffers where an error may lie. -/
def inBolt (f : Fabric) (b a : Nat) : Bool := (spaceOf a == 1 || spaceOf a == 3) && (List.range 16).any fun t => physTile f b t == a / 2 ^ 36 % 1024

def boltScrubDoneDue (b : Nat) (_ : Memory) (f : Fabric) : Bool := f.module_.scrubbing.any fun s => s.1 == b

/-- BOLT_SCRUB_DONE (R220): the slices read as zero and the bolt is free. -/
def boltScrubDone (b : Nat) (m : Memory) (f : Fabric) : Fabric :=
  let g := (m.filter fun c => inBolt f b c.1).foldl (fun g c => writeByte c.1 0 g) f
  { g with
    hist := g.hist.filter fun h => !inBolt f b h.word
    poison := g.poison.filter fun p => !inBolt f b (p.1 * 64)
    wpoison := g.wpoison.filter fun w => !inBolt f b w
    errs := g.errs.filter fun e => !inBolt f b e.at_
    module_ := { g.module_ with scrubbing := g.module_.scrubbing.filter fun s => s.1 != b } }

def execBoltScrubDone (b : Nat) (s : State) : Host.Outcome State Fault Refusal := runEvent (boltScrubDoneDue b) (boltScrubDone b) s


/-- Every frame of an entry with SP = 1 is zeroed. -/
def SpEntry.clean (f : Fabric) (e : SpEntry) : Bool := e.frames.all fun fr => f.scrub.all fun s => s.1 != fr || s.2.2.isEmpty

/-- The class of a frame under scrub: that of the leaf or region that maps it; DEDUCED Damask where none does any more (log 53). -/
def scrubClass (f : Fabric) (fr : Nat) : Nat :=
  match f.spEntry.find? fun e => e.frames.contains fr with
  | some e => e.cls
  | none => ((f.regions.find? fun r => (regionFrames r).contains fr).map fun r => r.cls).getD 2

/-- The frames an entry with SP = 1 had are zeroed: SP is cleared in memory where the entry still maps them (R221). -/
def SpEntry.clear (m : Memory) (e : SpEntry) (f : Fabric) : Fabric :=
  let p := spNow m f e
  if p.v && p.sp && p.pfn == e.first then putPhys e.at_ (leBytes 8 (p.all - 128)) f else f

/-- The scrub engine has a frame's lines to zero, or an entry's SP to clear whose every line is zeroed, by stores too (R221). -/
def spScrubCompleteDue (fr : Nat) (_ : Memory) (f : Fabric) : Bool :=
  f.scrub.any fun s => s.1 == fr && (!s.2.2.isEmpty || f.spEntry.any fun e => e.clean f && e.frames.contains fr)

/-- The scrub engine meets a line in error before it zeroes it: the cost is its frame's new owner's (R125, R131, R221). -/
def scrubCost (vf cls a : Nat) (m : Memory) (f : Fabric) : Fabric :=
  match f.errs.find? fun e => e.at_ == a with
  | some e =>
    let (s, f) := observeLine vf cls e ((List.range 64).map fun i => readByte m f (a + i)) f
    charge vf s.cost { Rec.blank vf 7 with resumable := true, halted := true, kind := 8, unit := 9, what := .budget } f
  | none => f

/-- SP_SCRUB_COMPLETE (R221): the frame's remaining lines are zeroed; a leaf all of whose frames are has SP cleared. A zeroed frame
stays on the list while its entry has others to come. -/
def spScrubComplete (fr : Nat) (m : Memory) (f : Fabric) : Fabric :=
  let s := (f.scrub.find? fun s => s.1 == fr).getD (fr, 0, [])
  let cls := scrubClass f fr
  let f := s.2.2.foldl (fun f i => scrubLine (fr * 65536 + 64 * i) (scrubCost s.2.1 cls (fr * 65536 + 64 * i) m f)) f
  let f := (f.spEntry.filter (SpEntry.clean f)).foldl (fun f e => e.clear m f) f
  let left := f.spEntry.filter fun e => !e.clean f
  { f with
    spEntry := left
    scrub := f.scrub.filter fun s => !s.2.2.isEmpty || left.any fun e => e.frames.contains s.1 }

def execSpScrubComplete (fr : Nat) (s : State) : Host.Outcome State Fault Refusal :=
  runEvent (spScrubCompleteDue fr) (spScrubComplete fr) s

/-! ## Time slices -/

/-- The end of a line's slice, in cycles of 1.2 GHz (R6, R191). -/
def sliceEnd (f : Fabric) (x : Line) : Nat :=
  let i := getIface f x.vf x.pasid
  x.sliceFrom + (i.weight + 1) * i.slice * 1200

/-- Bolts that are free or will be once pre-emptions and scrubs under way are done. -/
def soonFree (f : Fabric) (vf : Nat) : List Nat :=
  (grantBolts f vf).filter fun b => !(f.lines.any fun x => holdsBolts x && !x.preempt && x.endStatus.isNone && x.bolts.contains b)

/-- The lines that may be pre-empted for a work, in the order of R191, those already chosen for other work left out. -/
def candidateLines (f : Fabric) (vf : Nat) (w : Work) (taken : List Nat) : List Line :=
  let prio (x : Line) : Nat := (getIface f vf x.pasid).prio
  let may := f.lines.filter fun x => x.vf == vf && holdsBolts x && !x.preempt && x.endStatus.isNone && !taken.contains x.id
  let low := sortBy (fun a b => decide (prio a < prio b) || (prio a == prio b && (decide (b.sliceFrom < a.sliceFrom)
    || (a.sliceFrom == b.sliceFrom && decide (b.id ≤ a.id))))) (may.filter fun x => decide (prio x < w.prio))
  let same := sortBy (fun a b => decide (sliceEnd f a < sliceEnd f b) || (sliceEnd f a == sliceEnd f b && decide (b.id ≤ a.id)))
    (may.filter fun x => prio x == w.prio)
  low ++ same

/-- The lines to pre-empt for a work, given the bolts that are or will be free for it: those of the shortest prefix that makes room,
whose bolts the placement uses; with the bolts it takes (R191). -/
def victims (f : Fabric) (vf : Nat) (w : Work) (avail taken : List Nat) : List Line × List Nat :=
  let cs := candidateLines f vf w taken
  let with_ (k : Nat) : List Nat := sortBy (fun a b => decide (a ≤ b)) (avail ++ (cs.take k).flatMap fun x => x.bolts)
  match (List.range (cs.length + 1)).findSome? fun k => (mapBolts w.links (with_ k) w.bolts []).map fun bs => (k, bs) with
  | some (k, bs) => ((cs.take k).filter fun x => x.bolts.any bs.contains, bs)
  | none => ([], [])

/-- What the anvil means to pre-empt for each waiting work, in the order in which the work will be placed: the bolts one work is to
take are not counted for a later one (R191; log 51). -/
def preemptPlan (f : Fabric) (vf : Nat) : List (Work × List Line) :=
  (((workOf f vf).filter fun w => !tableFull f vf w).foldl (fun (acc : List (Work × List Line) × List Nat × List Nat) w =>
    let (vs, bs) := victims f vf w acc.2.1 acc.2.2
    let freed := vs.flatMap fun x => x.bolts
    (acc.1 ++ [(w, vs)], (acc.2.1 ++ freed).filter (fun b => !bs.contains b), vs.map (fun x => x.id) ++ acc.2.2))
    ([], soonFree f vf, [])).1

/-- The line is in the way of work that waits: of a higher priority, at once; of its own, at the end of its slice (R191). -/
def sliceExpiryDue (l : Nat) (_ : Memory) (f : Fabric) : Bool :=
  match findLine f l with
  | some x =>
    (preemptPlan f x.vf).any fun y =>
      lacksBolts f x.vf y.1 && y.2.any (fun v => v.id == l)
        && (decide ((getIface f x.vf x.pasid).prio < y.1.prio) || decide (sliceEnd f x ≤ f.cycle))
  | none => false

/-- SLICE_EXPIRY (R191): the line is to be pre-empted. -/
def sliceExpiry (l : Nat) (_ : Memory) (f : Fabric) : Fabric := updLine l (fun x => { x with preempt := true }) f

def execSliceExpiry (l : Nat) (s : State) : Host.Outcome State Fault Refusal := runEvent (sliceExpiryDue l) (sliceExpiry l) s

/-! ## Reconfiguration -/

/-- Nothing lies in a channel. -/
def Chan.empty (c : Chan) : Bool := c.q.isEmpty && c.raw.isEmpty && c.part.isEmpty && c.staged.isEmpty && c.pend.isNone && c.nodePend.isNone

/-- The line is drained (R183): its closed input and what feeds it hold no drain back. -/
def drained (f : Fabric) (x : Line) : Bool :=
  let l := x.id
  let isIn (c : Chan) : Bool := x.srcChan == some (c.line, c.num)
  let feeds (t : Tile) (k : Linked) : Bool := match portChan f l t.num k.gen k.port false with | some c => isIn c | none => false
  x.emitted == x.admitted && x.emitq.isEmpty && x.held.isEmpty
    && (f.stations.all fun s => s.line != l || (s.item.isNone && s.resumed.isNone && s.loop.all fun y => y.state == 0))
    && (f.chans.all fun c => isIn c || (c.line != l && !c.writer.of l && !c.reader.of l) || c.empty)
    && (f.tiles.all fun t => t.line != l || t.links.all (feeds t)) && lineQuiet f l
    && (f.cnts.all fun c => c.line != l || c.queue.isEmpty) && (f.voters.all fun v => v.line != l || (v.wait.isEmpty && v.out.isEmpty))

/-- The bolts a new image is loaded onto (R183): the line's, or a new placement. R183 places anew an image with more bolts than the
line. DESIGN CHOICE: so is one with no more bolts whose edge links do not fit the line's (R5, R185), which could not be loaded onto them;
and the range units start again, under the new image's specification (log 54). -/
def recfgBolts (f : Fabric) (x : Line) (img : Image) : Option (List Nat) :=
  let own := x.bolts.take img.bolts
  if img.bolts ≤ x.bolts.length && linksJoin img.links own then some own
  else mapBolts img.links (sortBy (fun a b => decide (a ≤ b)) (freeBolts f x.vf ++ x.bolts)) img.bolts []

/-- The old region a new one keeps the contents of: of its name and size (R183), wherever either lies. -/
def keptRegion (olds : List Region) (r : Region) : Option Region := olds.find? fun o => o.name == r.name && o.size == r.size

/-- The physical address of a byte of a region. -/
def regionPhys (f : Fabric) (r : Region) (off : Nat) : Nat :=
  if r.slice then sliceAddr f r.line r.tile (r.base + off)
  else ((r.pages[off / 65536]?).map Prod.fst).getD 0 * 65536 + off % 65536

/-- Give a new region the contents of the one it keeps, read as it stood in `f0`; any other slice region reads zero, and a DRAM
region keeps its pages or has fresh ones, which read zero (R183, R376). -/
def carryContents (m : Memory) (f0 : Fabric) (olds : List Region) (r : Region) (f : Fabric) : Fabric :=
  let n (i : Nat) : Nat := Nat.min 64 (r.size - 64 * i)
  let rows := List.range ((r.size + 63) / 64)
  match keptRegion olds r with
  | some o =>
    if !r.slice && !o.slice then f
    else rows.foldl (fun f i =>
      let (x, _) := readPhys m (vfOf r.line) o.cls (regionPhys f0 o (64 * i)) (n i) (newAccess f0)
      writePhys (vfOf r.line) r.cls (regionPhys f r (64 * i)) x.bytes x.poison f) f
  | none =>
    if !r.slice then f
    else rows.foldl (fun f i => writePhys (vfOf r.line) r.cls (regionPhys f r (64 * i)) (List.replicate (n i) 0) false f) f

/-- Detach a line from everything of its old configuration but its Line record and its tiles. -/
def unload (l : Nat) (f : Fabric) : Fabric :=
  let mine := f.links.filter fun k => k.line == l
  let key := linkKey (vfOf l)
  let shut (c : Chan) : Chan :=
    if c.line = key && mine.any fun k => k.num == c.num then
      (if c.writer.of l then loseWriter f c else if c.reader.of l then loseReader c else c)
    else c
  let f := withoutMailboxes { f with chans := f.chans.map shut, links := f.links.filter fun k => k.line != l } l
  { f with
    elems := f.elems.filter fun e => e.line != l
    stations := f.stations.filter fun e => e.line != l
    chans := f.chans.filter fun e => e.line != l
    gens := f.gens.filter fun e => e.line != l
    copies := f.copies.filter fun e => e.line != l
    hqs := f.hqs.filter fun e => e.line != l
    cnts := f.cnts.filter fun e => e.line != l
    acks := f.acks.filter fun e => e.line != l
    mx := f.mx.filter fun e => e.line != l
    voters := f.voters.filter fun e => e.line != l
    ctls := f.ctls.filter fun e => e.line != l
    cmds := f.cmds.filter fun e => e.line != l
    regions := f.regions.filter fun e => e.line != l
    groups := f.groups.filter fun e => e.line != l
    resizes := f.resizes.filter fun e => e.line != l }

/-- The new regions, with the pages and contributions they keep. -/
def carryRegions (olds : List Region) (rs : List Region) : List Region :=
  rs.map fun r => match keptRegion olds r with
    | some o => { r with
        pages := if r.slice || o.slice then [] else o.pages
        ovfPages := if r.planes = 0 then [] else o.ovfPages
        contribs := if r.planes == o.planes && r.collide == o.collide then o.contribs else [] }
    | none => r

/-- A tile of a line that does not keep its counters under a new configuration (R183 step 4, R240): its bolt goes, or the image is placed
anew. -/
def tileLeaves (x : Line) (bolts : List Nat) (t : Tile) : Bool := t.line == x.id && (x.bolts.take bolts.length != bolts || 16 * bolts.length ≤ t.num)

/-- The tiles of a new configuration (R183): a tile that stays where it was goes on, one that is now another of the module is new
(R198, R240). An image placed anew clears the counters of each (R183 step 4, R240). The first keeps what the old configuration accessed, which the completion record is to release (R155). -/
def reloadTiles (x : Line) (n : Nat) (bolts : List Nat) (f0 f : Fabric) : List Tile :=
  (List.range n).map fun t =>
    let fresh := newTile x.id t
    let y := match findTile f x.id t with
      | some y =>
        if x.bolts[t / 16]? == bolts[t / 16]? then
          (if x.bolts.take bolts.length == bolts then y
           else { y with ctr := fresh.ctr, sel := fresh.sel, ovf := fresh.ovf, ien := fresh.ien, now := [], wrote := [] })
        else { fresh with cmdAccs := y.cmdAccs, barKnow := y.barKnow, mxAccs := y.mxAccs, round := y.round }
      | none => fresh
    if t = 0 then { y with mxAccs := union (lineAccesses f0 x.id) y.mxAccs } else y

/-- Steps 4 and 5 of R183: none when frames or the argument block are not there. An input that had ended stays ended where the new
image reads the same one. -/
def reload (m : Memory) (x : Line) (va : Nat) (img : Image) (bolts : List Nat) (f0 : Fabric) : Option Fabric :=
  let l := x.id
  match readArgs m x.vf x.pasid x.args img.nargs f0 with
  | some (args, f) =>
    let olds := f.regions.filter fun r => r.line == l
    let f := (f.tiles.filter (tileLeaves x bolts)).foldl lastWraps f
    let f := unload l f
    let (groups, f) := allocGroups l img.groups f
    let rs := carryRegions olds (imageRegions l img groups)
    let stay := rs.flatMap regionFrames
    let gone := (olds.flatMap regionFrames).filter fun fr => !stay.contains fr
    match allocRegions x.vf (channelsOf bolts) rs (freeFrames x.vf gone f) with
    | some (rs, f) =>
      let left := x.bolts.filter fun b => !bolts.contains b
      let ts := reloadTiles x (16 * img.bolts) bolts f0 f
      let f := { f with
        regions := f.regions ++ rs
        tiles := (f.tiles.filter fun t => t.line != l) ++ ts
        module_ := { f.module_ with scrubbing := left.map (fun b => (b, f.cycle)) ++ f.module_.scrubbing } }
      let (map, f) := loadUnits l x.launchId img args groups x.know f
      let (src, f) := match inputOf img map with
        | some c => (some c, f)
        | none => (x.srcChan, f)
      let same := src == x.srcChan && src.map Prod.fst == some (linkKey x.vf)
      let bel := { loadBellows img.bel with ovr := x.bel.ovr, ovf := x.bel.ovf, str := x.bel.str }
      let f := updLine l (fun y => { y with
        image := va, bolts := bolts, links := img.links, routes := img.routes, swPorts := loadPorts img map, cls := img.cls, unordered := img.unordered,
        gap := img.gap, nargs := img.nargs, bel := bel, srcChan := src, sinkStation := img.stations.length - 1, begun := false,
        closing := false, recfg := y.recfg.drop 1, cyc := 0, overflowing := [], stretch := 0, stallFrom := 0, runFrom := f.cycle + 1,
        pendBeat := none, posted := [], marks := [], eosTok := if same then y.eosTok else none, eosDone := false,
        ranges := (List.range 8).map fun u => loadRange args (img.ranges.getD u none) }) f
      let f := updLine l (fun y => { y with state := runState f y }) f
      let inSlices (f : Fabric) (a : Nat) : Bool :=
        spaceOf a == 1 && ts.any fun t => sliceAddr f l t.num 0 / 2 ^ 36 == a / 2 ^ 36
      let f := { f with hist := f.hist.filter fun h => !(inSlices f0 h.word || inSlices f h.word) }
      let f := rs.foldl (fun f r => carryContents m f0 olds r f) f
      let f := (img.data.filter fun d => match rs[d.1]? with | some r => (keptRegion olds r).isNone | none => false).foldl
        (fun f d => writeData l d f) f
      some (startCtls l m f)
    | none => none
  | none => none

/-- The next image of a line whose source is closed. -/
def nextImage (f : Fabric) (x : Line) : Option (Nat × Image) :=
  match x.recfg with
  | (va, _, _) :: _ => (findImage f x.vf x.pasid va).map fun i => (va, i)
  | [] => none

/-- A drain waits for the resume while the line is stopped by a fault or by EBUDGET, or has a halted generator (R349, R377). -/
def drainWaits (f : Fabric) (x : Line) : Bool :=
  x.stop.isSome || x.stopSoon.isSome || budgetStops f x.id || f.gens.any fun g => g.line == x.id && g.halted

/-- The drain of a RECFG ends once its line is drained, and its new image can be placed and loaded (R183, R349). -/
def recfgDrainedDue (l : Nat) (m : Memory) (f : Fabric) : Bool :=
  match findLine f l with
  | some x =>
    x.closing && !drainWaits f x && x.endStatus.isNone && !x.saved && drained f x
      && (match nextImage f x with
        | some (va, img) => (match recfgBolts f x img with | some bs => (reload m x va img bs f).isSome | none => false)
        | none => false)
  | none => false

/-- RECFG_DRAINED (R183, R349): the new image is loaded and started; the next queued RECFG then begins. -/
def recfgDrained (l : Nat) (m : Memory) (f : Fabric) : Fabric :=
  match findLine f l with
  | some x =>
    match nextImage f x with
    | some (va, img) =>
      match recfgBolts f x img with
      | some bs =>
        match reload m x va img bs f with
        | some f => startRecfg l (((findLine f l).map fun y => y.recfg.length).getD 0) f
        | none => f
      | none => f
    | none => f
  | none => f

def execRecfgDrained (l : Nat) (s : State) : Host.Outcome State Fault Refusal := runEvent (recfgDrainedDue l) (recfgDrained l) s

/-! ## Resizing -/

/-- Windows over a region that ended at its old end are extended with it (R184). -/
def growWindow (rn old extra : Nat) (w : Window) : Window :=
  if w.region = some rn && w.base + w.len == old then { w with len := w.len + extra } else w

/-- Grow every window of a line over a region. -/
def growWindows (l rn old extra : Nat) (f : Fabric) : Fabric :=
  let growP (p : Pattern) : Pattern := { p with win := growWindow rn old extra p.win }
  { f with
    elems := f.elems.map fun e => if e.line = l then { e with w := e.w.map fun x => x.map (growWindow rn old extra) } else e
    gens := f.gens.map fun g => if g.line = l then { g with pat := g.pat.map growP } else g
    ctls := f.ctls.map fun c => if c.line = l then { c with pats := c.pats.map growP } else c }

/-- Perform a resize (R184, R351); none while the pool lacks frames. -/
def resize (x : Resize) (f : Fabric) : Option Fabric :=
  match findRegion f x.line x.region, findLine f x.line with
  | some r, some y =>
    if r.planes ≠ 0 then
      (allocRegion y.vf (channelsOf y.bolts) { r with ovf := Nat.max r.ovf (Nat.min x.val 1048576) } f).map fun z =>
        updRegion x.line r.num (fun _ => z.1) z.2
    else if r.slice || decide (x.val ≤ r.size) then some f
    else
      match allocRegion y.vf (channelsOf y.bolts) { r with size := x.val } f with
      | some (z, f) =>
        let f := updRegion x.line r.num (fun _ => z) f
        some (growWindows x.line r.num (regionArea + r.at_ + r.size) (x.val - r.size) f)
      | none => none
  | _, _ => some f

def rszCompleteDue (id : Nat) (_ : Memory) (f : Fabric) : Bool :=
  match f.resizes.find? fun x => x.id == id with
  | some x =>
    (f.resizes.all fun y => y.line != x.line || y.region != x.region || x.id ≤ y.id) && (resize x f).isSome
  | none => false

/-- RSZ_COMPLETE (R184, R351). -/
def rszComplete (id : Nat) (_ : Memory) (f : Fabric) : Fabric :=
  match f.resizes.find? fun x => x.id == id with
  | some x =>
    let g := (resize x f).getD f
    let g := { g with resizes := g.resizes.filter fun y => y.id != id }
    if x.cmd = 0 then g else completeCmd x.cmd g
  | none => f

def execRszComplete (id : Nat) (s : State) : Host.Outcome State Fault Refusal := runEvent (rszCompleteDue id) (rszComplete id) s

def lstRszDue (l : Nat) (_ : Memory) (f : Fabric) : Bool := (findLine f l).isSome

/-- LST_RSZ (R184): the host's request; for a region that cannot be resized it asks for nothing. -/
def lstRsz (l rg v : Nat) (_ : Memory) (f : Fabric) : Fabric :=
  match findRegion f l rg with
  | some r =>
    if r.planes = 0 && r.slice then f
    else let (id, f) := fresh f; { f with resizes := f.resizes ++ [⟨id, l, rg, v % 2 ^ 32, 0⟩] }
  | none => f

def execLstRsz (l rg v : Nat) (s : State) : Host.Outcome State Fault Refusal := runEvent (lstRszDue l) (lstRsz l rg v) s

end Sys2Proof.Machine
end

