-- ==== Sys2Proof/Machine/SaveBlock.lean ====
section
/-!
DEFINITION. Byte layouts: the register blocks of a line's units (R32, R167, R177, R196, R240), what a pre-emption writes to the
line's save area and what a restore reads back from it (R23, R41, R212, R216 to R219, R240). Where R218 names a block's contents and no
layout, the layout is a DESIGN CHOICE (log 35).
-/
namespace Sys2Proof.Machine

/-! ## Register blocks -/

/-- A register of a block: its offset, its bytes and what it reads as; a reserved field and a write-only register read as
zero (R11, R12). -/
structure Field where
  at_ : Nat
  size : Nat
  val : Nat
  deriving DecidableEq, Repr

/-- A byte of a block; what no register covers reads as zero (log 62). -/
def fieldByte (l : List Field) (o : Nat) : Byte :=
  match l.find? fun x => x.at_ ≤ o && o < x.at_ + x.size with
  | some x => BitVec.ofNat 8 (x.val / 256 ^ (o - x.at_))
  | none => 0

/-- The first `n` bytes of a block. -/
def blockBytes (l : List Field) (n : Nat) : List Byte := (List.range n).map (fieldByte l)

/-- The bellows block (R32). -/
def bellowsFields (b : Bellows) : List Field := (List.range 11).map fun i => ⟨4 * i, 4, bellowsReg b i⟩

/-- A range unit (R196). -/
def rangeFields (u : RangeUnit) : List Field := [⟨0, 4, u.next⟩, ⟨4, 4, u.stop⟩, ⟨8, 4, u.minChunk⟩, ⟨12, 4, u.memb⟩]

/-- The slice offset of a node's counter word; 0 for none. -/
def counterOff (f : Fabric) (c : Cnt) : Nat :=
  match c.addr with
  | some va => (match regionAt f c.line va with | some r => r.base + (va - regionArea - r.at_) | none => 0)
  | none => 0

/-- A count node's registers (R167). -/
def cntFields (f : Fabric) (c : Cnt) : List Field := [
  ⟨0x00, 4, b2n c.pois + 256 * c.queue.length + 2048 * c.scope + 65536 * c.chan.getD 0xFFFF⟩, ⟨0x04, 4, c.tgt⟩, ⟨0x08, 4, c.val⟩,
  ⟨0x0C, 4, c.tot⟩, ⟨0x10, 4, counterOff f c⟩]

/-- A voter block (R177). -/
def voterFields (v : Voter) : List Field := [
  ⟨0, 4, v.dis0 + 1024 * v.dis1 + 1048576 * v.dis2⟩, ⟨4, 4, v.lastSeq % 65536 + 65536 * v.lastCopy⟩]

/-- A counter has wrapped, in this cycle or before (R240, R242). -/
def overflowed (t : Tile) (i : Fin 16) : Bool := t.ovf.getLsbD i.val || decide (2 ^ 48 ≤ t.ctr.get i)

/-- A tile's counter block (R240, R242). -/
def counterFields (t : Tile) : List Field :=
  let ovf := ((List.finRange 16).map fun i => b2n (overflowed t i) * 2 ^ i.val).foldl (· + ·) 0
  ((List.finRange 16).map fun i => ⟨8 * i.val, 8, t.ctr.get i % 2 ^ 48 + 2 ^ 63 * b2n (overflowed t i)⟩)
    ++ ((List.finRange 16).map fun i => ⟨0x80 + i.val, 1, t.sel.get i⟩) ++ [⟨0x90, 4, ovf + 65536 * t.ien.toNat⟩]

/-! ## Tokens -/

/-- A token's 289 bits (R41). -/
def tokenBits (t : Token) : Nat :=
  ofBytes (t.payload.toList.flatMap fun w => leBytes 4 w.toNat)
    + 2 ^ 256 * (t.tag % 16 + 16 * b2n t.poison + 32 * (t.node % 4096) + 2 ^ 17 * (t.seq % 65536))

/-- A slot of 40 bytes (R41). The 31 bits of padding name whose token it is (`mark`). -/
def slotBytes (mark : Nat) (t : Token) : List Byte := leBytes 40 (tokenBits t + 2 ^ 289 * mark)

/-- The mark of the sink's held results. -/
def sinkMark : Nat := 2 ^ 28 - 1

/-- The mark of a token captured in a switch port's link register (R217). -/
def linkMark (port : Nat) : Nat := 2 ^ 28 - 2 - port

/-- A channel's tokens in their slots: marked with the channel's record number plus 1, the first and the last as where its head and
tail pointers stand (R41, R218). -/
def chanSlots (num : Nat) (ts : List Token) : List Byte :=
  ts.zipIdx.flatMap fun y => slotBytes (num + 1 + 2 ^ 28 * b2n (y.2 == 0) + 2 ^ 29 * b2n (y.2 + 1 == ts.length)) y.1

/-- The mark of a station's token: 0 the item's descriptor, 1 its hand-on token, 2 and 3 those of a resumed item, with the item's DONE
marks, whether it is complete and whether it came late (R16, R17, R283). -/
def itemMark (ix kind : Nat) (it : Item) : Nat :=
  2 ^ 30 + 2 ^ 28 * kind + ix + 16 * ((List.range 16).foldl (fun n i => n + 2 ^ i * b2n (it.marks.any fun th => th % 16 == i)) 0)
    + 2 ^ 20 * b2n it.done.isSome + 2 ^ 21 * b2n it.late

/-- An item's tokens in their slots. -/
def itemSlots (ix kind : Nat) (it : Item) : List Byte :=
  slotBytes (itemMark ix kind it) it.desc ++ (match it.out with | some t => slotBytes (itemMark ix (kind + 1) it) t | none => [])

/-- A token's 8 bytes of metadata (R23). -/
def metaBytes (t : Token) : List Byte :=
  leBytes 8 (t.seq % 65536 + 65536 * (t.node % 4096) + 2 ^ 28 * (t.tag % 16) + 2 ^ 32 * b2n t.poison)

/-- A token's payload. -/
def payloadBytes (v : Lanes) : List Byte := v.toList.flatMap fun w => leBytes 4 w.toNat

/-- A kept descriptor's 48 bytes (R212, R218). -/
def keptBytes (k : Token × Nat) : List Byte := payloadBytes k.1.payload ++ metaBytes k.1 ++ leBytes 8 k.2

/-- A rework slot's 576 bytes (R23). -/
def loopBytes (x : LoopSlot) : List Byte :=
  exactly 576 (payloadBytes x.tok.payload ++ metaBytes x.tok ++ leBytes 8 (x.state % 4 + 65536 * satN 16 x.spilled) ++ leBytes 16 0
    ++ x.carry.flatMap fun r => payloadBytes r.v)

/-! ## A line's units -/

/-- An element's 3,328 bytes. -/
def elemBytes (f : Fabric) (e : Elem) : List Byte :=
  let regs := e.lat :: e.o.toList ++ e.m.toList
  let outs := (List.range 4).map fun i => handleChan f e (i + 4)
  exactly 3328 ((e.slots.toList.flatMap fun w => leBytes 4 w.toNat) ++ (e.guards.toList.flatMap fun g => leBytes 8 g.toNat)
    ++ (e.k.toList.flatMap payloadBytes) ++ (regs.flatMap fun r => payloadBytes r.v)
    ++ leBytes 10 ((regs.zipIdx.map fun r => b2n r.1.poison * 2 ^ r.2).foldl (· + ·) 0)
    ++ leBytes 1 e.preds.toNat ++ leBytes 1 e.rotPtr
    ++ (outs.flatMap fun c => leBytes 1 ((c.map fun c => c.staged.length).getD 0))
    ++ outs.flatMap fun c => leBytes 1 (((c.bind fun c => c.pend).map fun t => t.tag).getD 0))

/-- A controller's 256 bytes. -/
def ctlBytes (c : Ctl) : List Byte :=
  exactly 256 (leBytes 2 c.pos ++ leBytes 1 (b2n c.started + 2 * b2n c.stopped + 4 * b2n c.haltAt.isSome) ++ leBytes 1 c.loops.length
    ++ leBytes 2 c.sigs ++ leBytes 2 c.enabWin ++ leBytes 2 c.doneWin ++ leBytes 2 c.enabWait ++ leBytes 2 c.doneWait ++ leBytes 2 c.enabOut.length
    ++ leBytes 2 (c.haltAt.getD 0) ++ c.loops.flatMap fun x => leBytes 2 x.1 ++ leBytes 4 x.2)

/-- Lanes of an operand as a queue entry keeps them: which are not zero, and those. -/
def laneBytes (v : Lanes) : List Byte :=
  leBytes 1 ((List.range 8).foldl (fun n i => n + 2 ^ i * b2n (v.get i != 0)) 0)
    ++ (v.toList.filter fun w => w != 0).flatMap fun w => leBytes 4 w.toNat

/-- A queue entry: its thread, slot and window, whether it is halted, its scope, sequence number and source node, and the lanes of its
operands. -/
def accBytes (a : Acc) : List Byte :=
  leBytes 2 a.th ++ leBytes 1 a.slot ++ leBytes 1 a.win ++ leBytes 1 (b2n a.halted + 2 * b2n a.poison + 4 * b2n a.ordered)
    ++ leBytes 1 a.scope ++ leBytes 2 a.seq ++ leBytes 2 a.node ++ laneBytes a.off ++ laneBytes a.data ++ laneBytes a.cmp

/-- A generator's queue entries, oldest first. -/
def genAccs (f : Fabric) (l tile g : Nat) : List Acc := f.accs.filter fun a => a.line == l && tileOf a.th == tile && a.gen == g

/-- A generator's queue, one entry after the other. The first 960 bytes lie in the generator's own block, as many more behind the
tile's last block; what goes beyond them is kept aside (log 35). -/
def queueBytes (f : Fabric) (l tile g : Nat) : List Byte := exactly 1920 ((genAccs f l tile g).flatMap accBytes)

/-- A generator's 1,024 bytes: the pattern's position, the lanes it holds, and its queue. -/
def genBytes (f : Fabric) (g : AGen) : List Byte :=
  exactly 64 (leBytes 8 g.visit ++ leBytes 1 (b2n g.running + 2 * b2n g.halted + 4 * b2n g.ended) ++ leBytes 1 g.port
      ++ leBytes 1 0 ++ leBytes 1 g.lanes.length ++ leBytes 2 (g.lanes.zipIdx.foldl (fun n y => n + 2 ^ y.2 * b2n y.1.2) 0)
      ++ leBytes 2 0 ++ g.lanes.flatMap fun w => leBytes 4 w.1.toNat)
    ++ (queueBytes f g.line g.tile g.num).take 960

/-- A control block's 64 bytes (R163), as a queue's copy holds them. -/
def templateBytes (t : Template) : List Byte :=
  leBytes 2 (b2n t.gather + 2 * b2n t.cross + 4 * b2n t.remote + 8 * b2n t.mcast + 16 * b2n t.wbuf + 32 * t.scope)
    ++ leBytes 2 (t.node + 16 * b2n t.count) ++ leBytes 4 t.decl ++ leBytes 8 t.src ++ leBytes 8 t.dst ++ leBytes 4 t.rowb
    ++ leBytes 4 t.rows ++ leBytes 4 (wrapU 32 t.sstr) ++ leBytes 4 (wrapU 32 t.dstr) ++ leBytes 8 t.idx ++ leBytes 4 t.dev
    ++ leBytes 1 t.mbr ++ leBytes 1 t.mbuf ++ leBytes 2 0 ++ leBytes 4 (wrapU 32 t.bstr) ++ leBytes 4 0

/-- The copy channels of a tile: its queues' copies of their control blocks, then each channel's WP, entry and position. -/
def copiesBytes (f : Fabric) (l tile : Nat) : List Byte :=
  let ts := (List.range 8).flatMap fun q => ((findHq f l tile q).bind fun h => h.tmpl.map templateBytes).getD (leBytes 64 0)
  let cs := (List.range 4).flatMap fun n => match findCopy f l tile n with
    | some c => exactly 64 (leBytes 4 c.wp ++ leBytes 4 c.entry ++ leBytes 1 (b2n c.busy + 2 * b2n c.halted) ++ leBytes 1 c.queue
        ++ leBytes 2 c.branch ++ leBytes 4 c.row ++ leBytes 4 c.off ++ leBytes 4 c.rows ++ payloadBytes c.tok.payload ++ metaBytes c.tok)
    | none => leBytes 64 0
  exactly 0x400 (ts ++ cs)

/-- The voters of a tile, with the tokens they hold, those that wait and those forwarded among them. -/
def votersBytes (f : Fabric) (l tile : Nat) : List Byte :=
  exactly 0x1000 ((f.voters.filter fun v => v.line == l && v.tile == tile).flatMap fun v =>
    exactly 0x400 (blockBytes (voterFields v) 8 ++ (v.held ++ v.fwd ++ v.wait ++ v.out.map (Prod.mk 3)).flatMap fun (t : Nat × Token) => slotBytes t.1 t.2))

/-- The accumulators of the array a task runs on: the outputs of the row in progress, once they are computed, output (i, j) in word
64 i + j: DESIGN CHOICE, R218 gives their place and not their order (log 35). Rows already written, and rows to come, are zero. -/
def accumulatorBytes (f : Fabric) (t : Task) : List Byte :=
  let row : List Byte := match t.rowA, (if t.init && t.c != 0 then t.rowC else some ([], false)) with
    | some a, some c => (rowOut f t t.row a c).flatMap fun y => leBytes 4 y.1
    | _, _ => []
  (List.range 64).flatMap fun i => exactly 256 (if i = t.row then row else [])

/-- The accumulators, the record and the position of the task that runs on a tile's array (R174, R217, R218). -/
def matrixBytes (f : Fabric) (l tile : Nat) : List Byte :=
  let ts := (f.mx.filter fun b => b.line == l).flatMap fun b => b.flight.filter fun t => taskTile t == tile
  exactly 0x4100 ((ts.head?.map fun t =>
    accumulatorBytes f t
      ++ leBytes 1 t.pair ++ leBytes 1 (b2n t.init + 2 * b2n t.mir + 4 * b2n t.bwb + 8 * t.queue + 32 * t.scope)
      ++ leBytes 1 (t.cnt + 16 * b2n t.count) ++ leBytes 1 t.wtile ++ leBytes 1 t.m ++ leBytes 1 t.n ++ leBytes 2 t.k ++ leBytes 8 t.a
      ++ leBytes 4 t.sa ++ leBytes 4 t.woff ++ leBytes 8 t.b ++ leBytes 8 t.c ++ leBytes 4 t.sc ++ leBytes 4 t.sb
      ++ leBytes 2 (t.chain.getD 0xFFFF) ++ leBytes 2 t.decl ++ leBytes 12 0 ++ leBytes 2 t.row ++ leBytes 2 t.put).getD [])

/-! ## The save area -/

/-- The frames of the save area, allocated if there are none yet (R218, R376): a line block and 34 for each tile. -/
def saveArea (x : Line) (f : Fabric) : Option Fabric :=
  if !x.saveFrames.isEmpty then some f
  else (allocPages x.vf x.cls (channelsOf x.bolts) (1 + 34 * (16 * x.bolts.length)) 0 f).map fun y =>
    updLine x.id (fun z => { z with saveFrames := y.1 }) y.2

/-- The physical address of a byte of the save area. -/
def saveByte (x : Line) (o : Nat) : Nat := x.saveFrames.getD (o / 65536) 0 * 65536 + o % 65536

/-- Where a tile's block begins (R218). -/
def tileBlock (tile : Nat) : Nat := 0x10000 + 0x220000 * tile

/-- Where a byte of a tile's slice lies in the save area (R218). -/
def sliceImage (x : Line) (tile off : Nat) : Nat := saveByte x (tileBlock tile + 0x20000 + off)

/-- Write bytes at an offset of the save area that is a multiple of 64. -/
def putSave (x : Line) (o : Nat) (bs : List Byte) (f : Fabric) : Fabric :=
  (List.range ((bs.length + 63) / 64)).foldl (fun f i =>
    writePhys x.vf x.cls (saveByte x (o + 64 * i)) ((bs.drop (64 * i)).take 64) false f) f

/-- A channel whose contents a gate records at its reader's tile, which saves in a round (R216): none whose route ends at a guarded port,
for its tokens never come there (R255). -/
def gateOpen (f : Fabric) (l tile : Nat) (c : Chan) : Bool :=
  c.line == l && c.gate && c.crossTile && (guardPort f c).isNone && endTile f l c.reader == some tile && ((findTile f l tile).map fun t => t.inRound) == some true

/-- When a tile entered its round. -/
def entryTime (f : Fabric) (l tile : Nat) : Nat := ((findTile f l tile).map fun t => t.roundAt).getD 0

/-- The tokens of a channel that lie in its reader's pool, in order (R43); of a recorded gate, those that came before the entry. -/
def poolTokens (f : Fabric) (l tile : Nat) (c : Chan) : List Token :=
  if gateOpen f l tile c then (c.q.filter fun s => decide (s.seen ≤ entryTime f l tile)).map fun s => s.tok
  else c.q.map (fun s => s.tok) ++ c.part ++ c.raw.map (fun s => s.tok) ++ c.staged.map fun s => s.tok

/-- The channels whose tokens lie in a tile's pool: a route that ends at a guarded port has no reader (R43, R226). -/
def poolChans (f : Fabric) (l tile : Nat) : List Chan :=
  f.chans.filter fun c => c.line == l && endTile f l c.reader == some tile && (guardPort f c).isNone

/-- The stations of a tile, in order. -/
def tileStations (f : Fabric) (l tile : Nat) : List Station := (stationsOf f l).filter fun s => s.tile == tile

/-- A tile's token pool (R218): its channels' tokens, its stations' items and the sink's held results. -/
def poolBytes (f : Fabric) (x : Line) (tile : Nat) : List Byte :=
  exactly 0xA000 (((poolChans f x.id tile).flatMap fun c => chanSlots c.num (poolTokens f x.id tile c))
    ++ ((tileStations f x.id tile).zipIdx.flatMap fun s => ((s.1.item.map (itemSlots s.2 0)).getD [])
        ++ ((s.1.resumed.map fun y => itemSlots s.2 2 y.2).getD []))
    ++ (if endTile f x.id .sink == some tile then x.held.flatMap (slotBytes sinkMark) else []))

/-- The tokens of the cut a gate records at its reader's tile: those that came after its round entry (R216). -/
def gateTokens (f : Fabric) (l tile : Nat) : List (Nat × Token) :=
  (f.chans.filter (gateOpen f l tile)).flatMap fun c =>
    (c.gateRec.getD ((c.q.filter fun s => decide (entryTime f l tile < s.seen)).map fun s => s.tok)).map fun t => (c.num + 1, t)

/-- The tokens captured at a tile's save (R217). -/
def capturedTokens (f : Fabric) (l tile : Nat) : List (Nat × Token) :=
  ((findTile f l tile).map fun t => t.captured.map fun k => (linkMark k.port, k.tok)).getD []

/-- A unit of a tile is halted by a fault (R207, R218). -/
def tileHalted (f : Fabric) (l tile : Nat) : Bool :=
  f.accs.any (fun a => a.line == l && tileOf a.th == tile && a.halted) || f.gens.any (fun g => g.line == l && g.tile == tile && g.halted)
    || f.copies.any (fun c => c.line == l && c.tile == tile && c.halted) || f.hqs.any (fun q => q.line == l && q.tile == tile && q.halted)
    || f.mx.any fun b => b.line == l && b.flight.any fun t => t.halted && taskTile t == tile

/-- A tile block's header, with the counters at 0x40 (R218, R240). Its flags tell of halted units, gate contents and captured tokens:
DESIGN CHOICE in bits 0, 1 and 2 (log 35). -/
def headerBytes (f : Fabric) (l : Nat) (t : Tile) : List Byte :=
  exactly 0x40 (leBytes 4 t.num ++ leBytes 4 t.round
    ++ leBytes 4 (b2n (tileHalted f l t.num) + 2 * b2n (!(gateTokens f l t.num).isEmpty) + 4 * b2n (!t.captured.isEmpty))) ++ blockBytes (counterFields t) 0x94

/-- A tile's captured tokens and gate contents (R216 to R218). -/
def saveGate (x : Line) (tile : Nat) (f : Fabric) : Fabric :=
  putSave x (tileBlock tile + 0x18000)
    (exactly 0x400 ((capturedTokens f x.id tile ++ gateTokens f x.id tile).flatMap fun t => slotBytes t.1 t.2)) f

/-- A tile's block but for its slice image (R218). -/
def saveTile (x : Line) (t : Tile) (f : Fabric) : Fabric :=
  let l := x.id
  let b := tileBlock t.num
  let each (n : Nat) (g : Nat → List Byte) : List Byte := (List.range n).flatMap g
  let f := putSave x b (headerBytes f l t) f
  let f := putSave x (b + 0x100) (each 8 fun n => ((findCtl f l t.num n).map ctlBytes).getD (leBytes 256 0)) f
  let f := putSave x (b + 0x1000) (each 16 fun n => ((findElem f l (t.num * 16 + n)).map (elemBytes f)).getD (leBytes 3328 0)) f
  let f := putSave x (b + 0xE000) (poolBytes f x t.num) f
  let f := putSave x (b + 0x18400) (each 4 fun n => ((findGen f l t.num n).map (genBytes f)).getD (leBytes 1024 0)) f
  let f := putSave x (b + 0x19400) (copiesBytes f l t.num) f
  let f := putSave x (b + 0x19800) (each 16 fun n => ((findCnt f l t.num n).map fun c => blockBytes (cntFields f c) 32).getD (leBytes 32 0)) f
  let f := putSave x (b + 0x19A00) (votersBytes f l t.num) f
  let f := putSave x (b + 0x1F100) (each 4 fun n => (queueBytes f l t.num n).drop 960) f
  saveGate x t.num (putSave x (b + 0x1B000) (matrixBytes f l t.num) f)

/-- A group record's 8 bytes: its number, its members and those arrived, its step. -/
def groupBytes (g : Group) : List Byte :=
  exactly 8 (leBytes 2 g.num ++ leBytes 2 g.members.length ++ leBytes 2 g.arrived.length ++ leBytes 2 g.step)

/-- The kept descriptors of a line in sequence order from NEXT (R218). -/
def keptInOrder (x : Line) : List (Token × Nat) :=
  sortBy (fun a b => decide ((a.1.seq + 65536 - x.next) % 65536 ≤ (b.1.seq + 65536 - x.next) % 65536)) x.kept

/-- The line block (R218). -/
def saveLineBlock (x : Line) (f : Fabric) : Fabric :=
  let ks := keptInOrder x
  let source := leBytes 2 x.nextSeq ++ leBytes 2 (x.lastSeq.getD 0) ++ leBytes 4 (if x.gap < 2 then 0 else (x.beatIx + 1) % x.gap)
    ++ leBytes 4 ((x.eosTok.map fun t => t.tag).getD 0) ++ leBytes 2 x.next ++ leBytes 2 (b2n x.lastSeq.isSome) ++ leBytes 4 x.round ++ leBytes 8 x.beatIx
  let f := putSave x 0 (exactly 0x40 (blockBytes (bellowsFields x.bel) 0x2C)) f
  let f := putSave x 0x40 (exactly 0x40 source) f
  let f := putSave x 0x80 (exactly 0x80 (x.ranges.flatMap fun u => blockBytes (rangeFields u) 16)) f
  let f := putSave x 0x100 (exactly 0x7F00 (ks.flatMap keptBytes)) f
  putSave x 0x8000 (exactly 0x8000 ((f.groups.filter fun g => g.line == x.id).flatMap groupBytes)) f

/-! ## Slice images -/

/-- A slice offset of a region declared `discard`. -/
def discarded (f : Fabric) (l tile off : Nat) : Bool :=
  f.regions.any fun r => r.line == l && r.slice && r.discard && r.tile == tile && r.base ≤ off && off < r.base + r.size

/-- The rework loops of a tile's stations, which lie at the end of its slice (R23; log 35). -/
def loopsBytes (f : Fabric) (l tile : Nat) : List Byte := (tileStations f l tile).flatMap fun s => s.loop.flatMap loopBytes

/-- Move a tile's slice to its image in the save area: read as any read is, its errors observed, and written with its poison and
its write histories (R125, R126, R157, R218). The loops stand at its end. R131 has no unit kind for such reads: DESIGN CHOICE an
EBUDGET record that one raises has all ones as its unit index (log 79). -/
def saveSlice (m : Memory) (x : Line) (tile : Nat) (f : Fabric) : Fabric :=
  let base := sliceAddr f x.id tile 0
  let mine (a : Nat) : Bool := base ≤ a && a < base + 2 ^ 36
  let keep (a : Nat) : Bool := mine a && !discarded f x.id tile (a - base)
  let dest (a : Nat) : Nat := sliceImage x tile (a - base)
  let who := { Rec.ofLine f x.id 7 with bolt := tile / 16, tile := tile % 16 }
  let g := (List.range 262144).foldl (fun g i =>
    let a := base + 8 * i
    let (r, g) := readPhys m x.vf x.cls a 8 (newAccess g)
    let bad := r.poison && !(f.poison.any fun p => p.1 == a / 64) && !(f.wpoison.any fun w => w == a || w == a + 4)
    charge x.vf r.cost who (r.bytes.zipIdx.foldl (fun g b =>
      if keep (a + b.2) then writePhys x.vf x.cls (dest (a + b.2)) [b.1] bad g else g) g)) f
  let loops := loopsBytes f x.id tile
  let g := loops.zipIdx.foldl (fun g b => writePhys x.vf x.cls (sliceImage x tile (0x200000 - loops.length + b.2)) [b.1] false g) g
  let moved := (f.poison.filter fun p => keep (p.1 * 64)).map fun p => (dest (p.1 * 64) / 64, p.2)
  { g with
    poison := moved ++ g.poison.filter fun p => !mine (p.1 * 64)
    wpoison := (f.wpoison.filter keep).map dest ++ g.wpoison.filter fun w => !mine w
    errs := g.errs.filter fun e => !mine e.at_
    hist := (g.hist.filter fun h => !mine h.word || keep h.word).map fun h => if mine h.word then { h with word := dest h.word } else h }

/-- The offset in the save area of a physical address, if it lies there. -/
def saveOffset (x : Line) (a : Nat) : Option Nat :=
  (x.saveFrames.zipIdx.find? fun fr => fr.1 == a / 65536).map fun fr => fr.2 * 65536 + a % 65536

/-- The tile and slice offset of a byte of the save area's slice images. -/
def imageOffset (x : Line) (a : Nat) : Option (Nat × Nat) :=
  match saveOffset x a with
  | some o =>
    let r := (o - 0x10000) % 0x220000
    if 0x10000 ≤ o && 0x20000 ≤ r then some ((o - 0x10000) / 0x220000, r - 0x20000) else none
  | none => none

/-- What a restore has read of a save area: each line of 64 bytes by its number, and whether it was poisoned. -/
abbrev Saved := List (Nat × List Byte × Bool)

/-- Read a save area back and write its slice images on the bolts the line now has (R219): it is read as any memory is, and errors met
in it are charged (R125; the unit index as in `saveSlice`, log 79). A region declared `discard` is not written back: the freed slices
read as zero. -/
def restoreSlices (m : Memory) (x : Line) (f : Fabric) : Saved × Fabric :=
  let dest (a : Nat) : Option Nat := (imageOffset x a).map fun y => sliceAddr f x.id y.1 y.2
  let who := { Rec.ofLine f x.id 7 with unit := 0xFF }
  let line (fr : Nat × Nat) (acc : Saved × Fabric) (i : Nat) : Saved × Fabric :=
    let a := fr.1 * 65536 + 64 * i
    let (r, g) := readPhys m x.vf x.cls a 64 (newAccess acc.2)
    let g := charge x.vf r.cost who g
    ((fr.2 * 1024 + i, r.bytes, r.poison) :: acc.1,
      match dest a with | some b => writePhys x.vf x.cls b r.bytes (r.poison && !(f.poison.any fun p => p.1 == a / 64)) g | none => g)
  let (s, g) := x.saveFrames.zipIdx.foldl (fun acc fr => (List.range 1024).foldl (line fr) acc) (([] : Saved), f)
  (s, { g with
    hist := g.hist.map fun h => match dest h.word with | some b => { h with word := b } | none => h
    poison := (f.poison.filterMap fun p => (dest (p.1 * 64)).map fun b => (b / 64, p.2))
      ++ g.poison.filter fun p => (saveOffset x (p.1 * 64)).isNone
    wpoison := f.wpoison.filterMap dest ++ g.wpoison.filter fun w => (saveOffset x w).isNone })

/-- The regions declared `discard` read as zero after a restore (R219): a planed one has no contribution left. -/
def zeroDiscarded (l : Nat) (f : Fabric) : Fabric :=
  let mine (r : Region) : Bool := r.line == l && r.discard
  (f.regions.filter fun r => mine r && !r.slice).foldl (fun f r => beginScrub (vfOf l) r.cls (r.pages.map Prod.fst) f)
    { f with regions := f.regions.map fun r => if mine r then { r with contribs := [] } else r }

/-! ## Reading the blocks back (R219)

The records a saved line keeps say which units, tokens and entries there are, and hold what the blocks have no room for (log 35); what
the blocks do hold is taken from the bytes of the save area as they are read. -/

/-- A byte of the save area. -/
def Saved.byte (s : Saved) (o : Nat) : Byte := ((s.find? fun y => y.1 == o / 64).map fun y => y.2.1.getD (o % 64) 0).getD 0

/-- Some bytes of the save area. -/
def Saved.bytes (s : Saved) (o n : Nat) : List Byte := (List.range n).map fun i => s.byte (o + i)

/-- A field of the save area. -/
def Saved.nat (s : Saved) (o n : Nat) : Nat := ofBytes (s.bytes o n)

/-- A bit of the save area. -/
def Saved.bit (s : Saved) (o i : Nat) : Bool := s.nat (o + i / 8) 1 / 2 ^ (i % 8) % 2 == 1

/-- A line that some bytes lie in was read poisoned. -/
def Saved.bad (s : Saved) (o n : Nat) : Bool := s.any fun y => y.2.2 && o / 64 ≤ y.1 && y.1 ≤ (o + n - 1) / 64

/-- Lanes of the save area. -/
def Saved.lanes (s : Saved) (o : Nat) : Lanes := lanesOf (s.bytes o 32)

/-- A count of which the block holds the low `n` bytes. -/
def Saved.low (s : Saved) (o n old : Nat) : Nat := old / 256 ^ n * 256 ^ n + s.nat o n

/-- A token read back from a slot (R41); one from a poisoned line is poisoned. -/
def Saved.token (s : Saved) (o : Nat) (t : Token) : Token :=
  let v := s.nat (o + 32) 8
  { t with payload := s.lanes o, tag := v % 16, poison := v / 16 % 2 == 1 || s.bad o 40, node := v / 32 % 4096, seq := v / 2 ^ 17 % 65536 }

/-- A token read back from a payload and its 8 bytes of metadata (R23). -/
def Saved.metaToken (s : Saved) (o : Nat) (t : Token) : Token :=
  let v := s.nat (o + 32) 8
  { t with payload := s.lanes o, seq := v % 65536, node := v / 65536 % 4096, tag := v / 2 ^ 28 % 16, poison := v / 2 ^ 32 % 2 == 1 || s.bad o 40 }

/-- The slots of a tile's pool and of its gate block whose mark meets a test, in order. -/
def Saved.places (s : Saved) (b : Nat) (p : Nat → Bool) : List Nat :=
  (((List.range 1024).map fun i => b + 0xE000 + 40 * i) ++ (List.range 25).map fun i => b + 0x18000 + 40 * i).filter fun o =>
    p (s.nat (o + 36) 4 / 2)

/-- The `i`-th of some tokens, read back from the `i`-th of their places. -/
def Saved.retake (s : Saved) (ps : List Nat) (i : Nat) (t : Token) : Token := match ps[i]? with | some o => s.token o t | none => t

/-- A channel's tokens. -/
def Saved.chan (s : Saved) (b : Nat) (c : Chan) : Chan :=
  let ps := s.places b fun v => v < 2 ^ 30 && v % 2 ^ 28 == c.num + 1
  let slots (n : Nat) (ts : List Slot) : List Slot := ts.zipIdx.map fun y => { y.1 with tok := s.retake ps (n + y.2) y.1.tok }
  let n1 := c.q.length
  let n2 := n1 + c.part.length
  { c with
    q := slots 0 c.q
    part := c.part.zipIdx.map fun y => s.retake ps (n1 + y.2) y.1
    raw := slots n2 c.raw
    staged := c.staged.zipIdx.map fun y => { y.1 with tok := s.retake ps (n2 + c.raw.length + y.2) y.1.tok } }

/-- An item in work, by its tokens' places. -/
def Saved.item (s : Saved) (b ix kind : Nat) (it : Item) : Item :=
  let places (k : Nat) : List Nat := s.places b fun v => 2 ^ 30 ≤ v && v / 2 ^ 28 % 4 == k && v % 16 == ix
  match (places kind)[0]? with
  | some o =>
    let v := s.nat (o + 36) 4 / 2
    let marked (th : Nat) : Bool := v / 2 ^ (4 + th % 16) % 2 == 1
    { it with
      desc := s.token o it.desc
      out := it.out.map (s.retake (places (kind + 1)) 0)
      marks := it.marks.filter marked
      done := if v / 2 ^ 20 % 2 = 1 then some (it.done.getD 0) else none
      late := v / 2 ^ 21 % 2 == 1 }
  | none => it

/-- A rework slot (R23). -/
def Saved.loopSlot (s : Saved) (o : Nat) (x : LoopSlot) : LoopSlot :=
  { x with
    tok := s.metaToken o x.tok
    state := s.nat (o + 0x28) 1 % 4
    spilled := s.low (o + 0x2A) 2 x.spilled
    carry := x.carry.zipIdx.map fun y => if y.2 < 16 then { y.1 with v := s.lanes (o + 0x40 + 32 * y.2) } else y.1 }

/-- A station's items and rework loop; its loop stands `at_` bytes before the end of the slice image. -/
def Saved.station (s : Saved) (b ix at_ : Nat) (st : Station) : Station :=
  { st with
    item := st.item.map (s.item b ix 0)
    resumed := st.resumed.map fun y => (y.1, s.item b ix 2 y.2)
    loop := st.loop.zipIdx.map fun y => s.loopSlot (b + 0x220000 - at_ + 576 * y.2) y.1 }

/-- An element. -/
def Saved.elem (s : Saved) (o : Nat) (e : Elem) : Elem :=
  let reg (i : Nat) : Reg := ⟨s.lanes (o + 0x380 + 32 * i), s.bit (o + 0xCA0) i || s.bad (o + 0x380 + 32 * i) 32⟩
  { e with
    slots := Vector.ofFn fun i => BitVec.ofNat 32 (s.nat (o + 4 * i.val) 4)
    guards := Vector.ofFn fun i => BitVec.ofNat 64 (s.nat (o + 0x80 + 8 * i.val) 8)
    k := Vector.ofFn fun i => s.lanes (o + 0x280 + 32 * i.val)
    lat := reg 0
    o := Vector.ofFn fun i => reg (1 + i.val)
    m := Vector.ofFn fun i => reg (9 + i.val)
    preds := BitVec.ofNat 7 (s.nat (o + 0xCAA) 1)
    rotPtr := s.nat (o + 0xCAB) 1 }

/-- The ranks of the end-of-stream marks pending at an element's outputs. -/
def Saved.pends (s : Saved) (o : Nat) (e : Elem) (f : Fabric) : Fabric :=
  (List.range 4).foldl (fun f i => match vget e.h (i + 4) with
    | .chan l n => updChan l n (fun c => { c with pend := c.pend.map fun t => { t with tag := s.nat (o + 0xCB0 + i) 1 } }) f
    | _ => f) f

/-- A controller's position, HALT, loop counts, and signals. -/
def Saved.ctl (s : Saved) (o : Nat) (c : Ctl) : Ctl :=
  { c with
    pos := s.nat o 2
    started := s.bit (o + 2) 0
    stopped := s.bit (o + 2) 1
    sigs := s.nat (o + 4) 2
    enabWin := s.nat (o + 6) 2
    doneWin := s.nat (o + 8) 2
    loops := c.loops.zipIdx.map fun y => if y.2 < 38 then (s.nat (o + 18 + 6 * y.2) 2, s.nat (o + 20 + 6 * y.2) 4) else y.1 }

/-- A byte of a generator's queue. -/
def queueAt (b g p : Nat) : Nat := if p < 960 then b + 0x18440 + 1024 * g + p else b + 0x1F100 + 960 * g + (p - 960)

/-- A field of a generator's queue. -/
def Saved.queueNat (s : Saved) (b g p n : Nat) : Nat := ofBytes ((List.range n).map fun i => s.byte (queueAt b g (p + i)))

/-- Lanes of an operand in a generator's queue, those the entry keeps. -/
def Saved.queueLanes (s : Saved) (b g p : Nat) (v : Lanes) : Lanes :=
  Lanes.ofFn fun i => if v.get i = 0 then 0
    else BitVec.ofNat 32 (s.queueNat b g (p + 1 + 4 * ((v.toList.take i).filter fun w => w != 0).length) 4)

/-- A queue entry. -/
def Saved.acc (s : Saved) (b g p : Nat) (a : Acc) : Acc :=
  let fl := s.queueNat b g (p + 4) 1
  let p1 := p + 10 + (laneBytes a.off).length
  { a with
    th := s.queueNat b g p 2
    slot := s.queueNat b g (p + 2) 1
    win := s.queueNat b g (p + 3) 1
    halted := fl % 2 == 1
    poison := fl / 2 % 2 == 1
    ordered := fl / 4 % 2 == 1
    scope := s.queueNat b g (p + 5) 1
    seq := s.queueNat b g (p + 6) 2
    node := s.queueNat b g (p + 8) 2
    off := s.queueLanes b g (p + 10) a.off
    data := s.queueLanes b g p1 a.data
    cmp := s.queueLanes b g (p1 + (laneBytes a.data).length) a.cmp }

/-- The entries of a generator's queue that lie whole in the block. -/
def Saved.queue (s : Saved) (b g : Nat) : Nat → List Acc → List Acc
  | _, [] => []
  | p, a :: r => (if p + (accBytes a).length ≤ 1920 then s.acc b g p a else a) :: s.queue b g (p + (accBytes a).length) r

/-- A generator's pattern position and what it holds. -/
def Saved.gen (s : Saved) (b : Nat) (g : AGen) : AGen :=
  let o := b + 0x18400 + 1024 * g.num
  { g with
    visit := s.low o 8 g.visit
    running := s.bit (o + 8) 0
    halted := s.bit (o + 8) 1
    ended := s.bit (o + 8) 2
    port := s.nat (o + 9) 1
    lanes := g.lanes.zipIdx.map fun y => (BitVec.ofNat 32 (s.nat (o + 16 + 4 * y.2) 4), s.bit (o + 12) y.2 || s.bad (o + 16 + 4 * y.2) 4) }

/-- A copy channel. -/
def Saved.copy (s : Saved) (b : Nat) (c : CopyCh) : CopyCh :=
  let o := b + 0x19600 + 64 * c.num
  { c with
    wp := s.nat o 4
    entry := s.low (o + 4) 4 c.entry
    busy := s.bit (o + 8) 0
    halted := s.bit (o + 8) 1
    queue := s.nat (o + 9) 1
    branch := s.nat (o + 10) 2
    row := s.nat (o + 12) 4
    off := s.nat (o + 16) 4
    rows := s.nat (o + 20) 4
    tok := s.metaToken (o + 24) c.tok }

/-- A queue's copy of its control block. -/
def Saved.hq (s : Saved) (b : Nat) (h : HwQ) : HwQ :=
  { h with tmpl := h.tmpl.map fun t => readTemplate t.addr (s.bytes (b + 0x19400 + 64 * h.num) 64) }

/-- A count node (R167). -/
def Saved.cnt (s : Saved) (b : Nat) (c : Cnt) : Cnt :=
  let o := b + 0x19800 + 32 * c.num
  { c with pois := s.bit o 0, scope := s.nat (o + 1) 1 / 8 % 8, tgt := s.nat (o + 4) 4, val := s.low (o + 8) 4 c.val, tot := s.low (o + 12) 4 c.tot }

/-- The `ix`-th voter of a tile, with the tokens that lie in its block (R177). -/
def Saved.voter (s : Saved) (b ix : Nat) (v : Voter) : Voter :=
  let o := b + 0x19A00 + 0x400 * ix
  let take (n : Nat) (ts : List (Nat × Token)) : List (Nat × Token) :=
    ts.zipIdx.map fun y => if n + y.2 < 25 then (y.1.1, s.token (o + 8 + 40 * (n + y.2)) y.1.2) else y.1
  let c := s.nat o 4
  { v with
    dis0 := c % 1024, dis1 := c / 1024 % 1024, dis2 := c / 1048576 % 1024
    lastSeq := s.nat (o + 4) 2, lastCopy := s.nat (o + 6) 1 % 4
    held := take 0 v.held
    fwd := take v.held.length v.fwd
    wait := take (v.held.length + v.fwd.length) v.wait
    out := (take (v.held.length + v.fwd.length + v.wait.length) (v.out.map fun t => (3, t))).map Prod.snd }

/-- The task a tile's block holds: its record and its position (R172, R217). -/
def Saved.task (s : Saved) (b : Nat) (t : Task) : Task :=
  let o := b + 0x1F000
  let c := s.nat (o + 1) 1
  let n := s.nat (o + 2) 1
  { t with
    pair := s.nat o 1, init := c % 2 == 1, mir := c / 2 % 2 == 1, bwb := c / 4 % 2 == 1, queue := c / 8 % 4, scope := c / 32
    cnt := n % 16, count := n / 16 % 2 == 1, wtile := s.nat (o + 3) 1, m := s.nat (o + 4) 1, n := s.nat (o + 5) 1, k := s.nat (o + 6) 2
    a := s.nat (o + 8) 8, sa := s.nat (o + 16) 4, woff := s.nat (o + 20) 4, b := s.nat (o + 24) 8, c := s.nat (o + 32) 8
    sc := s.nat (o + 40) 4, sb := s.nat (o + 44) 4, decl := s.nat (o + 50) 2, row := s.nat (o + 64) 2, put := s.nat (o + 66) 2 }

/-- A tile's counters and round, and its captured tokens (R217, R218, R240). -/
def Saved.tile (s : Saved) (b : Nat) (t : Tile) : Tile :=
  { t with
    round := s.low (b + 4) 4 t.round
    ctr := Vector.ofFn fun i => s.nat (b + 0x40 + 8 * i.val) 6
    sel := Vector.ofFn fun i => s.nat (b + 0xC0 + i.val) 1
    ovf := BitVec.ofNat 16 (s.nat (b + 0xD0) 2)
    ien := BitVec.ofNat 16 (s.nat (b + 0xD2) 2)
    captured := t.captured.zipIdx.map fun y => { y.1 with
      tok := s.retake (s.places b fun v => v == linkMark y.1.port) ((t.captured.take y.2).filter fun k => k.port == y.1.port).length y.1.tok } }

/-- The bellows registers (R32). -/
def Saved.bellows (s : Saved) (b : Bellows) : Bellows :=
  let w (i : Nat) : Nat := s.nat (4 * i) 4
  { b with
    fixed := w 0 % 2 == 1, ovfRaise := w 0 / 2 % 2 == 1, stretched := w 0 / 4 % 2 == 1, beat := w 1 % 65536, floor := w 1 / 65536
    min := w 2 % 65536, max := w 2 / 65536, up := w 3 % 65536, down := w 3 / 65536, window := w 4 % 32768, low := w 5 % 65536
    high := w 5 / 65536, wovr := w 6 % 65536, wbeats := w 6 / 65536 % 32768, wstr := w 6 / 2147483648 == 1, stall := w 7
    ovr := w 8, ovf := w 9, str := w 10 }

/-- A line: bellows, source and sink, range units, kept descriptors, held results (R218). -/
def Saved.line (s : Saved) (b : Nat) (x : Line) : Line :=
  let ks := keptInOrder x
  { x with
    bel := s.bellows x.bel
    nextSeq := s.low 0x40 2 x.nextSeq
    lastSeq := x.lastSeq.map (s.low 0x42 2)
    eosTok := x.eosTok.map fun t => { t with tag := s.nat 0x48 4 % 16 }
    next := s.low 0x4C 2 x.next
    round := s.low 0x50 4 x.round
    beatIx := s.low 0x54 8 x.beatIx
    ranges := x.ranges.zipIdx.map fun u => { u.1 with
      next := s.nat (0x80 + 16 * u.2) 4, stop := s.nat (0x84 + 16 * u.2) 4, minChunk := s.nat (0x88 + 16 * u.2) 4, memb := s.nat (0x8C + 16 * u.2) 4 }
    kept := x.kept.map fun k =>
      let o := 0x100 + 48 * ks.idxOf k
      if o + 48 ≤ 0x8000 then (s.metaToken o k.1, s.nat (o + 40) 8) else k
    held := x.held.zipIdx.map fun y => s.retake (s.places b fun v => v % 2 ^ 28 == sinkMark) y.2 y.1 }

/-- The steps of a line's groups. -/
def Saved.group (s : Saved) (ix : Nat) (g : Group) : Group := if ix < 4096 then { g with step := s.low (0x8006 + 8 * ix) 2 g.step } else g

/-- A unit acted on while its line is saved is changed in the save area too, where the restore finds it (R206, R219; log 35). -/
def resave (l : Nat) (f : Fabric) : Fabric :=
  match findLine f l with
  | some x =>
    if x.saveFrames.isEmpty then f
    else
      let f := (f.tiles.filter fun t => t.line == l && t.saved).foldl (fun f t => saveTile x t f) f
      if x.saved then saveLineBlock x f else f
  | none => f

/-- A unit of a line, read back from the block of its tile; one of another line stays. -/
def fromBlock {α : Type} (l line tile : Nat) (g : Nat → α → α) (x : α) : α := if line = l then g (tileBlock tile) x else x

/-- WRITE THE BLOCKS BACK (R219): each unit of each tile from the tile's block. -/
def reinstate (s : Saved) (l : Nat) (f : Fabric) : Fabric :=
  let block (f : Fabric) (e : End) : Option Nat := (endTile f l e).map tileBlock
  let loopsBefore (st : Station) : Nat :=     -- bytes of the slice image from its station's loop to the end
    576 * (((tileStations f l st.tile).filter fun y => st.num ≤ y.num).map fun y => y.loop.length).foldl (· + ·) 0
  let ix (st : Station) : Nat := ((tileStations f l st.tile).filter fun y => y.num < st.num).length
  let queues := (f.gens.filter fun g => g.line == l).flatMap fun g => s.queue (tileBlock g.tile) g.num 0 (genAccs f l g.tile g.num)
  let head (t : Task) : Bool := ((f.mx.filter fun b => b.line == l).flatMap fun b => b.flight).find? (fun y => taskTile y == taskTile t) == some t
  let pooled (c : Chan) : Bool := c.line == l && (guardPort f c).isNone
  let f : Fabric := { f with
    elems := f.elems.map fun (e : Elem) => fromBlock l e.line (tileOf e.thread) (fun b => s.elem (b + 0x1000 + 3328 * (e.thread % 16))) e
    chans := f.chans.map fun c => if pooled c then (match block f c.reader with | some b => s.chan b c | none => c) else c
    stations := f.stations.map fun (st : Station) => fromBlock l st.line st.tile (fun b => s.station b (ix st) (loopsBefore st)) st
    gens := f.gens.map fun (g : AGen) => fromBlock l g.line g.tile s.gen g
    accs := f.accs.map fun a => (queues.find? fun y => y.id == a.id).getD a
    copies := f.copies.map fun (c : CopyCh) => fromBlock l c.line c.tile s.copy c
    hqs := f.hqs.map fun (h : HwQ) => fromBlock l h.line h.tile s.hq h
    cnts := f.cnts.map fun (c : Cnt) => fromBlock l c.line c.tile s.cnt c
    voters := f.voters.map fun (v : Voter) => fromBlock l v.line v.tile
      (fun b => s.voter b ((f.voters.filter fun y => y.line == l && y.tile == v.tile).idxOf v)) v
    mx := f.mx.map fun y => if y.line = l then { y with flight := y.flight.map fun t => if head t then s.task (tileBlock (taskTile t)) t else t } else y
    ctls := f.ctls.map fun (c : Ctl) => fromBlock l c.line c.tile (fun b => s.ctl (b + 0x100 + 256 * c.num)) c
    tiles := f.tiles.map fun (t : Tile) => fromBlock l t.line t.num s.tile t
    groups := f.groups.map fun g => if g.line = l then s.group ((f.groups.filter fun y => y.line == l).idxOf g) g else g
    lines := f.lines.map fun x => if x.id = l then s.line ((block f .sink).getD 0) x else x }
  (f.elems.filter fun e => e.line == l).foldl (fun f e => s.pends (tileBlock (tileOf e.thread) + 0x1000 + 3328 * (e.thread % 16)) e f) f

end Sys2Proof.Machine
end

