-- ==== Sys2Proof/Machine/Rounds.lean ====
section
/-!
DEFINITION. Rounds, pre-emption and restore (R157, R200, R212, R214 to R219, R252, R254): ROUND_ENTRY, TILE_SAVE,
QUIESCENT_PREEMPT and LINE_RESTORE.
-/
namespace Sys2Proof.Machine

/-! ## Rounds -/

/-- A round marker (R214): tag 6, the round in lane 0. -/
def marker (r : Nat) : Token := ⟨Lanes.two (BitVec.ofNat 32 r) 0, 6, false, 0xFFF, 0, []⟩

/-- A token is the marker of a round. -/
def isMarker (r : Nat) (t : Token) : Bool := t.tag == 6 && t.payload.l0.toNat == r % 2 ^ 32

/-- The round inputs of a tile that are channels (R215): no gate, and no route that ends at a guarded port. -/
def roundInputs (f : Fabric) (l tile : Nat) : List Chan :=
  f.chans.filter fun c => c.line == l && c.crossTile && !c.gate && (guardPort f c).isNone && endTile f l c.reader == some tile

/-- The hand-off routes into a tile from another (R215): the tiles of the stations before its own, and their latencies. -/
def handoffFrom (f : Fabric) (l tile : Nat) : List (Nat × Nat) :=
  (f.stations.filter fun s => s.line == l && s.tile == tile).flatMap fun s => (stationsBefore f s).filterMap fun p =>
    if p.tile = tile || (firstGuard f l p.ports).isSome then none else some (p.tile, p.route)

/-- The round of a line a tile enters next, with whether it is one of pre-emption, once the source has committed it. -/
def nextRound (f : Fabric) (l tile : Nat) : Option (Nat × Bool) :=
  match findLine f l, findTile f l tile with
  | some x, some t => x.rounds.find? fun r => r.1 == t.round
  | _, _ => none

def roundEntryDue (l tile : Nat) (_ : Memory) (f : Fabric) : Bool :=
  match nextRound f l tile with
  | some (r, _) =>
    ((roundInputs f l tile).all fun c => c.q.any fun s => s.seen ≤ f.cycle && isMarker r s.tok)
      && (handoffFrom f l tile).all fun t => match findTile f l t.1 with
        | some y => decide (r + 1 < y.round) || (y.round == r + 1 && decide (y.roundAt + t.2 ≤ f.cycle))
        | none => true
  | none => false

/-- The hand-off routes out of a tile that end at a guarded port (R226, R255). -/
def guardedHandoffs (f : Fabric) (l tile : Nat) : List Nat :=
  (f.stations.filter fun s => s.line == l && s.tile == tile).filterMap fun s => firstGuard f l s.ports

/-- ROUND_ENTRY (R215, R216, R254): markers go out behind the committed tokens, those at the inputs are removed, a gate whose marker
is still to come begins to record, and a pre-emption round stops the tile. The marker on a hand-off route that ends at a guarded port is
dropped there (R214, R226). -/
def roundEntry (l tile : Nat) (_ : Memory) (f : Fabric) : Fabric :=
  match nextRound f l tile with
  | some (r, pre) =>
    let step (c : Chan) : Chan :=
      if c.line ≠ l ∨ c.crossTile = false then c
      else
        let came (s : Slot) : Bool := s.seen ≤ f.cycle && isMarker r s.tok
        let c := if endTile f l c.reader == some tile && (guardPort f c).isNone then
            { c with q := c.q.filter fun s => !came s, gateRec := if c.gate && !c.q.any came then none else c.gateRec }
          else c
        if endTile f l c.writer == some tile then commitTok (marker r) f c else c
    let g := updTile l tile (fun t => { t with round := t.round + 1, roundAt := f.cycle, inRound := pre }) { f with chans := f.chans.map step }
    (guardedHandoffs f l tile).foldl (fun g p => guardDropped l p tile 0 (marker r) g) g
  | none => f

def execRoundEntry (l tile : Nat) (s : State) : Host.Outcome State Fault Refusal := runEvent (roundEntryDue l tile) (roundEntry l tile) s

/-- A gate's marker that reaches its reader's tile by a route no guard ends (R255) after the tile's entry is removed (R42, R216): the gate's contents in the cut are
the tokens that came between the entry and it. Of a line being saved they go to the tile's save block. -/
def dropLateMarkers (f : Fabric) : Fabric :=
  let entered (c : Chan) : Option Tile := ((endTile f c.line c.reader).bind fun t => findTile f c.line t)
  let late (c : Chan) (s : Slot) : Bool :=
    s.tok.tag == 6 && s.seen ≤ f.cycle && c.gate && (guardPort f c).isNone && (match entered c with
      | some t => decide (s.tok.payload.l0.toNat < t.round)
      | none => false)
  let take (c : Chan) : Chan :=
    if c.crossTile && c.q.any (late c) then
      let t0 := ((entered c).map fun t => t.roundAt).getD 0
      { c with
        q := c.q.filter fun s => !late c s
        gateRec := some (((c.q.takeWhile fun s => !late c s).filter fun s => decide (t0 < s.seen)).map fun s => s.tok) }
    else c
  let came := f.chans.filter fun c => c.crossTile && c.q.any (late c)
  let f := { f with chans := f.chans.map take }
  came.foldl (fun f c => match findLine f c.line, entered c with
    | some x, some t => if t.saved && !x.saveFrames.isEmpty then saveGate x t.num f else f
    | _, _ => f) f

/-! ## The save -/

/-- The line is saved: it holds no bolt, what is queued is translated afresh after the restore (R219), and its weight buffers are zeroed
with the bolts (R220): no block of R218 keeps them. -/
def lineSaved (l : Nat) (f : Fabric) : Fabric :=
  match findLine f l with
  | some x =>
    let f := saveLineBlock x f
    let f := untranslate (fun a => a.line == l) f
    let f := { f with
      tiles := f.tiles.map fun t => if t.line = l then { t with wbuf := [], wbufPoison := [] } else t
      gens := f.gens.map fun g => if g.line = l then { g with kept := [] } else g
      module_ := { f.module_ with scrubbing := x.bolts.map (fun b => (b, f.cycle)) ++ f.module_.scrubbing } }
    updLine l (fun y => { y with state := 3, saved := true, preempt := false, sliceFrom := f.cycle, quiet := 0 }) f
  | none => f

/-- Work of a tile can go on at once: an access taken from its queues, or a task on its array. A line with a halted unit, or stopped, is
saved where none can (R217). -/
def tileActive (f : Fabric) (l tile : Nat) : Bool :=
  (f.accs.any fun a => a.line == l && tileOf a.th == tile && !a.halted && (a.miss || storeAcceptDue a.id [] f || loadReturnDue a.id [] f
      || atomicReturnDue a.id [] f || mxqRecordReadDue a.id [] f))
    || f.mx.any fun b => b.line == l && b.flight.any fun t => taskTile t == tile && mxTaskCompleteDue l t.id [] f

/-- The elements of a channel's reader still pop tokens. -/
def readerPops (f : Fabric) (c : Chan) : Bool :=
  match c.reader with
  | .elem l th _ => lineRuns f l && tileServes f l (th / 16)
  | .inbox l n => lineRuns f l && (match findStation f l n with | some s => tileServes f l s.tile | none => false)
  | r => (match endTile f c.line r with | some t => tileServes f c.line t | none => true)

/-- An access has been taken from its queue: it is outstanding (R217). -/
def outstanding (a : Acc) : Bool := a.kind == .fence || a.miss || !a.phys.isEmpty

/-- An access cannot be finished before its tile's save, given work that cannot be: it is halted, or not yet taken from its queue by a
tile that takes no more, or waits for such work (R217). -/
def accStuck (f : Fabric) (stuck : List Nat) (a : Acc) : Bool :=
  let reads (x : Acc) : Bool := x.kind == .ld || x.kind == .ldv || x.kind == .mxq
  a.halted || tileSaved f a.line (tileOf a.th) || (!outstanding a && !gensServe f a.line (tileOf a.th))
    || (pendingOf f a.need).any stuck.contains
    || (f.accs.any fun b => b.id < a.id && stuck.contains b.id && ((sameGen a b && (!answered b || mayStillFault f b))
        || (reads a && reads b && b.line == a.line && b.th == a.th)))
    || (a.result.isSome && (match ((getMx f a.line (a.th / 256)).queues.getD (readTask 0 a (heldBytes a)).queue []).head? with
        | some t => stuck.contains t.id
        | none => false))

/-- The same of a copy channel's entry, which stops at the end of its beat. -/
def copyStuck (f : Fabric) (stuck : List Nat) (c : CopyCh) : Bool :=
  c.halted || !tileServes f c.line c.tile || (pendingOf f c.know).any stuck.contains

/-- The same of a task in flight: it may be stalled on a chain channel that no reader drains any more. -/
def taskStuck (f : Fabric) (stuck : List Nat) (t : Task) : Bool :=
  t.halted || tileSaved f t.line (taskTile t) || (pendingOf f t.know).any stuck.contains
    || (!t.out.isEmpty && !chainRoom f t && (match t.chain.bind fun n => findChan f t.line n with | some c => !readerPops f c | none => true))

/-- The work that cannot be finished, once more of it is known. A task in a bolt's queue issues while its tile takes commands. -/
def stuckRound (f : Fabric) (stuck : List Nat) : List Nat :=
  (f.accs.filter (accStuck f stuck)).map (fun a => a.id) ++ (f.copies.filter fun c => c.busy && copyStuck f stuck c).map (fun c => c.id)
    ++ f.mx.flatMap fun b => (b.flight.filter (taskStuck f stuck) ++ b.queues.flatten.filter fun t => !tileServes f t.line (tileOf t.th)).map
        fun t => t.id

/-- The work that cannot be finished before a save. -/
def stuckWork (f : Fabric) : Nat → List Nat
  | 0 => []
  | n + 1 => stuckRound f (stuckWork f n)

/-- What a tile finishes before its save (R217): the tasks on its array, to completion, and every access taken from its queues. One that
cannot be finished, behind a halted one or one still in a queue, is saved as it stands: DEDUCED, for else no save would come (log 35). -/
def tileBusy (f : Fabric) (l tile : Nat) : Bool :=
  let stuck := stuckWork f ((pendingIds f).length + 1)
  (f.accs.any fun a => a.line == l && tileOf a.th == tile && outstanding a && !stuck.contains a.id)
    || f.mx.any fun b => b.line == l && b.flight.any fun t => taskTile t == tile && !stuck.contains t.id

def tileSaveDue (l tile : Nat) (_ : Memory) (f : Fabric) : Bool :=
  match findLine f l, findTile f l tile with
  | some x, some t => t.inRound && !t.saved && x.endStatus.isNone && !tileBusy f l tile && (saveArea x f).isSome
  | _, _ => false

/-- Save one tile (R217, R218): what waits in its input link registers is captured, its counters take the events of this its last
cycle (R240), and its block and slice image are written. -/
def saveOne (m : Memory) (x : Line) (tile : Nat) (f : Fabric) : Fabric :=
  let f := updTile x.id tile (fun t => { addCounts (bankPoison f t) with captured := t.links, links := [] }) f
  match findTile f x.id tile with
  | some t => updTile x.id tile (fun t => { t with saved := true }) (saveSlice m x tile (saveTile x t f))
  | none => f

/-- TILE_SAVE (R217, R218, R254): the last tile's save leaves the line saved. -/
def tileSave (l tile : Nat) (m : Memory) (f : Fabric) : Fabric :=
  match (findLine f l).bind fun x => saveArea x f with
  | some f =>
    match findLine f l with
    | some x =>
      let f := saveOne m x tile f
      if f.tiles.all fun t => t.line != l || t.saved then lineSaved l f else f
    | none => f
  | none => f

def execTileSave (l tile : Nat) (s : State) : Host.Outcome State Fault Refusal := runEvent (tileSaveDue l tile) (tileSave l tile) s

/-- A line that cannot come to an edge: halted, stopped, or not yet begun (R217). -/
def noEdgeComes (f : Fabric) (x : Line) : Bool := hasHalted f x.id || x.stop.isSome || !x.begun || (getPart f x.vf).ebudget

def quiescentPreemptDue (l : Nat) (_ : Memory) (f : Fabric) : Bool :=
  match findLine f l with
  | some x =>
    x.preempt && !x.saved && !x.noEdge && x.endStatus.isNone && noEdgeComes f x && 64 ≤ x.quiet && (saveArea x f).isSome
      && f.tiles.all fun t => t.line != l || !tileActive f l t.num
  | none => false

/-- QUIESCENT_PREEMPT (R217): every tile is saved at once, without markers, and the round stays. -/
def quiescentPreempt (l : Nat) (m : Memory) (f : Fabric) : Fabric :=
  match (findLine f l).bind fun x => saveArea x f with
  | some f =>
    match findLine f l with
    | some x =>
      let ts := (f.tiles.filter fun t => t.line == l).map fun t => t.num
      lineSaved l (ts.foldl (fun f t => saveOne m x t f) f)
    | none => f
  | none => f

def execQuiescentPreempt (l : Nat) (s : State) : Host.Outcome State Fault Refusal :=
  runEvent (quiescentPreemptDue l) (quiescentPreempt l) s

/-! ## Restore -/

def lineRestoreDue (l : Nat) (_ : Memory) (f : Fabric) : Bool :=
  match findLine f l with
  | some x =>
    x.saved && x.endStatus.isNone && isNext f x.vf l false && (mapBolts x.links (freeBolts f x.vf) x.bolts.length []).isSome
  | none => false

/-- LINE_STATE after a restore (R185): still stopped, still awaiting its prerequisites, draining or running. -/
def restoredState (f : Fabric) (x : Line) : Nat :=
  if x.stop.isSome then 5
  else if !x.begun && f.ctls.all (fun c => c.line != x.id || !c.started) then 1
  else runState f x

/-- LINE_RESTORE (R219, R252, R254): the save area is read back, captured tokens are back ahead of any new one, kept translations are gone, and a new beat
opens at cycle 0, the next cycle of the machine, in the same round, outside any stretch. -/
def lineRestore (l : Nat) (m : Memory) (f : Fabric) : Fabric :=
  match findLine f l with
  | some x =>
    match mapBolts x.links (freeBolts f x.vf) x.bolts.length [] with
    | some bolts =>
      let f := updLine l (fun y => { y with bolts := bolts }) f
      let (s, f) := restoreSlices m x f
      let f := zeroDiscarded l (freeFrames x.vf x.saveFrames (reinstate s l f))
      let f := { f with
        tiles := f.tiles.map fun t =>
          if t.line = l then { t with saved := false, inRound := false, xlat := [], links := t.captured ++ t.links, captured := [] } else t }
      updLine l (fun y => { y with
        state := restoredState f x, saved := false, noEdge := false, preempt := false, sliceFrom := f.cycle, cyc := 0, overflowing := [],
        stretch := 0, stallFrom := 0, bel := { y.bel with stretched := false }, runFrom := f.cycle + 1, saveFrames := [], quiet := 0 }) f
    | none => f
  | none => f

def execLineRestore (l : Nat) (s : State) : Host.Outcome State Fault Refusal := runEvent (lineRestoreDue l) (lineRestore l) s

end Sys2Proof.Machine
end

