-- ==== Sys2Proof/Machine/HostEvents.lean ====
section
/-!
DEFINITION. What the host, the board and the boot root do: FLT_RESUME (R206, R207, R211, R213), FQ_HEAD (R210), ERR_BUDGET
(R130), PART_GRANT (R222), XL_SHOOT (R205, R228), power and attestation (R229, R230, R233), and the writes of registers that
have no row of their own (R11, R223).
-/
namespace Sys2Proof.Machine

/-! ## FLT_RESUME -/

/-- The line has been neither ended nor completed. -/
def lineOpen (f : Fabric) (l : Nat) : Bool := ((findLine f l).map fun x => x.endStatus.isNone && x.state != 6) == some true

/-- The unit a record names is still halted (R207): a unit of an ended line is not. -/
def unitHalted (f : Fabric) (r : Rec) : Bool :=
  let l := r.line
  match r.what with
  | .none | .image | .guard _ _ _ => false
  | .firing _ _ | .bellows | .planes none => lineOpen f l
  | .planes (some g) => lineOpen f l && ((findGroup f (vfOf l) g).map fun x => x.collided) == some true
  | .sink seq => lineOpen f l && ((findLine f l).map fun x => x.bad.any fun t => t.seq == seq) == some true
  | .access id => ((findAcc f id).map fun a => a.halted) == some true
  | .pattern t g => ((findGen f l t g).map fun x => x.halted) == some true
  | .copy t ch | .row t ch => ((findCopy f l t ch).map fun x => x.halted) == some true
  | .arm t q => ((findHq f l t q).map fun x => x.halted) == some true || ((findCopy f l t (q / 4)).map fun x => x.halted) == some true
  | .task id => ((findTask f l id).map fun x => x.halted) == some true
  | .budget => (getPart f r.vf).ebudget

/-- The record a write of FLT_RESUME acts on (R207, R211): a waiting halting record of the partition, written in the ring, whose unit is
still halted. -/
def findRec (f : Fabric) (vf ix : Nat) : Option Rec :=
  f.recs.find? fun r => r.vf == vf && r.halted && unitHalted f r
    && (match r.index with | some i => i % 65536 == ix % 65536 | none => false)

/-- A record stops its line (R377). -/
def Rec.stops (r : Rec) : Bool := match r.what with | .firing _ _ | .sink _ | .bellows | .planes _ => true | _ => false

/-- A record waits no more. -/
def dropRec (r : Rec) (f : Fabric) : Fabric := { f with recs := f.recs.filter fun x => !(x == r) }

/-- A line runs on once no record that stops it waits (R64, R207, R377); its beat counts from the next cycle. -/
def unstop (l : Nat) (f : Fabric) : Fabric :=
  if (f.recs ++ f.newRecs).any fun r => r.line == l && r.hasLine && r.halted && r.stops then f
  else updLine l (fun x => { x with
    stop := none, runFrom := f.cycle + 1, state := if x.state = 5 then runState f x else x.state }) f

/-- The partition continues after EBUDGET (R131, R377): with REMAIN still zero it is raised again at once. R131 does not say what the new
record names: DESIGN CHOICE what the old one did, also a line that action 1 has just ended (log 79). -/
def continueBudget (vf : Nat) (r : Rec) (f : Fabric) : Fabric :=
  if (getPart f vf).remain = 0 then { f with newRecs := f.newRecs ++ [{ r with index := none }] }
  else
    let f := updPart vf (fun p => { p with ebudget := false }) f
    let go (x : Line) : Line :=
      if x.vf = vf && x.state = 5 && x.stop.isNone then { x with state := runState f x, runFrom := f.cycle + 1 } else x
    { f with lines := f.lines.map go }

/-- The swap an edge owed, made at the resume of its PLANE_COLLIDE: the line's elements come after it as after any edge (R38, R122,
R152). The spec does not say to which beat a store belongs that an engine performs while the collision holds the region: DESIGN CHOICE
it joins the held beat's swap (log 88). -/
def lateSwap (l : Nat) (m : Memory) (f : Fabric) : Fabric :=
  let (id, f) := fresh f
  let know := (f.elems.filter fun e => e.line == l).foldl (fun k e => union e.know k) []
  let rs := f.regions.filter fun x => x.line == l && x.swapping
  let f := lateFor id (fun a => a.line == l) (rs.foldl (fun f x => swapStep m x.num l 0 id know f) f)
  { f with elems := f.elems.map fun e => if e.line == l then { e with know := addNew id e.know } else e }

/-- Action 0 on a unit (R122, R206, R213, R335). -/
def resumeUnit (r : Rec) (m : Memory) (f : Fabric) : Fabric :=
  let l := r.line
  match r.what with
  | .none | .image => f
  | .firing th slot => unstop l (updElem l th (fun e => { e with redo := some slot }) f)
  | .access id => updAcc id (fun a => { a with halted := false }) f
  | .pattern t g => updGen l t g (fun x => { x with halted := false }) f
  | .copy t ch | .row t ch => updCopy l t ch (fun x => { x with halted := false }) f
  | .arm t q => updHq l t q (fun x => { x with halted := false }) (updCopy l t (q / 4) (fun x => { x with halted := false }) f)
  | .task id => updTask l id (fun x => { x with halted := false }) f
  | .sink seq =>
    unstop l (updLine l (fun x => { x with
      bad := x.bad.filter fun t => t.seq != seq
      reinject := x.reinject ++ [seq]
      kept := x.kept.map fun k => if k.1.seq = seq then (k.1, 1) else k }) f)
  | .bellows => unstop l (updLine l (fun x => { x with stallFrom := x.stretch }) f)
  | .planes (some g) => unstop l (updGroup (vfOf l) g (fun x => { x with swapBy := some (f.cycle + 1) }) f)
  | .planes none => unstop l (if f.regions.any (fun x => x.line == l && x.swapping) then lateSwap l m f else f)
  | .budget => continueBudget r.vf r f
  | .guard _ _ _ => f

/-- A pattern's visit whose token is dropped (R206): a read gives zero, poisoned, once its port's link register has room (R253); a write
stores nothing. -/
def skipVisit (l t g : Nat) (f : Fabric) : Fabric :=
  match findGen f l t g with
  | some x =>
    match x.pat with
    | some p =>
      if p.write then
        let (_, left, f) := takeLanes l t g x p f
        finishVisit l t g p [] (updGen l t g (fun y => { y with lanes := left, halted := false }) f)
      else if portHeld f l t x.port < 2 then dropVisit l t g p f
      else updGen l t g (fun y => { y with halted := false, skip := true }) f
    | none => f
  | none => f

/-- A task's access that is dropped (R175, R206): a column of B, a row of A or a row of C reads zero, poisoned; a word of C is not
written. -/
def skipTask (l id : Nat) (f : Fabric) : Fabric :=
  match findTask f l id with
  | some t =>
    updTask l id (fun y =>
      let y := { y with halted := false }
      if t.cols.length < t.n then
        { y with cols := y.cols ++ [⟨List.replicate (rowBytes t.pair t.k) 0, List.replicate (t.k / 64) 0, true⟩] }
      else if t.rowA.isNone then { y with rowA := some (List.replicate (rowBytes t.pair t.k) 0, true) }
      else if t.init && t.c != 0 && t.rowC.isNone then { y with rowC := some (List.replicate (4 * t.n) 0, true) }
      else { y with put := y.put + 1 }) f
  | none => f

/-- A copy channel's beat that is dropped, or the rest of a row another device refused: nothing is written, and each beat counts as
delivered, poisoned (R164, R165, R206). -/
def skipBeat (l t ch : Nat) (row : Bool) (tp : Template) (f : Fabric) : Fabric :=
  match findCopy f l t ch with
  | some c =>
    (List.range (if row then (tp.rowb - c.off + 31) / 32 else 1)).foldl
      (fun f _ => let (wid, f) := fresh f; nextBeat l t ch tp true wid f) (updCopy l t ch (fun x => { x with halted := false }) f)
  | none => f

/-- The template of the entry a copy channel is at. -/
def entryTemplate (f : Fabric) (l t ch : Nat) : Option Template :=
  (findCopy f l t ch).bind fun c => (findHq f l t c.queue).bind fun h => h.tmpl

/-- Action 2 on a unit (R206, R213). A skipped firing is no longer to be executed again (R64). -/
def skipUnit (r : Rec) (m : Memory) (f : Fabric) : Fabric :=
  let l := r.line
  match r.what with
  | .firing th slot => unstop l (updElem l th (fun e => { e with rotPtr := slot % 32, redo := none }) f)
  | .access id => (match findAcc f id with | some a => dropAcc a f | none => f)
  | .pattern t g => skipVisit l t g f
  | .copy t ch => (match entryTemplate f l t ch with | some tp => skipBeat l t ch false tp f | none => f)
  | .row t ch => (match entryTemplate f l t ch with | some tp => skipBeat l t ch true tp f | none => f)
  | .arm t q =>
    let f := updHq l t q (fun x => { x with halted := false }) (updCopy l t (q / 4) (fun x => { x with halted := false }) f)
    (match findHq f l t q with
    | some h =>
      if h.arming.isSome then completeCmd h.armCmd (updHq l t q (fun x => { x with arming := none }) f)
      else match h.disarm with
        | some id => completeCmd id (updHq l t q (fun x => { x with tmpl := none, disarm := none }) f)
        | none => f
    | none => f)
  | .task id => skipTask l id f
  | .sink seq =>
    (match (findLine f l).bind fun x => x.bad.find? fun t => t.seq == seq with
    | some t =>
      let f := countMuslin (vfOf l) 1 (takeResult l t (updLine l (fun x => { x with bad := x.bad.filter fun u => u.seq != seq }) f))
      sinkEos l (drainHeld l (((findLine f l).map fun x => x.held.length).getD 0) (unstop l f))
    | none => f)
  | _ => resumeUnit r m f

/-- The host's resize requests that its function made before a resume are complete: any resume waits for them (R184). -/
def resizesDone (f : Fabric) (vf : Nat) : Bool := f.resizes.all fun x => x.cmd != 0 || vfOf x.line != vf

def fltResumeDue (vf _ix : Nat) (_ : Memory) (f : Fabric) : Bool := resizesDone f vf

/-- FLT_RESUME action 0 (R206, R210, R211): with no ring, it continues a partition stopped by EBUDGET. -/
def fltResume (vf ix : Nat) (m : Memory) (f : Fabric) : Fabric :=
  let p := getPart f vf
  if p.fqLog = 0 && p.ebudget then continueBudget vf { Rec.blank vf 7 with resumable := true, halted := true, kind := 8, what := .budget } f
  else match findRec f vf ix with
    | some r => resumeUnit r m (dropRec r f)
    | none => f

/-- Action 1 (R206): the line ends with status 3; on EBUDGET the other units continue. -/
def fltEnd (vf ix : Nat) (m : Memory) (f : Fabric) : Fabric :=
  match findRec f vf ix with
  | some r =>
    let f := dropRec r f
    (match r.what with
    | .budget => continueBudget vf r (if r.hasLine then endLine r.line 3 f else f)
    | .none | .image => f
    | _ => endLine r.line 3 f)
  | none => (fun _ => f) m

/-- Action 2 (R206). -/
def fltSkip (vf ix : Nat) (m : Memory) (f : Fabric) : Fabric :=
  match findRec f vf ix with
  | some r => skipUnit r m (dropRec r f)
  | none => f

/-- What a write of FLT_RESUME does with the record it names (R211). -/
def fltDo (vf ix action : Nat) (m : Memory) (f : Fabric) : Fabric :=
  match action with
  | 0 => fltResume vf ix m f
  | 1 => fltEnd vf ix m f
  | 2 => fltSkip vf ix m f
  | _ => f

/-- A write of FLT_RESUME with an action (R211): a unit of a saved line is changed in its save area too (log 35). -/
def fltAction (vf ix action : Nat) (m : Memory) (f : Fabric) : Fabric :=
  if 3 ≤ action then f else
    let g := fltDo vf ix action m f
    match findRec f vf ix with
    | some r => resave r.line g
    | none => g

def execFltResumeResume (vf ix : Nat) (s : State) : Host.Outcome State Fault Refusal := runEvent (fltResumeDue vf ix) (fltAction vf ix 0) s
def execFltResumeEnd (vf ix : Nat) (s : State) : Host.Outcome State Fault Refusal := runEvent (fltResumeDue vf ix) (fltAction vf ix 1) s
def execFltResumeSkip (vf ix : Nat) (s : State) : Host.Outcome State Fault Refusal := runEvent (fltResumeDue vf ix) (fltAction vf ix 2) s
def execFltResumeNone (vf ix : Nat) (s : State) : Host.Outcome State Fault Refusal := runEvent (fltResumeDue vf ix) (fltAction vf ix 3) s

def resumePortTokenDue (l ch : Nat) (_ : Memory) (f : Fabric) : Bool :=
  match findChan f l ch with
  | some c =>
    c.reader == .resume && (match (visible f c).head? with
      | some t => (pendingOf f t.rel).isEmpty && resizesDone f (vfOf l)
      | none => false)
  | none => false

/-- RESUME_PORT_TOKEN (R145, R211): an end-of-stream token asks for nothing. -/
def resumePortToken (l ch : Nat) (m : Memory) (f : Fabric) : Fabric :=
  match findChan f l ch with
  | some c =>
    match (visible f c).head? with
    | some t =>
      let f := markMoved l (updChan l ch (popChan 1 f) f)
      if isEos t.tag then f else fltAction (vfOf l) (t.payload.l0.toNat % 65536) (t.payload.l1.toNat % 4) m f
    | none => f
  | none => f

def execResumePortToken (l ch : Nat) (s : State) : Host.Outcome State Fault Refusal := runEvent (resumePortTokenDue l ch) (resumePortToken l ch) s

/-! ## Registers with rows of their own -/

/-- A host write can come at any time. -/
def hostDue (_ : Memory) (_ : Fabric) : Bool := true

def execFqHead (vf v : Nat) (s : State) : Host.Outcome State Fault Refusal :=
  runEvent hostDue (fun _ f => updPart vf (fun p => { p with fqHead := v % 2 ^ 32 }) f) s

/-- ERR_BUDGET (R130, R223): ignored through the virtual function's own view. -/
def errBudget (vf : Nat) (pf : Bool) (v : Nat) (_ : Memory) (f : Fabric) : Fabric :=
  let w := v % 2 ^ 32
  if pf then updPart vf (fun p => { p with remain := w - p.owed, owed := p.owed - w }) f else f

def execErrBudget (vf : Nat) (pf : Bool) (v : Nat) (s : State) : Host.Outcome State Fault Refusal := runEvent hostDue (errBudget vf pf v) s

/-- Bits of a mask that no other function's grant holds (R222). -/
def grantable (f : Fabric) (vf v : Nat) : Nat :=
  ((List.range 48).filter fun b => v / 2 ^ b % 2 == 1 && f.parts.all fun p => p.vf == vf || p.grant / 2 ^ b % 2 == 0).foldl (fun n b => n + 2 ^ b) 0

/-- PART_GRANT (R222, R223): ignored while the function has a line or a launch. -/
def partGrant (vf : Nat) (pf : Bool) (v : Nat) (_ : Memory) (f : Fabric) : Fabric :=
  if !pf || f.lines.any (fun x => x.vf == vf) || f.launches.any (fun x => x.vf == vf) || vf = 0 || 48 < vf then f
  else updPart vf (fun p => { p with grant := grantable f vf v }) f

def execPartGrant (vf : Nat) (pf : Bool) (v : Nat) (s : State) : Host.Outcome State Fault Refusal := runEvent hostDue (partGrant vf pf v) s

/-- A cached leaf overlaps the range. -/
def leafInShoot (vpage npage key : Nat) : Bool :=
  npage == 0xFFFF || (key / 2 ≤ vpage + npage && vpage < key / 2 + (if key % 2 = 1 then 8192 else 1))

/-- An access translated with a leaf that overlaps the range. An access halted by a fault is not performed, and is translated afresh when
it is resumed (R205). -/
def shootUses (f : Fabric) (vf ps vpage npage : Nat) (a : Acc) : Bool :=
  (match findLine f a.line with | some x => x.vf == vf && x.pasid == ps | none => false) && !a.halted && a.keys.any (leafInShoot vpage npage)

/-- A mapping with SP = 1 that lies in a range and that its entry in memory no longer makes: it is gone, and what is mapped there next
is new (R221; log 53). -/
def SpEntry.gone (m : Memory) (f : Fabric) (vf ps vpage npage : Nat) (s : SpEntry) : Bool :=
  let p := spNow m f s
  s.vf == vf && s.ps == ps && leafInShoot vpage npage s.key && !(p.v && p.sp && p.pfn == s.first)

/-- Drop every translation of an interface that overlaps a range (R200, R205): from the caches, and those generators keep. What is
left is to await the accesses translated with one. -/
def dropTranslations (vf ps v : Nat) (m : Memory) (f : Fabric) : List Nat × Fabric :=
  let vpage := v / 65536 % 2 ^ 39
  let npage := v % 65536
  let mine (l : Nat) : Bool := match findLine f l with | some x => x.vf == vf && x.pasid == ps | none => false
  let ids := (f.accs.filter (shootUses f vf ps vpage npage)).map fun a => a.id
  (ids, { f with
    spEntry := f.spEntry.filter fun s => !s.gone m f vf ps vpage npage
    tiles := f.tiles.map fun t => { t with xlat := t.xlat.filter fun e => !(vfOf t.line == vf && e.1 == ps && leafInShoot vpage npage e.2.1) }
    gens := f.gens.map fun g => if mine g.line then { g with kept := g.kept.filter fun k => !leafInShoot vpage npage k.2.1 } else g })

/-- Start a shoot-down (R205). -/
def startShoot (vf ps v : Nat) (m : Memory) (f : Fabric) : Fabric :=
  let (ids, f) := dropTranslations vf ps v m f
  updIface vf ps (fun i => { i with busy := true, vpage := v / 65536 % 2 ^ 39, npage := v % 65536, shootAccs := ids }) f

/-- XL_SHOOT (R205): a write while BUSY is held. -/
def xlShoot (vf ps v : Nat) (m : Memory) (f : Fabric) : Fabric :=
  if (getIface f vf ps).busy then updIface vf ps (fun i => { i with heldShoot := i.heldShoot ++ [v] }) f else startShoot vf ps v m f

def execXlShoot (vf ps v : Nat) (s : State) : Host.Outcome State Fault Refusal := runEvent hostDue (xlShoot vf ps v) s

/-- ATS_INVALIDATION (R228): performed as a shoot-down is; XL_SHOOT holds what software wrote there. -/
def atsInvalidation (vf ps v : Nat) (m : Memory) (f : Fabric) : Fabric :=
  let (ids, f) := dropTranslations vf ps v m f
  updIface vf ps (fun i => { i with ats := i.ats ++ [(v, ids)] }) f

def execAtsInvalidation (vf ps v : Nat) (s : State) : Host.Outcome State Fault Refusal := runEvent hostDue (atsInvalidation vf ps v) s

/-- Of the accesses a shoot-down awaits, those halted by a fault hold it no longer (R205). -/
def shootOver (f : Fabric) (ids : List Nat) : Bool := ids.all fun id => match findAcc f id with | some a => a.halted | none => true

def shootdownDoneDue (vf ps : Nat) (_ : Memory) (f : Fabric) : Bool :=
  let i := getIface f vf ps
  (i.busy && shootOver f i.shootAccs) || i.ats.any fun a => shootOver f a.2

/-- ATS invalidations whose accesses are performed are answered (R228). -/
def answerAts (vf ps : Nat) (f : Fabric) : Fabric :=
  let i := getIface f vf ps
  let done := (i.ats.filter fun a => shootOver f a.2).map fun a => (vf, ps, a.1)
  { updIface vf ps (fun i => { i with ats := i.ats.filter fun a => !shootOver f a.2 }) f with answers := f.answers ++ done }

/-- SHOOTDOWN_DONE (R205, R228): BUSY clears, a held write is performed next, and invalidations are answered. -/
def shootdownDone (vf ps : Nat) (m : Memory) (f : Fabric) : Fabric :=
  let i := getIface f vf ps
  let f := answerAts vf ps f
  if i.busy && shootOver f i.shootAccs then
    match i.heldShoot with
    | v :: r => startShoot vf ps v m (updIface vf ps (fun i => { i with heldShoot := r }) f)
    | [] => updIface vf ps (fun i => { i with busy := false, shootAccs := [] }) f
  else f

def execShootdownDone (vf ps : Nat) (s : State) : Host.Outcome State Fault Refusal := runEvent (shootdownDoneDue vf ps) (shootdownDone vf ps) s

/-! ## The board and the boot root -/

def execPowerThrottle (on : Bool) (s : State) : Host.Outcome State Fault Refusal :=
  runEvent hostDue (fun _ f => { f with module_ := { f.module_ with throttle := on } }) s

/-- The step an earlier start failed at, as the start record tells (R230). -/
def failedStep (old : List (Nat × Nat × Nat × Nat)) : Nat := ((old.find? fun e => e.2.1 == 1).map fun e => e.1).getD 0

/-- Tile numbers as the detail of step 5 keeps them, nine at most: DESIGN CHOICE (R230 gives the detail 12 bytes and no layout; log 58). -/
def packTiles (ts : List Nat) : Nat := (ts.take 9).foldr (fun t n => (t % 1024 + 1024 * n)) 0 * 16 + (ts.take 9).length

/-- The tiles such a detail names. -/
def unpackTiles (d : Nat) : List Nat := (List.range (d % 16)).map fun i => d / 16 / 1024 ^ i % 1024

/-- The tiles an earlier start found defective where it failed, at step 5: this one marks them so (R230). -/
def markedTiles (old : List (Nat × Nat × Nat × Nat)) : List Nat :=
  match old.find? fun e => e.2.1 == 1 with
  | some e => if e.1 = 5 then unpackTiles e.2.2.2 else []
  | none => []

/-- A step with an alternative (R230): an entry, and whether the start goes on. -/
def bootStep (n : Nat) (old : Nat) (first alt : Bool) (detail : Nat) : (Nat × Nat × Nat × Nat) × Bool :=
  if first && old != n then ((n, 0, 1, detail), true)
  else
    let tries := if old = n then 1 else 2
    if alt then ((n, 3, tries, detail), true) else ((n, 1, tries, detail), false)

/-- Spare tiles (R1, R230): the 20 after the 780 others. -/
def spareTiles (bad : List Nat) : List Nat := ((List.range 20).map fun i => 780 + i).filter fun t => !bad.contains t

/-- A spare map that covers every defective tile, if there is one. -/
def spareMap (bad : List Nat) : Option (List (Nat × Nat)) :=
  let need := bad.eraseDups.filter fun t => t < 780
  if need.length ≤ (spareTiles bad).length then some (need.zip (spareTiles bad)) else none

/-- The self-test confirms a spare map: a good spare of its own stands in for every defective tile (R230, step 4). -/
def mapConfirmed (map : List (Nat × Nat)) (bad : List Nat) : Bool :=
  decide (map.map Prod.snd).Nodup && (map.all fun s => s.1 < 780 && (spareTiles bad).contains s.2)
    && (bad.all fun t => 780 ≤ t || map.any fun s => s.1 == t)

/-- The image or record a step takes: the alternate where the first fails, or where an earlier start failed at that step (R230). -/
def bootFile (n old : Nat) (first alt : BootFile) : BootFile := if first.ok && old != n then first else alt

/-- The spare map a start leaves (R1, R230): the record's where the self-test confirms it, else one derived from the self-test. A tile
whose channel does not train is defective, and so is one that an earlier start marked, or that the signed record's map names. -/
def startSpares (o : BootInput) (old : Nat) (marked : List Nat) : Option (List (Nat × Nat)) :=
  let map := (bootFile 3 old o.record o.altRecord).spares
  let bad := o.badTiles ++ o.badDram ++ marked
  if mapConfirmed map bad && old != 4 then some map else spareMap (bad ++ map.map Prod.fst)

/-- Step 4's entry (R230): where step 5 returns to it, the map is confirmed or derived once more. -/
def spareStep (o : BootInput) (old : Nat) (marked : List Nat) : (Nat × Nat × Nat × Nat) × Bool :=
  let map := (bootFile 3 old o.record o.altRecord).spares
  let again := !(o.badDram ++ marked).isEmpty && (startSpares o old marked).isSome
  match bootStep 4 old (mapConfirmed map o.badTiles) (spareMap (o.badTiles ++ map.map Prod.fst)).isSome 0 with
  | ((n, out, tries, d), true) =>
    (if again then (n, if startSpares o old marked == some map && old != 4 then out else 3, tries + 1, d) else (n, out, tries, d), true)
  | x => x

/-- The host link's step (R230): the lanes that trained, the attempts; a start that failed here before starts at eight. -/
def hostLinkStep (lanes old : Nat) : (Nat × Nat × Nat × Nat) × Bool :=
  let n := if old = 6 then 0 else 1
  if 16 ≤ lanes ∧ old ≠ 6 then ((6, 0, 1, 16), true)
  else if 8 ≤ lanes then ((6, 3, n + 1, 8), true)
  else if 4 ≤ lanes then ((6, 3, n + 2, 4), true)
  else ((6, 1, n + 2, 0), false)

/-- The steps of a start (R230): the start record and whether the device starts. Step 2 may repeat from cold SRAM three times. -/
def bootSteps (o : BootInput) (old : Nat) (marked : List Nat) : List (Nat × Nat × Nat × Nat) × Bool :=
  let tries := if old = 2 then 3 else 4
  let steps := [
    bootStep 1 old o.image.ok o.altImage.ok 0,
    (if 1 ≤ o.keyTries ∧ o.keyTries ≤ tries then ((2, 0, o.keyTries, 0), true) else ((2, 1, tries, 0), false)),
    bootStep 3 old o.record.ok o.altRecord.ok 0,
    spareStep o old marked,
    bootStep 5 old o.badDram.isEmpty (startSpares o old marked).isSome (packTiles (o.badDram ++ marked)),
    hostLinkStep o.hostLanes old,
    (if o.weft.length = 64 ∧ o.weft.all (fun p => p.1 != 0) = true then ((7, 0, 1, 0), true) else ((7, 2, 1, 0), true)),
    ((8, 0, 1, 0), true)]
  let run := steps.takeWhile fun s => s.2
  ((run.map Prod.fst) ++ (if run.length < steps.length then [(steps.getD run.length ((0, 1, 0, 0), false)).1] else []), run.length == steps.length)

/-- What a start measures (R230): the image of step 1, the record of step 3 and the tables of step 8, as SHAKE256 digests of 64
bytes. -/
def startMeasures (o : BootInput) (old : Nat) : List Nat :=
  ((bootFile 1 old o.image o.altImage).bytes :: (bootFile 3 old o.record o.altRecord).bytes :: o.tables).map fun bs =>
    ofBytes (exactly 64 (Config.shake256 64 bs))

/-- POWER_ON (R229, R230): nothing volatile is kept; the start record stays in flash, and what the host does next is still to come. -/
def powerOn (o : BootInput) (m : Memory) (f : Fabric) : Fabric :=
  let old := failedStep f.module_.startRec
  let marked := markedTiles f.module_.startRec
  let (rec_, ok) := bootSteps o old marked
  let f' : Fabric := { Fabric.reset with
    freeCtr := f.freeCtr
    inputs := f.inputs
    module_ := { Module.reset with
      startRec := rec_
      booted := ok
      measures := startMeasures o old
      spares := (startSpares o old marked).getD []
      weft := o.weft.map fun p => (b2n (p.1 != 0), p.1, if p.1 = 0 then 0x3FFFFF else p.2) } }
  m.foldl (fun g c => writeByte c.1 Config.unwritten g) f'

def execPowerOn (o : BootInput) (s : State) : Host.Outcome State Fault Refusal := runEvent hostDue (powerOn o) s

/-- The bytes of an attestation report before its signature (R230). -/
def reportBody (f : Fabric) (nonce : Nat) : List Byte :=
  leBytes 32 nonce ++ leBytes 4 f.module_.weftDev ++ (f.module_.measures.flatMap fun d => leBytes 64 d)
    ++ exactly 32 (Config.shake256 32 Config.fingerprint) ++ f.module_.startRec.flatMap fun e => leBytes 1 e.1 ++ leBytes 1 e.2.1

/-- ATTESTATION_REQUEST (R230). -/
def attestation (nonce : Nat) (_ : Memory) (f : Fabric) : Fabric :=
  let b := reportBody f nonce
  { f with module_ := { f.module_ with reports := f.module_.reports ++ [b ++ Config.mlDsa b] } }

def execAttestationRequest (nonce : Nat) (s : State) : Host.Outcome State Fault Refusal :=
  runEvent (fun _ f => f.module_.booted) (attestation nonce) s

/-! ## Other registers -/

/-- LOG2N fields store at most 12 (R186, R209, R238). -/
def log12 (v : Nat) : Nat := Nat.min 12 (v % 16)

/-- A write of 1 clears (R11). -/
def w1c (old v : Nat) : Nat := (List.range 32).foldl (fun n i => if old / 2 ^ i % 2 == 1 && v / 2 ^ i % 2 == 0 then n + 2 ^ i else n) 0

/-- Add or remove a frame of a map. -/
def setFrame (fr v : Nat) (l : List Nat) : List Nat := if v % 2 = 1 then addNew fr l else l.filter (· != fr)

/-- A register that only the physical function's view writes (R223, R225, R229). -/
def supervisor : RegName → Bool
  | .ifSched _ _ | .quotaLimit _ _ | .quotaUsed _ _ | .ifPeer _ _ | .frameMap _ _ | .poolMap _ _ | .weftDev => true
  | _ => false

/-- REGISTER_WRITE (R11, R223 and the register's own table): reserved and read-only fields keep what they hold. -/
def registerWrite (pf : Bool) (r : RegName) (v : Nat) (_ : Memory) (f : Fabric) : Fabric :=
  if supervisor r && !pf then f
  else
    match r with
    | .errMuslin vf => updPart vf (fun p => { p with muslin := w1c p.muslin v }) f
    | .fqBase vf => updPart vf (fun p => { p with fqBase := v / 64 % 2 ^ 42 * 64 }) f
    | .fqCfg vf => updPart vf (fun p => { p with fqVec := v / 65536 % 65536, fqHen := v / 16 % 2 == 1, fqLog := log12 v }) f
    | .fqLost vf => updPart vf (fun p => { p with fqLost := w1c p.fqLost v }) f
    | .trcBase vf => updPart vf (fun p => { p with trcBase := v / 64 % 2 ^ 42 * 64 }) f
    | .trcCfg vf => updPart vf (fun p => { p with
        trcPeriod := v / 65536 % 65536, trcLog := log12 v, trcTail := p.trcTail % 2 ^ log12 v }) f
    | .trcStat vf => updPart vf (fun p => { p with trcLost := w1c p.trcLost (v / 65536 % 65536) }) f
    | .digBase vf => updPart vf (fun p => { p with digBase := v / 64 % 2 ^ 42 * 64, digCount := 0 }) f
    | .digCfg vf => updPart vf (fun p => { p with digLen := v % 65536, digOver := w1c p.digOver (v / 65536 % 65536) }) f
    | .lqBase vf ps => updIface vf ps (fun i => { i with lqBase := v / 64 % 2 ^ 49 * 64 }) f
    | .lqCfg vf ps => updIface vf ps (fun i => { i with lqLog := log12 v }) f
    | .ifSched vf ps => updIface vf ps (fun i => { i with
        slice := if v / 256 % 2 ^ 24 = 0 then i.slice else v / 256 % 2 ^ 24, weight := v / 16 % 16, prio := v % 4 }) f
    | .quotaLimit vf ps => updIface vf ps (fun i => { i with limit := v % 2 ^ 32 }) f
    | .quotaUsed vf ps => updIface vf ps (fun i => { i with used := v % 2 ^ 32 }) f
    | .xlRoot vf ps => updIface vf ps (fun i => { i with rootFrame := v / 65536 % 2 ^ 32, rootClass := v / 32 % 4, rootEn := v % 2 == 1 }) f
    | .ifPeer vf ps => updIface vf ps (fun i => { i with
        peerDev := v / 2 ^ 106 % 2 ^ 22, peerLen := v / 2 ^ 64 % 2 ^ 32, peerBase := v / 65536 % 2 ^ 39 }) f
    | .votCnt l n => resave l (updVoter l n (fun x => { x with dis0 := v % 1024, dis1 := v / 1024 % 1024, dis2 := v / 2 ^ 20 % 1024 }) f)
    | .ctrVal l t n => resave l (updTile l t (fun x =>
        if x.saved then { x with ctr := vset x.ctr n (v % 2 ^ 48) } else { x with wrote := (n % 16, v % 2 ^ 48) :: x.wrote }) f)
    | .ctrSel l t n => resave l (updTile l t (fun x => { x with sel := vset x.sel n (v % 256) }) f)
    | .ctrStat l t =>
      resave l (updTile l t (fun x => { x with ien := BitVec.ofNat 16 (v / 65536), ovf := x.ovf &&& ~~~ BitVec.ofNat 16 v }) f)
    | .frameMap vf fr =>
      let lost (s : SpEntry) : Bool := v % 2 == 0 && s.vf == vf && s.frames.contains fr
      updPart vf (fun p => { p with frames := setFrame fr v p.frames }) { f with spEntry := f.spEntry.filter fun s => !lost s }
    | .poolMap vf fr => updPart vf (fun p => { p with pool := setFrame fr v p.pool }) f
    | .weftDev => { f with module_ := { f.module_ with weftDev := v % 2 ^ 22 } }
    | .errOwed _ | .fqTail _ | .partAcct _ | .lqAcc _ _ | .votLast _ _ | .bellows _ _ | .cntNode _ _ _ | .weftStat _ => f

def execRegisterWrite (pf : Bool) (r : RegName) (v : Nat) (s : State) : Host.Outcome State Fault Refusal := runEvent hostDue (registerWrite pf r v) s

end Sys2Proof.Machine
end

