-- ==== Sys2Proof/Machine/Sched.lean ====
section
/-!
DEFINITION. The cycle (log 1): which words fire and which commands issue (R49 to R53, R178 to R180), which events happen,
and what the end of a cycle does (R17, R25, R46, R64, R130, R131, R210, R223, R240 to R242, R270).
-/
namespace Sys2Proof.Machine

/-! ## Selection -/

/-- A slot is eligible (R49, R50): its guard holds and its word need not wait. -/
def eligible (f : Fabric) (e : Elem) (slot : Nat) : Bool :=
  let w := (vget e.slots slot).toNat
  guardHolds f e (w / 67108864) && (match decodeElem w with | .ok i => waitless f e i | .error _ => false)

/-- The order in which an element's slots are searched (R52). -/
def slotOrder (e : Elem) : List Nat := (List.range 32).map fun i => if e.rot then (e.rotPtr + 1 + i) % 32 else i

/-- The slot an element fires (R51, R52): after a resume of its faulting firing, that one again (R64). R64 and R206 do not say what
holds while R50 makes that firing wait: DESIGN CHOICE no other slot of the element fires before it, and its guard, which it has
passed, is not judged again (log 81). -/
def chosenSlot (f : Fabric) (e : Elem) : Option Nat :=
  if !elemRuns f e then none
  else match e.redo with
    | some s => (match decodeElem (vget e.slots s).toNat with | .ok i => if waitless f e i then some s else none | .error _ => none)
    | none => (slotOrder e).find? (eligible f e)

/-- The firings of this cycle, in ascending order of element. -/
def firings (f : Fabric) : List (Elem × Nat) :=
  let es := sortBy (fun a b => decide (a.line < b.line) || (a.line == b.line && decide (a.thread ≤ b.thread))) f.elems
  es.filterMap fun e => (chosenSlot f e).map fun s => (e, s)

/-- The slot holds CTRRD, which reads what this cycle's events leave (R242). -/
def isCtrrd (x : Elem × Nat) : Bool :=
  match decodeElem (vget x.1.slots x.2).toNat with
  | .ok (.ctrrd _ _ _) => true
  | _ => false

/-- The step condition of a command word holds and its mode lets it issue (R75, R180). -/
def posIssues (f : Fabric) (c : Ctl) (pos : Nat) : Bool :=
  match c.table[pos]? with
  | some w =>
    (match decCond (w.toNat / 67108864), decodeCmd w.toNat with
    | some cd, .ok _ => mayIssue f c pos cd
    | _, _ => false)
  | none => false

/-- The command a controller issues (R180): in stream mode the lowest position that may. -/
def chosenPos (f : Fabric) (c : Ctl) : Option Nat :=
  (if c.mode = 2 then List.range c.table.length else [c.pos]).find? (posIssues f c)

/-- The issues of this cycle, in ascending order of tile and controller. -/
def issues (f : Fabric) : List Todo :=
  let cs := sortBy (fun a b => decide (a.line < b.line) || (a.line == b.line && decide (a.tile * 8 + a.num ≤ b.tile * 8 + b.num))) f.ctls
  cs.filterMap fun c => (chosenPos f c).map fun p => .issue c.line c.tile c.num p

/-! ## Events -/

/-- Keep an event of a partition that may happen. -/
def ifDue (m : Memory) (f : Fabric) (vf : Nat) (due : Memory → Fabric → Bool) (i : Instr) : List (Nat × Instr) :=
  if due m f then [(vf, i)] else []

/-- Events of the memory and translation units that may happen now. -/
def accessEvents (m : Memory) (f : Fabric) : List (Nat × Instr) :=
  f.accs.flatMap fun a =>
    let may := ifDue m f (vfOf a.line)
    may (xlatLookupDue a.id) (.xlatLookup a.id) ++ may (walkResultDue a.id) (.walkResult a.id)
      ++ may (loadReturnDue a.id) (.loadReturn a.id) ++ may (storeAcceptDue a.id) (.storeAccept a.id)
      ++ may (atomicReturnDue a.id) (.atomicReturn a.id) ++ may (mxqRecordReadDue a.id) (.mxqRecordRead a.id)

/-- Events of a tile's engines that may happen now. -/
def engineEvents (m : Memory) (f : Fabric) : List (Nat × Instr) :=
  (f.gens.flatMap fun g => ifDue m f (vfOf g.line) (patternVisitDue g.line g.tile g.num) (.patternVisit g.line g.tile g.num))
    ++ (f.hqs.flatMap fun q =>
      let may := ifDue m f (vfOf q.line)
      may (copyEntryDue q.line q.tile q.num) (.copyEntry q.line q.tile q.num)
        ++ may (armCompleteDue q.line q.tile q.num) (.armComplete q.line q.tile q.num)
        ++ may (disarmAckDue q.line q.tile q.num) (.disarmAck q.line q.tile q.num)
        ++ (List.range 16).flatMap fun k =>
          may (mcastJoinTokenDue q.line q.tile q.num k) (.mcastJoinToken q.line q.tile q.num k))
    ++ (f.copies.flatMap fun c => ifDue m f (vfOf c.line) (copyBeatDue c.line c.tile c.num) (.copyBeat c.line c.tile c.num))
    ++ (f.acks.flatMap fun a => ifDue m f (vfOf a.line) (countAckDue a.id) (.countAck a.id))
    ++ (f.cnts.flatMap fun c => ifDue m f (vfOf c.line) (countTokenCommitDue c.line c.tile c.num) (.countTokenCommit c.line c.tile c.num))

/-- The partition a channel belongs to: a mailbox or link is held under its partition's key. -/
def chanVf (c : Chan) : Nat := if 100000 ≤ c.line then c.line - 100000 else vfOf c.line

/-- Events of matrix schedulers, voters and swage nodes that may happen now. -/
def nodeEvents (m : Memory) (f : Fabric) : List (Nat × Instr) :=
  (f.mx.flatMap fun b =>
      ifDue m f (vfOf b.line) (mxTaskIssueDue b.line b.bolt) (.mxTaskIssue b.line b.bolt)
        ++ b.flight.flatMap fun t => ifDue m f (vfOf t.line) (mxTaskCompleteDue t.line t.id) (.mxTaskComplete t.line t.id))
    ++ (f.voters.flatMap fun v => (List.range 3).flatMap fun k =>
      ifDue m f (vfOf v.line) (voterTokenDue v.line v.num k) (.voterToken v.line v.num k))
    ++ f.chans.flatMap fun c =>
      ifDue m f (chanVf c) (swageConvertDue c.line c.num) (.swageConvert c.line c.num)
        ++ ifDue m f (chanVf c) (resumePortTokenDue c.line c.num) (.resumePortToken c.line c.num)

/-- The partition a bolt is granted to (R222); the physical function for a bolt of none. -/
def boltVf (f : Fabric) (b : Nat) : Nat := ((f.parts.find? fun p => p.grant / 2 ^ b % 2 == 1).map fun p => p.vf).getD 0

/-- Events of the anvil, the scrub engine and the partitions that may happen now. -/
def anvilEvents (m : Memory) (f : Fabric) : List (Nat × Instr) :=
  (f.ifaces.flatMap fun i =>
      ifDue m f i.vf (launchRecordDue i.vf i.ps) (.launchRecord i.vf i.ps)
        ++ ifDue m f i.vf (shootdownDoneDue i.vf i.ps) (.shootdownDone i.vf i.ps))
    ++ (f.launches.flatMap fun x => ifDue m f x.vf (linePlacementDue x.id) (.linePlacement x.id))
    ++ (f.requests.flatMap fun r => ifDue m f (vfOf r.line) (spawnAnswerDue r.id) (.spawnAnswer r.id))
    ++ (f.resizes.flatMap fun r => ifDue m f (vfOf r.line) (rszCompleteDue r.id) (.rszComplete r.id))
    ++ (f.lines.flatMap fun x =>
      let may := ifDue m f x.vf
      may (prerequisitesMetDue x.id) (.prerequisitesMet x.id) ++ may (lineCompleteDue x.id) (.lineComplete x.id)
        ++ may (quiescentPreemptDue x.id) (.quiescentPreempt x.id) ++ may (lineRestoreDue x.id) (.lineRestore x.id)
        ++ may (recfgDrainedDue x.id) (.recfgDrained x.id))
    ++ (f.tiles.flatMap fun t => ifDue m f (vfOf t.line) (tileSaveDue t.line t.num) (.tileSave t.line t.num))
    ++ ((f.groups.filter fun g => g.swapBy.isSome).map fun g => (g.vf, .planeSwapDone g.vf g.num))
    ++ (f.module_.scrubbing.flatMap fun b => ifDue m f (boltVf f b.1) (boltScrubDoneDue b.1) (.boltScrubDone b.1))
    ++ f.scrub.flatMap fun s => ifDue m f s.2.1 (spScrubCompleteDue s.1) (.spScrubComplete s.1)

/-- Every event whose time the spec leaves open. -/
def freeEvents (m : Memory) (f : Fabric) : List (Nat × Instr) := accessEvents m f ++ engineEvents m f ++ nodeEvents m f ++ anvilEvents m f

/-- Events that take an access to its end. -/
def accessSteps (a : Acc) : List Instr :=
  .xlatLookup a.id :: List.replicate 8 (.walkResult a.id)
    ++ [.loadReturn a.id, .storeAccept a.id, .mxqRecordRead a.id] ++ List.replicate 8 (.atomicReturn a.id)

/-- Swaps at their latest cycle (R120), with what has to be performed before them: no event of these may wait longer (log 20). -/
def lastSwaps (f : Fabric) : List Instr :=
  (f.groups.filter fun g => (g.swapBy.map fun t => decide (t ≤ f.cycle)) == some true).flatMap fun g =>
    let last := (stepStores f g).foldl (fun n a => max n a.id) 0
    ((f.accs.filter fun a => vfOf a.line == g.vf && decide (a.id ≤ last)).flatMap accessSteps) ++ [.planeSwapDone g.vf g.num]

/-- Choose freely which of the events happen in this cycle, each by its partition's own scheduler (R256); under the board's throttle
matrix issue is put off once more (R233). -/
def chooseEvents : List (Nat × Instr) → Fabric → List Instr × Fabric
  | [], f => ([], f)
  | (vf, i) :: r, f =>
    let (k, f) := pick vf 2 f
    let (n, f) := match i with
      | .mxTaskIssue _ _ => if f.module_.throttle then pick vf 2 f else (1, f)
      | _ => (1, f)
    let (l, f) := chooseEvents r f
    (if k == 1 && n == 1 then i :: l else l, f)

/-- Events at the start of a cycle: sampled walks, over the arrivals their edge found (R237), round entries (R215, R254) and the
wraps of the cycle before (R240). -/
def openingEvents (m : Memory) (f : Fabric) : List Instr :=
  ((f.lines.flatMap fun x => ifDue m f x.vf (traceWalkDue x.id) (.traceWalk x.id))
    ++ f.tiles.flatMap fun t =>
      ifDue m f (vfOf t.line) (roundEntryDue t.line t.num) (.roundEntry t.line t.num)
        ++ (List.range 16).flatMap fun n =>
          ifDue m f (vfOf t.line) (counterWrapDue t.line t.num n) (.counterWrap t.line t.num n)).map Prod.snd

/-- Events at a time the spec fixes: range answers (R348), slice expiries (R191), drops at guarded ports (R226), and the commits of
pending end-of-stream marks, which come last (R48). -/
def timedEvents (m : Memory) (f : Fabric) : List Instr :=
  ((f.requests.flatMap fun r => ifDue m f (vfOf r.line) (rangeAnswerDue r.id) (.rangeAnswer r.id))
    ++ (f.lines.flatMap fun x => ifDue m f x.vf (sliceExpiryDue x.id) (.sliceExpiry x.id))
    ++ (f.chans.flatMap fun c => ifDue m f (chanVf c) (guardDropDue c.line c.num) (.guardDrop c.line c.num))
    ++ f.elems.flatMap fun e => (List.range 8).flatMap fun h =>
      ifDue m f (vfOf e.line) (eosCommitDue e.line e.thread h) (.eosCommit e.line e.thread h)).map Prod.snd

/-- A resume asked for by the host. -/
def resumeOf : Instr → Option (Nat × Nat)
  | .fltResumeResume vf ix | .fltResumeEnd vf ix | .fltResumeSkip vf ix | .fltResumeNone vf ix => some (vf, ix)
  | _ => none

/-- What the host, the board or another device does. -/
def fromOutside : Instr → Bool
  | .lqDb _ _ _ | .lstRsz _ _ _ | .fltResumeResume _ _ | .fltResumeEnd _ _ | .fltResumeSkip _ _ | .fltResumeNone _ _ | .fqHead _ _
  | .errBudget _ _ _ | .partGrant _ _ _ | .xlShoot _ _ _ | .atsInvalidation _ _ _ | .remoteWrite _ _ _ _ _ | .powerThrottle _
  | .powerOn _ | .attestationRequest _ | .registerWrite _ _ _ | .rowRefused _ _ _ | .endedByHost _ => true
  | _ => false

/-- The partition a register belongs to. -/
def regVf : RegName → Nat
  | .errOwed vf | .errMuslin vf | .fqBase vf | .fqCfg vf | .fqTail vf | .fqLost vf | .partAcct vf | .trcBase vf | .trcCfg vf | .trcStat vf
  | .digBase vf | .digCfg vf | .lqBase vf _ | .lqCfg vf _ | .lqAcc vf _ | .ifSched vf _ | .quotaLimit vf _ | .quotaUsed vf _ | .xlRoot vf _
  | .ifPeer vf _ | .frameMap vf _ | .poolMap vf _ => vf
  | .votCnt l _ | .votLast l _ | .ctrVal l _ _ | .ctrSel l _ _ | .ctrStat l _ | .bellows l _ | .cntNode l _ _ => vfOf l
  | .weftDev | .weftStat _ => 0

/-- The function whose writes an input stands among: those of the physical function, of the board and of other devices are not held
behind a virtual function's. -/
def senderOf : Instr → Nat
  | .lqDb vf _ _ | .fltResumeResume vf _ | .fltResumeEnd vf _ | .fltResumeSkip vf _ | .fltResumeNone vf _ | .fqHead vf _ | .xlShoot vf _ _ => vf
  | .lstRsz l _ _ | .endedByHost l => vfOf l
  | .errBudget vf pf _ | .partGrant vf pf _ => if pf then 0 else vf
  | .registerWrite pf r _ => if pf then 0 else regVf r
  | _ => 0

/-- The first input that may be taken, with those left (R184: a resume waits for the resizes asked for before it, and holds what its
own function sends after it). -/
def firstInput (m : Memory) (f : Fabric) : List Nat → List Instr → Option (Instr × List Instr)
  | _, [] => none
  | held, i :: r =>
    let may := match resumeOf i with | some (vf, ix) => fltResumeDue vf ix m f | none => true
    if may && !held.contains (senderOf i) then some (i, r)
    else (firstInput m f (senderOf i :: held) r).map fun x => (x.1, i :: x.2)

/-- The next input, and the inputs left. A device that has not started takes power only (R230). -/
def takeInput (m : Memory) (f : Fabric) : List Todo × Fabric :=
  match firstInput m f [] f.inputs with
  | some (i, r) =>
    let power := match i with | .powerOn _ => true | _ => false
    (if fromOutside i && (f.module_.booted || power) then [.event i] else [], { f with inputs := r })
  | none => ([], f)

/-! ## The plan -/

/-- Elements of a tile with no eligible slot (R241, event 4). -/
def idleElems (f : Fabric) (t : Tile) : Nat :=
  16 - (f.elems.filter fun e => e.line == t.line && tileOf e.thread == t.num && (List.range 32).any (eligible f e)).length

/-- A line's held edge is being stretched. -/
def stretching (f : Fabric) (l : Nat) : Bool := match findLine f l with | some x => beatRuns f x && !x.overflowing.isEmpty | none => false

/-- The events every cycle brings to a tile (R241: 1, 4 and 7), and the free counts of squashed firings and bank conflicts. -/
def cycleCounts (t : Tile) (f : Fabric) : Fabric :=
  let (a, f) := pick (vfOf t.line) 0 f
  let (b, f) := pick (vfOf t.line) 3 f
  let now := 1 :: List.replicate (idleElems f t) 4 ++ (if stretching f t.line then [7] else [])
    ++ (if t.sel.toList.contains 3 then List.replicate a 3 else []) ++ (if t.sel.toList.contains 9 then List.replicate b 9 else [])
  updTile t.line t.num (fun x => { x with now := now ++ x.now }) f

/-- PLAN THE NEXT CYCLE (log 1): every choice is made on the state at its start (R49). -/
def planCycle (m : Memory) (f : Fabric) : Fabric :=
  if !f.module_.booted then
    let (ins, f) := takeInput m f
    { f with agenda := ins, cycle := f.cycle + 1 }
  else
    let f := f.tiles.foldl (fun f t => if tileFinishes f t.line t.num then drainLinks f t else f) (dropLateMarkers f)
    let f := (f.tiles.filter fun t => !t.saved).foldl (fun f t => cycleCounts t f) f
    let fs := firings f
    let fire (x : Elem × Nat) : Todo := .fire x.1.line x.1.thread x.2
    let first := (openingEvents m f).map .event
    let timed := (timedEvents m f).map .event
    let iss := issues f
    let (evs, f) := chooseEvents (freeEvents m f) f
    let (ins, f) := takeInput m f
    { f with agenda :=
        first ++ (fs.filter fun x => !isCtrrd x).map fire ++ iss ++ evs.map .event ++ (lastSwaps f).map .event ++ timed ++ ins ++ (fs.filter isCtrrd).map fire
          ++ [.endCycle] }

/-! ## The end of a cycle -/

/-- Every element of the done set has fired DONE (R17). -/
def allMarked (st : Station) (it : Item) : Bool := st.doneSet.all it.marks.contains

/-- Items complete (R17, R25): a resumed one becomes finished in its slot, with the token it hands on. -/
def completeItem (f : Fabric) (st : Station) : Station :=
  let late := match findLine f st.line with | some x => !x.overflowing.isEmpty | none => false
  let end_ (it : Item) : Item := if it.done.isNone && allMarked st it then { it with done := some f.cycle, late := late } else it
  match st.resumed with
  | some (i, it) =>
    if allMarked st it then { setSlot i (fun x => { x with state := 2, tok := handedOn it }) st with resumed := none } else st
  | none => { st with item := st.item.map end_ }

/-- A posted BEAT or MARK reaches the source tile (R270, R328): BEAT completes, MARK waits for an edge. -/
def acceptPosted (l : Nat) (p : Posted) (f : Fabric) : Fabric :=
  match p.beat with
  | some b => completeCmd p.cmd (updLine l (fun x => { x with pendBeat := some b }) f)
  | none => updLine l (fun x => { x with marks := x.marks ++ [p.cmd] }) f

/-- Commands of one line that have arrived, in order of arrival, tile and controller (R270). -/
def acceptLine (f : Fabric) (x : Line) : Fabric :=
  let (now, rest) := x.posted.partition fun p => decide (p.at_ ≤ f.cycle)
  let key (p : Posted) : Nat × Nat := (p.at_, p.tile * 8 + p.ct)
  let now := sortBy (fun a b => decide ((key a).1 < (key b).1) || ((key a).1 == (key b).1 && decide ((key a).2 ≤ (key b).2))) now
  now.foldl (fun f p => acceptPosted x.id p f) (updLine x.id (fun y => { y with posted := rest }) f)

/-- One cycle of a line's beat or stretch has passed, and of its quiet (R24, R27, R217). A start, a resume or a restore acts within a
cycle, and the beat counts from the next. DESIGN CHOICE the cycle in which a firing faults is no cycle of the beat (R18; log 70). -/
def passCycle (f : Fabric) (x : Line) : Line :=
  let y :=
    if beatRuns f x && x.begun && x.runFrom ≤ f.cycle then
      (if x.overflowing.isEmpty then { x with cyc := x.cyc + 1 } else { x with stretch := x.stretch + 1 })
    else x
  { y with quiet := if x.moved then 0 else x.quiet + 1, moved := false }

/-- Lists of numbers in ascending order, the first difference deciding. -/
def lexLe (a b : List Nat) : Bool := (a.zip b).foldr (fun x y => decide (x.1 < x.2) || (x.1 == x.2 && y)) true

/-- Two records or charges of one cycle: by unit kind, bolt, tile, element and unit index (R210). -/
def Rec.le (kind index : α → Nat) (rec_ : α → Rec) (a b : α) : Bool :=
  let k (x : α) : List Nat := [kind x, (rec_ x).bolt, (rec_ x).tile, (rec_ x).elem, index x]
  lexLe (k a) (k b)

/-- APPLY A CHARGE (R130, R131). -/
def applyCharge (f : Fabric) (c : Charge) : Fabric :=
  let p := getPart f c.vf
  if p.ebudget then updPart c.vf (fun q => { q with owed := satN 32 (q.owed + c.cost) }) f
  else
    let f := updPart c.vf (fun q => { q with remain := q.remain - c.cost }) f
    if p.remain ≤ c.cost then
      let r := { c.rec_ with code := 7, kind := 8, resumable := true, halted := true, mask := 0xFF, addr := 0xFFFFFFFFFFFFFFFF,
                             detail := c.cost, index := none, what := .budget }
      let f := { updPart c.vf (fun q => { q with ebudget := true }) f with newRecs := f.newRecs ++ [r] }
      { f with lines := f.lines.map fun x => if x.vf = c.vf ∧ (x.state = 2 ∨ x.state = 4) ∧ x.endStatus.isNone = true then { x with state := 5 } else x }
    else f

/-- The oldest emitted token is committed to the line's output; without an output it is discarded (R30). -/
def emitOutput (f : Fabric) (x : Line) : Fabric :=
  match x.emitq with
  | t :: r =>
    let drop (f : Fabric) : Fabric := updLine x.id (fun y => { y with emitq := r }) f
    (match f.chans.find? fun c => c.writer == .sink && (c.line == x.id) with
    | some c =>
      if c.closed then drop f
      else if 1 ≤ roomOf f c then markMoved x.id (updChan c.line c.num (commitTok t f) (drop f)) else f
    | none => drop f)
  | [] => f

/-- A write of an element reaches a region with `planes=beat`. -/
def reachesBeat (f : Fabric) (a : Acc) : Bool :=
  a.kind.mode != .read && (match accWindow f a with
    | some w => (accPlaces a w).any fun x => (match regionAt f a.line x.1.1 with | some r => r.planes == 2 | none => false)
    | none => false)

/-- Accesses still to be performed that others come after: by issue order of a generator or an element, or by what those need (R138, R157). -/
def directlyBefore (f : Fabric) (ids : List Nat) : List Nat :=
  let mine := f.accs.filter fun a => ids.contains a.id
  let needs := mine.flatMap fun a => pendingOf f a.need
  (f.accs.filter fun b => needs.contains b.id || mine.any fun a => b.id < a.id && (sameGen a b || (b.line == a.line && b.th == a.th))).map fun b => b.id

/-- Accesses with all that they come after, each behind those. -/
def withEarlier (f : Fabric) : Nat → List Nat → List Nat
  | 0, ids => ids
  | n + 1, ids => if ids.isEmpty then [] else withEarlier f n (directlyBefore f ids) ++ ids

/-- An edge of the line comes in this cycle. -/
def edgeComes (f : Fabric) (x : Line) : Bool :=
  (beatEdgeDue x.id [] f && (stationsOf f x.id).all fun s => !overflows s) || stretchEdgeDue x.id [] f || lineFirstEdgeDue x.id [] f

/-- An edge releases what the line's elements have issued to its regions with `planes=beat` (R138, R152): before it their writes are performed,
with what these come after, and count in the beat it closes. DEDUCED one that cannot be, behind a halted unit or an engine's work, counts in
the beat in which it is performed (R38; log 33). -/
def beatWork (f : Fabric) (x : Line) : List Instr :=
  if edgeComes f x then
    let ids := (f.accs.filter fun a => a.line == x.id && reachesBeat f a).map fun a => a.id
    (withEarlier f f.accs.length ids).eraseDups.flatMap fun id => ((findAcc f id).map accessSteps).getD []
  else []

/-- What follows a cycle's end: edges, resumptions in slack, and its close. -/
def edgeEvents (f : Fabric) : List Todo :=
  (f.lines.flatMap fun x =>
      (beatWork f x ++ [Instr.beatEdge x.id, Instr.stretchEdge x.id, Instr.lineStall x.id, Instr.lineFirstEdge x.id]).map Todo.event)
    ++ (f.stations.map fun s => .event (.reworkResume s.line s.num)) ++ [.closeCycle]

/-- THE END OF A CYCLE: items complete, posted commands arrive, the beat advances, swage nodes settle, charges are applied,
and a line placed in it has been loaded (R185). -/
def endCycle (f : Fabric) : Fabric :=
  let f := settleNodes f
  let f := { f with stations := f.stations.map (completeItem f) }
  let f := f.lines.foldl acceptLine f
  let fresh_ (e : Elem) : Elem := { e with eosNow := [] }
  let restored (s : Station) : Station := if lineRuns f s.line then { s with restore := s.restore - 1 } else s
  let f := { f with elems := f.elems.map fresh_, stations := f.stations.map restored }
  let loaded (x : Line) : Line := { x with state := if x.state = 0 then 1 else x.state }
  let f := { f with lines := f.lines.map fun x => loaded (passCycle f x) }
  let cs := sortBy (Rec.le (fun c => c.rec_.unit) (fun c => c.index) fun c => c.rec_) f.charges
  let f := cs.foldl applyCharge { f with charges := [] }
  let f := f.lines.foldl emitOutput f
  { f with tiles := f.tiles.map (bankPoison f), agenda := edgeEvents f ++ f.agenda }

/-! ## Records -/

/-- The bytes of a record (R208). -/
def recBytes (r : Rec) (lost : Bool) : List Byte :=
  leBytes 2 r.code ++ leBytes 1 (b2n r.resumable + 2 * b2n r.halted + 4 * b2n lost) ++ leBytes 1 r.vf ++ leBytes 2 r.pasid
    ++ leBytes 2 (if r.hasLine then r.line % 64 else 0xFFFF) ++ leBytes 1 r.bolt ++ leBytes 1 r.tile ++ leBytes 1 r.elem
    ++ leBytes 1 r.slot ++ leBytes 1 r.mask ++ leBytes 1 r.kind ++ leBytes 1 r.unit ++ leBytes 1 0 ++ leBytes 2 r.seq
    ++ leBytes 2 (r.node % 4096) ++ leBytes 4 r.loopv ++ leBytes 8 r.addr ++ leBytes 8 r.beat ++ leBytes 4 r.detail ++ leBytes 20 0

/-- The handler line of a partition (R187). Where several of its interfaces, or one of them twice, have launched one, R187 does not say
which gets a token: DESIGN CHOICE the first of the partition's lines with HANDLER, whatever the fault's interface (log 85). -/
def handlerOf (f : Fabric) (vf : Nat) : Option Line := f.lines.find? fun x => x.vf == vf && x.handler && x.endStatus.isNone

/-- SIGNAL A FAULT (R210, R211): a token to the handler line, or the partition's vector. EBUDGET and the handler line's own faults go by
the vector (R210), and so does an image that failed a check, for which no handler line runs (R81). -/
def signalFault (r : Rec) (index : Nat) (f : Fabric) : Fabric :=
  let p := getPart f r.vf
  let msg := sendMsix r.vf p.fqVec f
  match handlerOf f r.vf with
  | some x =>
    if p.fqHen && r.code != 7 && r.what != .image && !(r.hasLine && r.line == x.id) then
      (match x.srcChan with
      | some (a, b) =>
        let v := Lanes.ofFn fun i => match i with
          | 0 => BitVec.ofNat 32 index
          | 1 => BitVec.ofNat 32 r.code
          | 2 => BitVec.ofNat 32 (if r.hasLine then r.line % 64 else 0xFFFF)
          | 3 => BitVec.ofNat 32 r.seq
          | _ => 0
        updChan a b (commitTok ⟨v, 0, false, 0xFFF, 0, []⟩ f) f
      | none => msg)
    else msg
  | none => msg

/-- The fault halts a unit, stops a line or stops the partition (R210). -/
def Rec.waits (r : Rec) : Bool := r.code != 1 && r.code != 14

/-- A record in the ring is written for a boundary guard: the port counts afresh from it (R227). -/
def guardWritten (r : Rec) (f : Fabric) : Fabric :=
  match r.what with
  | .guard key c n =>
    let again (d : Nat × Nat × Option Nat) : Nat × Nat × Option Nat := if d.1 = key then (key, d.2.1 - n, some c) else d
    { f with module_ := { f.module_ with drops := f.module_.drops.map again } }
  | _ => f

/-- PUT A RECORD in the fault queue (R208 to R210). With no queue a fault that halts or stops ends its line, and one that does
neither is only counted. -/
def putRec (f : Fabric) (r : Rec) : Fabric :=
  let p := getPart f r.vf
  let lose (f : Fabric) : Fabric := updPart r.vf (fun q => { q with fqLost := satN 32 (q.fqLost + 1) }) f
  if p.fqLog = 0 then
    if !r.waits then lose f
    else
      let f := signalFault r 0xFFFFFFFF (lose f)
      if r.code != 7 && r.hasLine then endLine r.line 3 f else f
  else if 2 ^ p.fqLog ≤ (p.fqTail + 2 ^ 32 - p.fqHead) % 2 ^ 32 then
    (if r.waits then { f with recs := f.recs ++ [{ r with index := none }] }
     else updPart r.vf (fun q => { q with lostFlag := true }) (lose f))
  else
    let f := deviceWrite r.vf p.fqBase (64 * (p.fqTail % 2 ^ p.fqLog)) (recBytes r p.lostFlag) f
    let f := updPart r.vf (fun q => { q with fqTail := (q.fqTail + 1) % 2 ^ 32, lostFlag := false }) (guardWritten r f)
    let f := if r.halted then { f with recs := f.recs ++ [{ r with index := some p.fqTail }] } else f
    signalFault r p.fqTail f

/-- Write the records of the cycle behind those that wait (R210). -/
def putRecs (f : Fabric) : Fabric :=
  let wait := f.recs.filter fun r => r.index.isNone
  let new := sortBy (Rec.le (fun r => r.kind) (fun r => r.unit) fun r => r) f.newRecs
  (wait ++ new).foldl putRec { f with recs := f.recs.filter (fun r => r.index.isSome), newRecs := [] }

/-! ## The close -/

/-- Bolts held by a partition's lines (R223). -/
def boltsHeld (f : Fabric) (vf : Nat) : Nat := ((f.lines.filter fun x => x.vf == vf && holdsBolts x).map fun x => x.bolts.length).foldl (· + ·) 0

/-- THE CLOSE OF A CYCLE: element faults stop their lines (R64), records are written (R210), counters add, complete lines go (R189). -/
def closeCycle (f : Fabric) : Fabric :=
  let halt (x : Line) : Line :=
    match x.stopSoon with
    | some c => { x with stop := some (x.stop.getD c), stopSoon := none, state := if x.endStatus.isSome || x.state == 6 then x.state else 5 }
    | none => x
  let f := putRecs { f with lines := f.lines.map halt }
  let bill (p : Part) : Part := { p with acct := (p.acct + boltsHeld f p.vf) % 2 ^ 64 }
  reapLines { f with tiles := f.tiles.map addCounts, parts := f.parts.map bill, freed := [], cycle := f.cycle + 1 }

/-! ## CTRRD -/

/-- One of the edge's events. -/
def runEdge (m : Memory) (f : Fabric) (i : Instr) : Fabric :=
  let run (due : Memory → Fabric → Bool) (eff : Memory → Fabric → Fabric) : Fabric := if due m f then eff m (newAccess f) else f
  match i with
  | .beatEdge l => run (beatEdgeDue l) (beatEdge l)
  | .stretchEdge l => run (stretchEdgeDue l) (edge l)
  | .lineStall l => run (lineStallDue l) (lineStall l)
  | .lineFirstEdge l => run (lineFirstEdgeDue l) (lineFirstEdge l)
  | .reworkResume l n => run (reworkResumeDue l n) (reworkResume l n)
  | .xlatLookup id => run (xlatLookupDue id) (xlatLookup id)
  | .walkResult id => run (walkResultDue id) (walkResult id)
  | .loadReturn id => run (loadReturnDue id) (loadReturn id)
  | .storeAccept id => run (storeAcceptDue id) (storeAccept id)
  | .mxqRecordRead id => run (mxqRecordReadDue id) (mxqRecordRead id)
  | .atomicReturn id => run (atomicReturnDue id) (atomicReturn id)
  | _ => f

/-- The fabric as this cycle's end leaves it: what is still to come in the cycle but its close. -/
def cycleEnd (m : Memory) (f : Fabric) : Fabric :=
  let s := State.commit m (endCycle f)
  ((edgeEvents s.fab).foldl (fun s t => match t with | .event i => State.commit s.mem (runEdge s.mem s.fab i) | _ => s) s).fab

/-- Firings of a tile still to come in the cycle, CTRRDs all, and the one now firing (R241, event 2). -/
def firingsLeft (f : Fabric) (l tile : Nat) : Nat :=
  1 + (f.agenda.filter fun t => match t with | .fire k th _ => k == l && tileOf th == tile | _ => false).length

/-- What a counter of a tile stands at when the cycle ends (R242, R281). -/
def counterAtEnd (m : Memory) (f : Fabric) (l tile i : Nat) : Nat :=
  match findTile (cycleEnd m f) l tile with
  | some x => counterClosed x i (counterNow x i + (if vget x.sel i = 2 then firingsLeft f l tile else 0))
  | none => 0

/-- CTRRD (R242, R281): it reads the counter after every increment of its cycle, and after a write in it. -/
def execCtrrd (t : Nat) (d : Dst) (a : Src) (s : State) : Host.Outcome State Fault Refusal :=
  fireWord (.ctrrd t d a) (fun m e slot f =>
    let x := readSrc f e .int a
    let tile := tileOf e.thread
    let i := x.v.l0.toNat % 16
    let v := match findTile f e.line tile with
      | some y => ctrVal y i (counterAtEnd m f e.line tile i)
      | none => Lanes.zero
    .ok (writeResult e slot d ⟨v, x.poison⟩ f)) s

end Sys2Proof.Machine
end

