-- ==== Sys2Proof/Machine/Fetch.lean ====
section
/-!
DEFINITION. Fetching: an element's word comes from its slot, a controller's command from its table (R39, R178). And the
placing of one word by a loader that stands outside the machine (log 8).
-/
namespace Sys2Proof.Machine

/-- The word of an element's slot, decoded; none where there is no such element. -/
def fetchFire (f : Fabric) (l th slot : Nat) : Option (Except Reject Instr) :=
  (findElem f l th).map fun e => decodeElem (vget e.slots slot).toNat

/-- The command at a position of a controller's table, decoded; none where there is none. -/
def fetchIssue (f : Fabric) (l tile ct pos : Nat) : Option (Except Reject Instr) :=
  ((findCtl f l tile ct).bind fun c => c.table[pos]?).map fun w => decodeCmd w.toNat

/-! ## One word placed from outside -/

/-- A bellows with the least values R33 allows, fixed. -/
def bareBellows : Bellows where
  fixed := true
  ovfRaise := false
  stretched := false
  beat := 4
  floor := 4
  min := 4
  max := 4
  up := 0
  down := 0
  window := 1
  low := 0
  high := 1
  wovr := 0
  wbeats := 0
  wstr := false
  stall := 1
  ovr := 0
  ovf := 0
  str := 0

/-- A running line with nothing in it. -/
def bareLine (l : Nat) : Line :=
  { id := l, vf := vfOf l, pasid := 0, tag := 0, depth := 0, spawner := none, image := 0, args := 0, nargs := 0, cpl := 0, msix := false,
    vec := 0, persist := false, handler := false, pre := [], state := 2, cls := 2, unordered := false, gap := 0, bolts := [0], links := [],
    source := 0, sinkStation := 0, srcChan := none, routes := [], swPorts := [], placedAt := 0, sliceFrom := 0, begun := false, beatIx := 0, beats := 0,
    cyc := 0, overflowing := [], stretch := 0, stallFrom := 0, noEdge := false, stop := none, stopSoon := none, bel := bareBellows,
    pendBeat := none, posted := [], marks := [], nextSeq := 0, lastSeq := none, eosTok := none, eosDone := false, next := 0, held := [],
    emitq := [], kept := [], reinject := [], bad := [], admitted := 0, emitted := 0, round := 0,
    ranges := List.replicate 8 RangeUnit.absent, closing := false, recfg := [], saved := false, dirty := [], walk := none, quiet := 0,
    moved := false, know := [], saveFrames := [], launchId := 0, runFrom := 0, preempt := false, rounds := [], endStatus := none }

/-- Station 0 of a line, with one element and no item. -/
def bareStation (l : Nat) : Station :=
  { line := l, num := 0, tile := 0, elems := [0], doneSet := [0], carry := [], mx := false, vote := none, route := 0, ports := [], item := none, loop := [],
    resumed := none, restore := 0, ageCtr := 0, itemAt := 0 }

/-- Element 0 of a line as the loader leaves one (R39), with a word in slot 0. -/
def bareElem (l : Nat) (w : Word) : Elem :=
  { line := l, thread := 0, station := 0, slots := vset (Vector.replicate 32 0) 0 w, guards := Vector.replicate 64 0, nodes := [],
    preds := 0, lat := Reg.zero, o := Vector.replicate 8 Reg.zero, m := Vector.replicate 64 Reg.zero, k := Vector.replicate 8 Lanes.zero,
    h := Vector.replicate 8 .unbound, w := Vector.replicate 8 none, ifmt := 0, ffmt := 0, rnd := 0, sat := false, rot := false, start := 0,
    rotPtr := 31, awaits := [], arrivals := Vector.replicate 8 ⟨0, 6, 0⟩, eosNow := [], lastFire := 0, loads := [], redo := none, know := [], mine := [],
    wins := [], fences := [], reads := [] }

/-- Controller ct0 of a line's tile 0, running a table of one command. -/
def bareCtl (l : Nat) (w : Word) : Ctl :=
  { line := l, tile := 0, num := 0, mode := 0, parent := 0, table := [w], pats := [], started := true, stopped := false, pos := 0,
    nodeBase := [], loops := [], once := [], enabWin := 1, doneWin := 1, enabWait := 0, enabOut := [], doneWait := 0,
    sigs := 0, haltAt := none, know := [] }

/-- A word that the table's numbering reads as a command (log 10). -/
def isCommand (w : Nat) : Bool :=
  if w / 67108864 = 0 then (decodeCmd w).isOk else !(decodeElem w).isOk

/-- Place one word in a line of its own, in front of every other record, and make it the next thing the cycle does. -/
def placeWord (nbits w : Nat) (f : Fabric) : Fabric :=
  let x := BitVec.ofNat 32 (w % 2 ^ nbits)
  let f := { f with lines := bareLine 0 :: f.lines, stations := bareStation 0 :: f.stations, tiles := newTile 0 0 :: f.tiles }
  if isCommand w then { f with ctls := bareCtl 0 x :: f.ctls, agenda := .issue 0 0 0 0 :: f.agenda }
  else { f with elems := bareElem 0 x :: f.elems, agenda := .fire 0 0 0 :: f.agenda }

end Sys2Proof.Machine
end

