-- ==== Sys2Proof/Machine/Dispatch.lean ====
section
/-!
DEFINITION. The dispatch: one arm per instruction, each one call of its meaning.
-/
namespace Sys2Proof.Machine

def exec (i : Instr) (s : State) : Host.Outcome State Fault Refusal :=
  match i with
  | .nop t => Sys2Proof.Machine.execNop t s
  | .trap t c => Sys2Proof.Machine.execTrap t c s
  | .brk t c => Sys2Proof.Machine.execBrk t c s
  | .ctrrd t d a => Sys2Proof.Machine.execCtrrd t d a s
  | .ebrd t d => Sys2Proof.Machine.execEbrd t d s
  | .add t d a b => Sys2Proof.Machine.execAdd t d a b s
  | .addi t d im => Sys2Proof.Machine.execAddi t d im s
  | .sub t d a b => Sys2Proof.Machine.execSub t d a b s
  | .mul t d a b => Sys2Proof.Machine.execMul t d a b s
  | .mulh t d a b => Sys2Proof.Machine.execMulh t d a b s
  | .mulhu t d a b => Sys2Proof.Machine.execMulhu t d a b s
  | .mad t d a b => Sys2Proof.Machine.execMad t d a b s
  | .abs t d a => Sys2Proof.Machine.execAbs t d a s
  | .and t d a b => Sys2Proof.Machine.execAnd t d a b s
  | .or t d a b => Sys2Proof.Machine.execOr t d a b s
  | .xor t d a b => Sys2Proof.Machine.execXor t d a b s
  | .andn t d a b => Sys2Proof.Machine.execAndn t d a b s
  | .shl t d a b => Sys2Proof.Machine.execShl t d a b s
  | .shr t d a b => Sys2Proof.Machine.execShr t d a b s
  | .sra t d a b => Sys2Proof.Machine.execSra t d a b s
  | .rot t d a b => Sys2Proof.Machine.execRot t d a b s
  | .min t d a b => Sys2Proof.Machine.execMin t d a b s
  | .max t d a b => Sys2Proof.Machine.execMax t d a b s
  | .minu t d a b => Sys2Proof.Machine.execMinu t d a b s
  | .maxu t d a b => Sys2Proof.Machine.execMaxu t d a b s
  | .clz t d a => Sys2Proof.Machine.execClz t d a s
  | .popc t d a => Sys2Proof.Machine.execPopc t d a s
  | .bfx t d a b => Sys2Proof.Machine.execBfx t d a b s
  | .bfi t d a b => Sys2Proof.Machine.execBfi t d a b s
  | .cmp t v d a b => Sys2Proof.Machine.execCmp t v d a b s
  | .bsel t d a b => Sys2Proof.Machine.execBsel t d a b s
  | .getm t d m => Sys2Proof.Machine.execGetm t d m s
  | .putm t a m => Sys2Proof.Machine.execPutm t a m s
  | .mov t d a => Sys2Proof.Machine.execMov t d a s
  | .pset t p v => Sys2Proof.Machine.execPset t p v s
  | .plog t p pa pb tt => Sys2Proof.Machine.execPlog t p pa pb tt s
  | .pany t p => Sys2Proof.Machine.execPany t p s
  | .pall t p => Sys2Proof.Machine.execPall t p s
  | .li t d im => Sys2Proof.Machine.execLi t d im s
  | .lih t d im => Sys2Proof.Machine.execLih t d im s
  | .lbc t d a b => Sys2Proof.Machine.execLbc t d a b s
  | .lshf t d a b => Sys2Proof.Machine.execLshf t d a b s
  | .lred t v d a => Sys2Proof.Machine.execLred t v d a s
  | .lscan t v d a => Sys2Proof.Machine.execLscan t v d a s
  | .fadd t d a b => Sys2Proof.Machine.execFadd t d a b s
  | .fsub t d a b => Sys2Proof.Machine.execFsub t d a b s
  | .fmul t d a b => Sys2Proof.Machine.execFmul t d a b s
  | .fma t d a b => Sys2Proof.Machine.execFma t d a b s
  | .fmin t d a b => Sys2Proof.Machine.execFmin t d a b s
  | .fmax t d a b => Sys2Proof.Machine.execFmax t d a b s
  | .frcp t d a => Sys2Proof.Machine.execFrcp t d a s
  | .frsq t d a => Sys2Proof.Machine.execFrsq t d a s
  | .fexp2 t d a => Sys2Proof.Machine.execFexp2 t d a s
  | .flog2 t d a => Sys2Proof.Machine.execFlog2 t d a s
  | .ftanh t d a => Sys2Proof.Machine.execFtanh t d a s
  | .fcvti t d a => Sys2Proof.Machine.execFcvti t d a s
  | .fcvtf t d a => Sys2Proof.Machine.execFcvtf t d a s
  | .frnd t d a => Sys2Proof.Machine.execFrnd t d a s
  | .fscl t d a b => Sys2Proof.Machine.execFscl t d a b s
  | .advr t h n => Sys2Proof.Machine.execAdvr t h n s
  | .advw t h n => Sys2Proof.Machine.execAdvw t h n s
  | .peek t h k d => Sys2Proof.Machine.execPeek t h k d s
  | .emit t h g a => Sys2Proof.Machine.execEmit t h g a s
  | .eos t h g => Sys2Proof.Machine.execEos t h g s
  | .chq t h d => Sys2Proof.Machine.execChq t h d s
  | .steer t im x y p => Sys2Proof.Machine.execSteer t im x y p s
  | .merge t c a b o => Sys2Proof.Machine.execMerge t c a b o s
  | .ld t d o w q e => Sys2Proof.Machine.execLd t d o w q e s
  | .ldv t d o w q e => Sys2Proof.Machine.execLdv t d o w q e s
  | .st t a o w q e => Sys2Proof.Machine.execSt t a o w q e s
  | .stv t a o w q e => Sys2Proof.Machine.execStv t a o w q e s
  | .atomAdd t a o w q e => Sys2Proof.Machine.execAtomAdd t a o w q e s
  | .atomMin t a o w q e => Sys2Proof.Machine.execAtomMin t a o w q e s
  | .atomMax t a o w q e => Sys2Proof.Machine.execAtomMax t a o w q e s
  | .atomAnd t a o w q e => Sys2Proof.Machine.execAtomAnd t a o w q e s
  | .atomOr t a o w q e => Sys2Proof.Machine.execAtomOr t a o w q e s
  | .atomXor t a o w q e => Sys2Proof.Machine.execAtomXor t a o w q e s
  | .atomXchg t a o w q e => Sys2Proof.Machine.execAtomXchg t a o w q e s
  | .atomFadd t a o w q e => Sys2Proof.Machine.execAtomFadd t a o w q e s
  | .cas t a o w q e => Sys2Proof.Machine.execCas t a o w q e s
  | .fence t w q e => Sys2Proof.Machine.execFence t w q e s
  | .gnew t d => Sys2Proof.Machine.execGnew t d s
  | .gfree t a => Sys2Proof.Machine.execGfree t a s
  | .join t a => Sys2Proof.Machine.execJoin t a s
  | .leave t a => Sys2Proof.Machine.execLeave t a s
  | .step t a => Sys2Proof.Machine.execStep t a s
  | .fcmp t v d a b => Sys2Proof.Machine.execFcmp t v d a b s
  | .done t => Sys2Proof.Machine.execDone t s
  | .beatq t d im => Sys2Proof.Machine.execBeatq t d im s
  | .seq t d => Sys2Proof.Machine.execSeq t d s
  | .range t d a => Sys2Proof.Machine.execRange t d a s
  | .spawn t d a => Sys2Proof.Machine.execSpawn t d a s
  | .mxq t d o w => Sys2Proof.Machine.execMxq t d o w s
  | .wpr t d a => Sys2Proof.Machine.execWpr t d a s
  | .bind c g p r => Sys2Proof.Machine.execBind c g p r s
  | .go c g => Sys2Proof.Machine.execGo c g s
  | .bar c => Sys2Proof.Machine.execBar c s
  | .waitn c n v => Sys2Proof.Machine.execWaitn c n v s
  | .waitnArg c n j => Sys2Proof.Machine.execWaitnArg c n j s
  | .enab c n => Sys2Proof.Machine.execEnab c n s
  | .sigd c => Sys2Proof.Machine.execSigd c s
  | .cntw c n e d => Sys2Proof.Machine.execCntw c n e d s
  | .loop c n k => Sys2Proof.Machine.execLoop c n k s
  | .loopArg c n j => Sys2Proof.Machine.execLoopArg c n j s
  | .arm c q j => Sys2Proof.Machine.execArm c q j s
  | .disarm c q => Sys2Proof.Machine.execDisarm c q s
  | .qfen c m => Sys2Proof.Machine.execQfen c m s
  | .beatPolicy c j => Sys2Proof.Machine.execBeatPolicy c j s
  | .beatFixed c l => Sys2Proof.Machine.execBeatFixed c l s
  | .beatSet c l => Sys2Proof.Machine.execBeatSet c l s
  | .mark c => Sys2Proof.Machine.execMark c s
  | .recfg c j => Sys2Proof.Machine.execRecfg c j s
  | .rsz c x j => Sys2Proof.Machine.execRsz c x j s
  | .haltc c => Sys2Proof.Machine.execHaltc c s
  | .beatEdge l => Sys2Proof.Machine.execBeatEdge l s
  | .stretchEdge l => Sys2Proof.Machine.execStretchEdge l s
  | .traceWalk l => Sys2Proof.Machine.execTraceWalk l s
  | .lineFirstEdge l => Sys2Proof.Machine.execLineFirstEdge l s
  | .reworkResume l st => Sys2Proof.Machine.execReworkResume l st s
  | .lineStall l => Sys2Proof.Machine.execLineStall l s
  | .eosCommit l th h => Sys2Proof.Machine.execEosCommit l th h s
  | .loadReturn id => Sys2Proof.Machine.execLoadReturn id s
  | .atomicReturn id => Sys2Proof.Machine.execAtomicReturn id s
  | .storeAccept id => Sys2Proof.Machine.execStoreAccept id s
  | .xlatLookup id => Sys2Proof.Machine.execXlatLookup id s
  | .walkResult id => Sys2Proof.Machine.execWalkResult id s
  | .patternVisit l tile g => Sys2Proof.Machine.execPatternVisit l tile g s
  | .copyEntry l tile q => Sys2Proof.Machine.execCopyEntry l tile q s
  | .copyBeat l tile ch => Sys2Proof.Machine.execCopyBeat l tile ch s
  | .armComplete l tile q => Sys2Proof.Machine.execArmComplete l tile q s
  | .disarmAck l tile q => Sys2Proof.Machine.execDisarmAck l tile q s
  | .countAck id => Sys2Proof.Machine.execCountAck id s
  | .countTokenCommit l tile n => Sys2Proof.Machine.execCountTokenCommit l tile n s
  | .mcastJoinToken l tile q k => Sys2Proof.Machine.execMcastJoinToken l tile q k s
  | .mxqRecordRead id => Sys2Proof.Machine.execMxqRecordRead id s
  | .mxTaskIssue l bolt => Sys2Proof.Machine.execMxTaskIssue l bolt s
  | .mxTaskComplete l id => Sys2Proof.Machine.execMxTaskComplete l id s
  | .voterToken l v copy => Sys2Proof.Machine.execVoterToken l v copy s
  | .swageConvert l ch => Sys2Proof.Machine.execSwageConvert l ch s
  | .planeSwapDone vf g => Sys2Proof.Machine.execPlaneSwapDone vf g s
  | .lqDb vf ps tail => Sys2Proof.Machine.execLqDb vf ps tail s
  | .launchRecord vf ps => Sys2Proof.Machine.execLaunchRecord vf ps s
  | .linePlacement id => Sys2Proof.Machine.execLinePlacement id s
  | .prerequisitesMet l => Sys2Proof.Machine.execPrerequisitesMet l s
  | .spawnAnswer id => Sys2Proof.Machine.execSpawnAnswer id s
  | .rangeAnswer id => Sys2Proof.Machine.execRangeAnswer id s
  | .lineComplete l => Sys2Proof.Machine.execLineComplete l s
  | .boltScrubDone bolt => Sys2Proof.Machine.execBoltScrubDone bolt s
  | .spScrubComplete fr => Sys2Proof.Machine.execSpScrubComplete fr s
  | .sliceExpiry l => Sys2Proof.Machine.execSliceExpiry l s
  | .roundEntry l tile => Sys2Proof.Machine.execRoundEntry l tile s
  | .tileSave l tile => Sys2Proof.Machine.execTileSave l tile s
  | .quiescentPreempt l => Sys2Proof.Machine.execQuiescentPreempt l s
  | .lineRestore l => Sys2Proof.Machine.execLineRestore l s
  | .recfgDrained l => Sys2Proof.Machine.execRecfgDrained l s
  | .rszComplete id => Sys2Proof.Machine.execRszComplete id s
  | .lstRsz l rg v => Sys2Proof.Machine.execLstRsz l rg v s
  | .fltResumeResume vf ix => Sys2Proof.Machine.execFltResumeResume vf ix s
  | .fltResumeEnd vf ix => Sys2Proof.Machine.execFltResumeEnd vf ix s
  | .fltResumeSkip vf ix => Sys2Proof.Machine.execFltResumeSkip vf ix s
  | .fltResumeNone vf ix => Sys2Proof.Machine.execFltResumeNone vf ix s
  | .resumePortToken l ch => Sys2Proof.Machine.execResumePortToken l ch s
  | .fqHead vf v => Sys2Proof.Machine.execFqHead vf v s
  | .errBudget vf pf v => Sys2Proof.Machine.execErrBudget vf pf v s
  | .partGrant vf pf v => Sys2Proof.Machine.execPartGrant vf pf v s
  | .xlShoot vf ps v => Sys2Proof.Machine.execXlShoot vf ps v s
  | .shootdownDone vf ps => Sys2Proof.Machine.execShootdownDone vf ps s
  | .atsInvalidation vf ps v => Sys2Proof.Machine.execAtsInvalidation vf ps v s
  | .remoteWrite vf ps dev addr row => Sys2Proof.Machine.execRemoteWrite vf ps dev addr row s
  | .guardDrop l ch => Sys2Proof.Machine.execGuardDrop l ch s
  | .counterWrap l tile n => Sys2Proof.Machine.execCounterWrap l tile n s
  | .powerThrottle on => Sys2Proof.Machine.execPowerThrottle on s
  | .powerOn out => Sys2Proof.Machine.execPowerOn out s
  | .attestationRequest nonce => Sys2Proof.Machine.execAttestationRequest nonce s
  | .registerWrite pf r v => Sys2Proof.Machine.execRegisterWrite pf r v s
  | .rowRefused l tile ans => Sys2Proof.Machine.execRowRefused l tile ans s
  | .endedByHost l => Sys2Proof.Machine.execEndedByHost l s

end Sys2Proof.Machine
end

