-- ==== Sys2Proof/Machine/Step.lean ====
section
/-!
DEFINITION. One step: the next word, command or event of the running cycle, or the plan of the next cycle.
-/
namespace Sys2Proof.Machine

/-- The state in which the head of the agenda runs: it is taken from the agenda, and the unit it names is current. -/
def State.begin (s : State) (rest : List Todo) (c : Cur) : State := { s with fab := { s.fab with agenda := rest, cur := c } }

/-- Run a fetched word; where nothing was fetched, since its element or controller has gone within the cycle, nothing happens. -/
def runFetched (x : Option (Except Reject Instr)) (s : State) : Host.Outcome State Fault Refusal :=
  match x with
  | some (.ok i) => exec i s
  | some (.error r) => .refused (.illegalWord r.cause)
  | none => .next s

/-- An event of the agenda that can no longer happen in this cycle is passed over. -/
def skipNotDue (s : State) (o : Host.Outcome State Fault Refusal) : Host.Outcome State Fault Refusal :=
  match o with
  | .fault .eventNotDue => .next s
  | o => o

/-- ONE STEP. -/
def step (s : State) : Host.Outcome State Fault Refusal :=
  match s.fab.agenda with
  | [] => .next (State.commit s.mem (planCycle s.mem s.fab))
  | .fire l th slot :: r => runFetched (fetchFire s.fab l th slot) (s.begin r (.elem l th slot))
  | .issue l tile ct pos :: r => runFetched (fetchIssue s.fab l tile ct pos) (s.begin r (.ctl l tile ct pos))
  | .event i :: r => skipNotDue (s.begin r .none) (exec i (s.begin r .none))
  | .endCycle :: r => .next (State.commit s.mem (endCycle (s.begin r .none).fab))
  | .closeCycle :: r => .next (State.commit s.mem (closeCycle (s.begin r .none).fab))

/-- The state with one instruction's word placed where the next step fetches (log 8). -/
def State.withFetchWord (s : State) (nbits w : Nat) : State := { s with fab := placeWord nbits w s.fab }

end Sys2Proof.Machine
end

