-- ==== Sys2Proof/Machine/HostView.lean ====
section
/-!
DEFINITION. What software reads: the functions' BAR0 and the registers in it (R11, R12, R32, R130, R132, R167, R177, R185,
R186, R191, R193, R202, R205, R209, R211, R222 to R224, R228, R229, R231, R232, R238 to R240). A read changes nothing.
-/
namespace Sys2Proof.Machine

/-- The partition block (R130, R209, R211, R222, R223, R238, R239). -/
def partFields (p : Part) : List Field := [
  ⟨0x00, 4, p.remain⟩, ⟨0x04, 4, p.owed⟩, ⟨0x08, 4, p.muslin⟩, ⟨0x10, 8, p.fqBase⟩,
  ⟨0x18, 4, p.fqLog + 16 * b2n p.fqHen + 65536 * p.fqVec⟩, ⟨0x1C, 4, p.fqHead⟩, ⟨0x20, 4, p.fqTail⟩, ⟨0x24, 4, p.fqLost⟩,
  ⟨0x28, 4, 0⟩, ⟨0x30, 8, p.grant⟩, ⟨0x38, 8, p.acct⟩, ⟨0x40, 8, p.trcBase⟩, ⟨0x48, 4, p.trcLog + 65536 * p.trcPeriod⟩,
  ⟨0x4C, 4, p.trcTail + 65536 * p.trcLost⟩, ⟨0x60, 8, p.digBase⟩, ⟨0x68, 4, p.digLen + 65536 * p.digOver⟩]

/-- An interface block (R132, R186, R191, R202, R205, R228). -/
def ifaceFields (i : Iface) : List Field := [
  ⟨0x00, 8, i.lqBase⟩, ⟨0x08, 4, i.lqLog⟩, ⟨0x0C, 4, 0⟩, ⟨0x10, 4, i.lqAcc⟩, ⟨0x14, 4, i.prio + 16 * i.weight + 256 * i.slice⟩,
  ⟨0x18, 4, i.limit⟩, ⟨0x1C, 4, i.used⟩, ⟨0x20, 8, b2n i.rootEn + 32 * i.rootClass + 65536 * i.rootFrame⟩,
  ⟨0x28, 8, i.npage + 65536 * i.vpage + 2 ^ 63 * b2n i.busy⟩,
  ⟨0x30, 16, 65536 * i.peerBase + 2 ^ 64 * i.peerLen + 2 ^ 106 * i.peerDev⟩]

/-- The line-table entry `n` of a function (R224). -/
def lineEntry (f : Fabric) (vf n : Nat) : List Field :=
  match findLine f (vf * 64 + n) with
  | some x =>
    [⟨0x00, 2, n⟩, ⟨0x02, 1, x.pasid⟩, ⟨0x03, 1, x.state⟩, ⟨0x04, 4, x.tag⟩, ⟨0x08, 8, x.saveFrames.headD 0 * 65536⟩]
      ++ (List.range 6).map fun b => ⟨0x10 + b, 1, x.bolts.getD b 0xFF⟩
  | none => [⟨0x00, 2, 0xFFFF⟩]

/-- The line header (R185). -/
def headerFields (x : Line) : List Field :=
  [⟨0x00, 4, x.state⟩, ⟨0x04, 4, x.tag⟩, ⟨0x08, 2, x.id % 64⟩, ⟨0x0A, 2, x.bolts.length⟩]
    ++ (List.range 48).map fun b => ⟨0x10 + b, 1, x.bolts.getD b 0xFF⟩

/-- A byte of a line's status area (R185, R240). -/
def statusByte (f : Fabric) (x : Line) (o : Nat) : Byte :=
  if o < 0x40 then fieldByte (headerFields x) o
  else if o < 0x70 then fieldByte (bellowsFields x.bel) (o - 0x40)
  else if o < 0x80 then 0
  else if o < 0x100 then fieldByte (rangeFields (x.ranges.getD ((o - 0x80) / 16) RangeUnit.absent)) ((o - 0x80) % 16)
  else if o < 0x200 then
    match findVoter f x.id ((o - 0x100) / 8) with
    | some v => fieldByte (voterFields v) ((o - 0x100) % 8)
    | none => 0
  else if o < 0x1000 then 0
  else if o < 0x61000 then
    match findCnt f x.id ((o - 0x1000) / 512) ((o - 0x1000) % 512 / 32) with
    | some c => fieldByte (cntFields f c) ((o - 0x1000) % 32)
    | none => 0
  else match findTile f x.id ((o - 0x61000) / 160) with
    | some t => fieldByte (counterFields t) ((o - 0x61000) % 160)
    | none => 0

/-- The identification area (R231, R232). -/
def identFields : List Field :=
  [⟨0x00, 4, Config.deviceCode.toNat⟩, ⟨0x04, 4, Config.revision.toNat⟩,
    ⟨0x10, 32, ofBytes (exactly 32 (Config.shake256 32 Config.fingerprint))⟩, ⟨0x3C, 4, Config.capOffset 0⟩]
    ++ (Config.capabilities.zipIdx).flatMap fun x =>
      [⟨Config.capOffset x.2, 4, Config.capHeader x.2⟩, ⟨Config.capOffset x.2 + 4, 4, x.1.2⟩]

/-- THE BYTE a read of a virtual function's BAR0 returns (R223). -/
def barByte (f : Fabric) (vf o : Nat) : Byte :=
  if o < 0x1000 then fieldByte identFields o
  else if o < 0x2000 then fieldByte (partFields (getPart f vf)) (o - 0x1000)
  else if 0x10000 ≤ o && o < 0x50000 then fieldByte (ifaceFields (getIface f vf ((o - 0x10000) / 0x1000))) (o % 0x1000)
  else if 0x50000 ≤ o && o < 0x50800 then fieldByte (lineEntry f vf ((o - 0x50000) / 32)) (o % 32)
  else if 0x1000000 ≤ o && o < 0x3000000 then
    match findLine f (vf * 64 + (o - 0x1000000) / 0x80000) with
    | some x => statusByte f x (o % 0x80000)
    | none => 0
  else 0

/-- The Weft-link registers of the physical function's BAR0 (R229). -/
def weftFields (d : Module) : List Field :=
  ⟨0x40, 8, d.weftDev⟩ :: (d.weft.zipIdx.map fun x => ⟨0x100 + 8 * x.2, 8, x.1.1 % 2 + 2 * (x.1.2.1 % 4) + 2 ^ 32 * (x.1.2.2 % 2 ^ 22)⟩)

/-- A read of `n` bytes of a virtual function's BAR0. -/
def barRead (f : Fabric) (vf o n : Nat) : Nat := ofBytes ((List.range n).map fun i => barByte f vf (o + i))

end Sys2Proof.Machine
end

