-- ==== Sys2Proof/Safety.lean ====
section
/-!
DEFINITION. What counts as a safe step and as a good state, and the terms the statements use: a unit about to fire or issue,
the state a firing leaves, and what a word that writes a result leaves alone.
-/
namespace Sys2Proof.Machine

/-- Memory is in canonical form and no byte is left posted. -/
def State.good (s : State) : Prop := Memory.wf s.mem = true ∧ s.fab.posted = []

/-- A step that answers a next state. -/
def State.goesOn (s : State) : Prop := ∃ t, step s = .next t

/-- The byte a program reads at an address. -/
def State.byte (s : State) (a : Nat) : Byte := Memory.get s.mem a

/-! ## A unit about to run -/

/-- Slot `slot` of thread `th` of line `l` is current, `e` is its element, and the word `i` waits for nothing (R50, R51). -/
structure State.Fires (s : State) (l th slot : Nat) (e : Elem) (i : Instr) : Prop where
  cur : s.fab.cur = .elem l th slot
  found : findElem s.fab l th = some e
  ready : ready s.fab e i = true

/-- Controller `ct` of a line's tile is current at position `pos`, `c` is its record, and its command may issue (R180, R182). -/
structure State.Issues (s : State) (l tile ct pos : Nat) (c : Ctl) (cd : Cond) : Prop where
  cur : s.fab.cur = .ctl l tile ct pos
  found : findCtl s.fab l tile ct = some c
  may : mayIssue s.fab c pos cd = true

/-- The element with what the heads its firing uses release (R143). -/
def Elem.acquire (f : Fabric) (e : Elem) (slot : Nat) (i : Instr) : Elem :=
  { e with know := acquireHeads f e (firingInputs f e i ((vget e.slots slot).toNat / 67108864)) }

/-- The state after a firing whose effect is `f` (R50, R52, R236, R241). -/
def State.fired (s : State) (e : Elem) (slot : Nat) (i : Instr) (f : Fabric) : State :=
  State.commit s.mem (afterFire (e.acquire s.fab slot i) slot i s.fab f)

/-- The state after a firing that faults: a record, and the line stops (R64). -/
def State.faulted (s : State) (e : Elem) (slot : Nat) (i : Instr) (code detail : Nat) : State :=
  State.commit s.mem (elemFault (e.acquire s.fab slot i) slot code detail s.fab)

/-! ## What a firing leaves alone -/

/-- Two fabrics agree on every table but the elements, channels, stations, lines and tiles, and on the registers of the
partitions and interfaces. -/
structure Fabric.sameUnits (f g : Fabric) : Prop where
  cycle : g.cycle = f.cycle
  gens : g.gens = f.gens
  accs : g.accs = f.accs
  hist : g.hist = f.hist
  learnt : g.learnt = f.learnt
  copies : g.copies = f.copies
  hqs : g.hqs = f.hqs
  cnts : g.cnts = f.cnts
  acks : g.acks = f.acks
  mx : g.mx = f.mx
  voters : g.voters = f.voters
  ctls : g.ctls = f.ctls
  cmds : g.cmds = f.cmds
  regions : g.regions = f.regions
  groups : g.groups = f.groups
  freed : g.freed = f.freed
  parts : g.parts = f.parts
  ifaces : g.ifaces = f.ifaces
  launches : g.launches = f.launches
  requests : g.requests = f.requests
  resizes : g.resizes = f.resizes
  images : g.images = f.images
  recs : g.recs = f.recs
  newRecs : g.newRecs = f.newRecs
  charges : g.charges = f.charges
  msix : g.msix = f.msix
  errs : g.errs = f.errs
  met : g.met = f.met
  counted : g.counted = f.counted
  poison : g.poison = f.poison
  wpoison : g.wpoison = f.wpoison
  layouts : g.layouts = f.layouts
  scrub : g.scrub = f.scrub
  spEntry : g.spEntry = f.spEntry
  links : g.links = f.links
  sent : g.sent = f.sent
  answers : g.answers = f.answers
  freeCtr : g.freeCtr = f.freeCtr
  module_ : g.module_ = f.module_

/-- A line with its bookkeeping of whether anything has moved put aside. -/
def Line.still (x : Line) : Line := { x with moved := false }

/-- A tile with the events of the running cycle put aside. -/
def Tile.quietNow (x : Tile) : Tile := { x with now := [] }

/-- A firing of thread `th` of line `l` has left every other element, every line but for its bookkeeping, every tile but for
this cycle's events, and every byte of memory. -/
structure State.Beside (s t : State) (l th : Nat) : Prop where
  mem : t.mem = s.mem
  elems : ∀ l' th', ¬(l' = l ∧ th' = th) → findElem t.fab l' th' = findElem s.fab l' th'
  lines : t.fab.lines.map Line.still = s.fab.lines.map Line.still
  tiles : t.fab.tiles.map Tile.quietNow = s.fab.tiles.map Tile.quietNow

/-- As `Beside`, where other elements of the line may have learnt of more accesses that they come after (R151). -/
structure State.BesideLearn (s t : State) (l th : Nat) : Prop where
  mem : t.mem = s.mem
  elems : ∀ l' th', ¬(l' = l ∧ th' = th) → ∀ x, findElem s.fab l' th' = some x →
    ∃ k, findElem t.fab l' th' = some { x with know := k } ∧ (∀ i ∈ x.know, i ∈ k) ∧ (l' ≠ l → k = x.know)
  gone : ∀ l' th', findElem s.fab l' th' = none → findElem t.fab l' th' = none
  lines : t.fab.lines.map Line.still = s.fab.lines.map Line.still
  tiles : t.fab.tiles.map Tile.quietNow = s.fab.tiles.map Tile.quietNow

/-- The frame of a word that changes its own element, a channel or a station: besides, every other table stands. -/
structure State.FrameBut (s t : State) (l th : Nat) : Prop where
  beside : State.Beside s t l th
  units : Fabric.sameUnits s.fab t.fab

/-- The element after a word that wrote `r` as its result: `lat` and a register destination hold it, and every other
register, predicate and setting is as it was; the rotate pointer and the firing's bookkeeping are new (R52, R57). -/
structure Elem.Wrote (e e' : Elem) (slot : Nat) (d : Dst) (r : Reg) : Prop where
  lat : e'.lat = r
  o : ∀ n, n < 8 → vget e'.o n = if d = .o n then r else vget e.o n
  rest : e' = { e with
    lat := e'.lat, o := e'.o, rotPtr := slot % 32, know := e'.know, arrivals := e'.arrivals, lastFire := e'.lastFire,
    loads := e'.loads, redo := none }

/-- Where a result goes besides `lat` and a register: behind what a channel has staged, or into the outbox (R44, R57, R370).
No other channel and no other station changes; with a register destination none does. -/
def State.ResultSent (s t : State) (e : Elem) (slot : Nat) (d : Dst) (r : Reg) : Prop :=
  match d with
  | .c h =>
    match vget e.h h with
    | .chan cl n =>
      (∀ c, findChan s.fab cl n = some c → c.pend = none →
        ∃ c' tok, findChan t.fab cl n = some c' ∧ c' = { c with staged := c.staged ++ [⟨tok, none, false⟩] }
          ∧ tok.payload = r.v ∧ tok.poison = r.poison ∧ tok.tag = 0 ∧ tok.node = nodeOf e slot ∧ tok.seq = seqOf s.fab e)
        ∧ (∀ cl' n', ¬(cl' = cl ∧ n' = n) → findChan t.fab cl' n' = findChan s.fab cl' n') ∧ t.fab.stations = s.fab.stations
    | .outbox =>
      (∃ tok, tok.payload = r.v ∧ tok.poison = r.poison ∧ tok.tag = 0
        ∧ findStation t.fab e.line e.station = (findStation s.fab e.line e.station).map (putOutbox tok))
        ∧ (∀ l' n', ¬(l' = e.line ∧ n' = e.station) → findStation t.fab l' n' = findStation s.fab l' n')
        ∧ t.fab.chans = s.fab.chans
    | _ => t.fab.chans = s.fab.chans ∧ t.fab.stations = s.fab.stations
  | _ => t.fab.chans = s.fab.chans ∧ t.fab.stations = s.fab.stations

/-- A WORD WROTE A RESULT and nothing else: R57, with its frame. -/
structure State.Result (s t : State) (l th slot : Nat) (e : Elem) (d : Dst) (r : Reg) : Prop where
  elem : ∃ e', findElem t.fab l th = some e' ∧ Elem.Wrote e e' slot d r
  sent : State.ResultSent s t e slot d r
  frame : State.FrameBut s t l th

/-- The word `i` completes: on every good state in which it may fire it answers a next state whose result in `d` is a
value that `val` admits, and nothing else has changed. -/
def Completes (i : Instr) (d : Dst) (val : Fabric → Elem → Reg → Prop) : Prop :=
  ∀ s l th slot e, i.wf = true → s.good → s.Fires l th slot e i →
    ∃ t r, exec i s = .next t ∧ val s.fab e r ∧ State.Result s t l th slot e d r

/-- The element after a word that has no result: `e'` but for the rotate pointer and the firing's bookkeeping (R52). -/
def Elem.Became (e' x : Elem) (slot : Nat) : Prop :=
  x = { e' with rotPtr := slot % 32, know := x.know, arrivals := x.arrivals, lastFire := x.lastFire, redo := none }

/-- The firing element is now `e'`, but for its bookkeeping. -/
def State.ElemIs (t : State) (l th slot : Nat) (e' : Elem) : Prop := ∃ x, findElem t.fab l th = some x ∧ Elem.Became e' x slot

/-- The word `i` completes and changes its own element only, to `eff`, and no channel, station or byte of memory. -/
def ChangesElem (i : Instr) (eff : Fabric → Elem → Elem) : Prop :=
  ∀ s l th slot e, i.wf = true → s.good → s.Fires l th slot e i →
    ∃ t, exec i s = .next t ∧ t.ElemIs l th slot (eff s.fab e) ∧ State.FrameBut s t l th
      ∧ t.fab.chans = s.fab.chans ∧ t.fab.stations = s.fab.stations

/-- The word `i` completes and changes predicate `p` of its element only, to a value that `val` admits. -/
def WritesPred (i : Instr) (p : Nat) (val : Fabric → Elem → Bool → Prop) : Prop :=
  ∀ s l th slot e, i.wf = true → s.good → s.Fires l th slot e i →
    ∃ t x v, exec i s = .next t ∧ val s.fab e v ∧ (∀ k, k < 7 → x.getLsbD k = if k = p then v else e.preds.getLsbD k)
      ∧ t.ElemIs l th slot { e with preds := x } ∧ State.FrameBut s t l th
      ∧ t.fab.chans = s.fab.chans ∧ t.fab.stations = s.fab.stations

/-- A FIRING HAS FAULTED with `code` and `detail` (R64, R206, R208): one record joins those of the cycle, the line stops at the
cycle's end, the element has no firing left to execute again, and nothing else has changed: no register, no channel, no byte of
memory. -/
structure State.FaultTaken (s t : State) (l slot : Nat) (e : Elem) (code detail : Nat) : Prop where
  record : ∃ r, t.fab.newRecs = s.fab.newRecs ++ [r] ∧ r.code = code ∧ r.detail = detail ∧ r.resumable = true ∧ r.halted = true
    ∧ r.line = l ∧ r.bolt = e.thread / 256 ∧ r.tile = e.thread / 16 % 16 ∧ r.elem = e.thread % 16 ∧ r.slot = slot
    ∧ r.node = nodeOf e slot ∧ r.seq = recSeq s.fab e
  stop : ∀ x, findLine s.fab l = some x → findLine t.fab l = some { x with stopSoon := some (x.stopSoon.getD code) }
  lines : ∀ l', l' ≠ l → findLine t.fab l' = findLine s.fab l'
  rest : t.fab = { updElem l e.thread (fun x => { x with redo := none }) s.fab with newRecs := t.fab.newRecs, lines := t.fab.lines }
  mem : t.mem = s.mem

/-- `i` answers a next state with the property `P`. -/
def Answers (i : Instr) (s : State) (P : State → Prop) : Prop := ∃ t, exec i s = .next t ∧ P t

/-- No channel changes but those of a list. -/
def State.ChansBut (s t : State) (ks : List (Nat × Nat)) : Prop :=
  ∀ l n, (l, n) ∉ ks → findChan t.fab l n = findChan s.fab l n

/-- A channel has committed the tokens `ts` behind what it held: to its slots, or to its swage node where it converts, each to
be seen after the channel's delay (R46, R104). What a token releases may grow by what its commit releases (R143). -/
def Chan.Took (c c' : Chan) (cycle : Nat) (ts : List Token) : Prop :=
  ∃ xs : List Slot,
    xs.map (fun x => ({ x.tok with rel := [] }, x.seen)) = ts.map (fun t => ({ t with rel := [] }, cycle + c.delay))
      ∧ c'.q = (if c.conv = 0 then c.q ++ xs else c.q) ∧ c'.raw = (if c.conv = 0 then c.raw else c.raw ++ xs)

/-- A channel to which a word may commit with no mark pending, not closed, and with no staged value awaited. -/
def Chan.plain (c : Chan) : Prop := c.closed = false ∧ c.pend = none ∧ ∀ x ∈ c.staged, x.await = none

/-- What one channel of a state became, where it was there. -/
def State.ChanBecame (s t : State) (l n : Nat) (P : Chan → Chan → Prop) : Prop :=
  ∀ c, findChan s.fab l n = some c → ∃ c', findChan t.fab l n = some c' ∧ P c c'

/-- The registers, constants, handles, windows and settings of an element stand. -/
def Elem.sameRegs (e x : Elem) : Prop :=
  x.lat = e.lat ∧ x.o = e.o ∧ x.m = e.m ∧ x.k = e.k ∧ x.preds = e.preds ∧ x.h = e.h ∧ x.w = e.w ∧ x.slots = e.slots
    ∧ x.guards = e.guards ∧ x.ifmt = e.ifmt ∧ x.ffmt = e.ffmt ∧ x.rnd = e.rnd ∧ x.sat = e.sat ∧ x.rot = e.rot

/-- A word whose result comes later has been sent (R50, R317, R318): its element's registers stand, `d` and `lat` await the answer
`id`, and a channel destination has a slot staged that awaits it. -/
def State.Awaits (s t : State) (l th slot : Nat) (e : Elem) (d : Dst) (id : Nat) : Prop :=
  (∃ x, findElem t.fab l th = some x ∧ Elem.sameRegs e x ∧ x.awaits = ⟨id, d, false⟩ :: e.awaits ∧ x.rotPtr = slot % 32)
    ∧ match d with
      | .c h => ∀ cl n, vget e.h h = .chan cl n → State.ChansBut s t [(cl, n)]
          ∧ State.ChanBecame s t cl n fun c c' => c.pend = none → ∃ tok, c' = { c with staged := c.staged ++ [⟨tok, some id, false⟩] }
      | _ => t.fab.chans = s.fab.chans

/-! ## Elements of lanes -/

/-- A property of every element of width `w` of every lane (R90, R257). -/
def EachElem (w : Nat) (P : Nat → Nat → Prop) : Prop := ∀ l n, l < 8 → n < 32 / w → P l n

/-- `r` is the governed result of `v` (R91): with SAT = 1 the nearest value of the signed range, else the value of the signed
range that is `v` modulo `2 ^ w`. -/
def Governed (sat : Bool) (w : Nat) (v r : Int) : Prop :=
  if sat then r = max (-(2 ^ (w - 1))) (min v (2 ^ (w - 1) - 1))
  else -(2 ^ (w - 1)) ≤ r ∧ r < 2 ^ (w - 1) ∧ r % 2 ^ w = v % 2 ^ w

/-- An integer word of two sources whose elements are related as signed numbers by `P`; its poison is either's. -/
def SignedWord (i : Instr) (d : Dst) (a b : Src) (P : Bool → Nat → Int → Int → Int → Prop) : Prop :=
  Completes i d fun f e r =>
    r.poison = ((readSrc f e .int a).poison || (readSrc f e .int b).poison)
      ∧ EachElem (intWidth e.ifmt) fun l n => P e.sat (intWidth e.ifmt)
          (elemS ((readSrc f e .int a).v.get l) n (intWidth e.ifmt)) (elemS ((readSrc f e .int b).v.get l) n (intWidth e.ifmt))
          (elemS (r.v.get l) n (intWidth e.ifmt))

/-- The same on unsigned patterns. -/
def PatternWord (i : Instr) (d : Dst) (a b : Src) (P : Nat → Nat → Nat → Nat → Prop) : Prop :=
  Completes i d fun f e r =>
    r.poison = ((readSrc f e .int a).poison || (readSrc f e .int b).poison)
      ∧ EachElem (intWidth e.ifmt) fun l n => P (intWidth e.ifmt)
          (elemU ((readSrc f e .int a).v.get l) n (intWidth e.ifmt)) (elemU ((readSrc f e .int b).v.get l) n (intWidth e.ifmt))
          (elemU (r.v.get l) n (intWidth e.ifmt))

/-- A word of two sources whose lanes are related by `P` (R257: bitwise words do not depend on the width). -/
def LaneWord (i : Instr) (d : Dst) (a b : Src) (P : Word → Word → Word → Prop) : Prop :=
  Completes i d fun f e r =>
    r.poison = ((readSrc f e .int a).poison || (readSrc f e .int b).poison)
      ∧ ∀ l, l < 8 → P ((readSrc f e .int a).v.get l) ((readSrc f e .int b).v.get l) (r.v.get l)

/-- A float word of two sources: `P` relates the format, the rounding mode, the operands' patterns and the result's (R290). -/
def FloatWord (i : Instr) (d : Dst) (a b : Src) (P : Fmt → Nat → Nat → Nat → Nat → Prop) : Prop :=
  Completes i d fun f e r =>
    r.poison = ((readSrc f e .float a).poison || (readSrc f e .float b).poison)
      ∧ EachElem (floatFmt e.ffmt).width fun l n => P (floatFmt e.ffmt) e.rnd
          (elemU ((readSrc f e .float a).v.get l) n (floatFmt e.ffmt).width)
          (elemU ((readSrc f e .float b).v.get l) n (floatFmt e.ffmt).width)
          (elemU (r.v.get l) n (floatFmt e.ffmt).width)

/-! ## Commands and events -/

/-- A command that may issue has issued: the controller's other fields stand, and it has gone on to position `next`; a stream controller stays (R180). -/
def Ctl.wentOn (c x : Ctl) (next : Nat) : Prop :=
  c.mode ≠ 2 → x.pos = next ∧ x.started = c.started ∧ x.table = c.table ∧ x.mode = c.mode

/-- A COMMAND HAS ISSUED and its controller goes on to `next` (R180): no element, channel, station, region or group and no
byte of memory has changed. -/
structure State.Issued (s t : State) (l tile ct : Nat) (c : Ctl) (next : Nat) : Prop where
  ctl : ∃ x, findCtl t.fab l tile ct = some x ∧ Ctl.wentOn c x next
  elems : t.fab.elems = s.fab.elems
  chans : t.fab.chans = s.fab.chans
  stations : t.fab.stations = s.fab.stations
  regions : t.fab.regions = s.fab.regions
  groups : t.fab.groups = s.fab.groups
  mem : t.mem = s.mem

/-- The command `i` completes its issue: on every good state in which its controller may issue it, and whose state meets the
command's own condition `may`, it answers a next state in which the controller has gone on and `eff` holds. -/
def Goes (i : Instr) (cd : Cond) (may : State → Ctl → Prop) (next : Nat → Ctl → Nat) (eff : State → State → Nat → Ctl → Prop) : Prop :=
  ∀ s l tile ct pos c, s.good → s.Issues l tile ct pos c cd → may s c →
    ∃ u, exec i s = .next u ∧ State.Issued s u l tile ct c (next pos c) ∧ eff s u pos c

/-- The issued command is outstanding under the number it was given (R181). Numbers are the model's: that none of the outstanding
commands has the next number holds in every run. -/
def State.Outstanding (s u : State) (c : Ctl) (pos kind arg val : Nat) (placed : List (Nat × Nat) := []) : Prop :=
  (∀ y ∈ s.fab.cmds, y.id ≠ s.fab.nextId) → ⟨s.fab.nextId, c.line, c.tile, c.num, pos, kind, arg, val, placed⟩ ∈ u.fab.cmds

/-- The issued command completed as it issued: it leaves nothing outstanding (R181). -/
def State.CompletedAtIssue (s u : State) : Prop := ∀ y ∈ u.fab.cmds, y ∈ s.fab.cmds

/-- The launch-argument slot that an issuing command reads, its step condition taken. -/
def State.slot (s : State) (c : Ctl) (cd : Cond) (j : Nat) : Lanes := (argOf s.mem c j (takeCond c cd (fresh s.fab).2)).1

/-- The slot can be read. -/
def State.slotReady (s : State) (c : Ctl) (j : Nat) : Prop := argReady j s.mem s.fab c = true

/-- What the record of one controller, generator, queue or line became, where it was there. -/
def State.CtlBecame (s u : State) (l tile n : Nat) (P : Ctl → Ctl → Prop) : Prop :=
  ∀ c, findCtl s.fab l tile n = some c → ∃ x, findCtl u.fab l tile n = some x ∧ P c x
def State.GenBecame (s u : State) (l tile n : Nat) (P : AGen → AGen → Prop) : Prop :=
  ∀ c, findGen s.fab l tile n = some c → ∃ x, findGen u.fab l tile n = some x ∧ P c x
def State.HqBecame (s u : State) (l tile n : Nat) (P : HwQ → HwQ → Prop) : Prop :=
  ∀ c, findHq s.fab l tile n = some c → ∃ x, findHq u.fab l tile n = some x ∧ P c x
def State.LineBecame (s u : State) (l : Nat) (P : Line → Line → Prop) : Prop :=
  ∀ c, findLine s.fab l = some c → ∃ x, findLine u.fab l = some x ∧ P c x

/-- THE EVENT HAPPENS: in every good state in which it is due it answers a next state, and `P` holds of it. -/
def Happens (i : Instr) (due : Memory → Fabric → Bool) (P : State → State → Prop) : Prop :=
  ∀ s, s.good → due s.mem s.fab = true → ∃ u, exec i s = .next u ∧ P s u

/-- Memory holds no error and no poison, and no frame waits to be zeroed. -/
def State.calm (s : State) : Prop := s.fab.errs = [] ∧ s.fab.poison = [] ∧ s.fab.wpoison = [] ∧ s.fab.scrub = []

/-- A reader of line `l` that comes after `know` and before `late` can be given one value of each word only (R142): its latest write's. -/
def State.settled (s : State) (l : Nat) (know : List Nat) (late : List Nat := []) : Prop :=
  ∀ a, candidates s.fab l know late a = (s.fab.hist.find? fun h => h.word == a).toList

/-- The 32-bit word at an address, little-endian (R9). -/
def State.word (s : State) (a : Nat) : Word := s.byte (a + 3) ++ s.byte (a + 2) ++ s.byte (a + 1) ++ s.byte a

/-- The bytes of the runs of a word of an access, in order, and the word they make. -/
def State.runBytes (s : State) (rs : List Run) : List Byte := rs.flatMap fun r => (List.range r.len).map fun j => s.byte (r.phys + j)
def State.runWord (s : State) (rs : List Run) : Word := BitVec.ofNat 32 (ofBytes (s.runBytes rs))

/-- The runs of a word hold its four bytes, each run in one aligned word, and no frame they lie in is laid over by another (R124). -/
def State.sound (s : State) (rs : List Run) : Prop :=
  (rs.map Run.len).sum = 4 ∧ ∀ r ∈ rs, r.phys % 4 = r.va % 4 ∧ foreign s.fab r.cls r.phys = false

/-- Two runs touch no byte together. -/
def Run.apart (x y : Run) : Prop := x.phys + x.len ≤ y.phys ∨ y.phys + y.len ≤ x.phys

/-- No byte has changed but those of `n` bytes at `a`. -/
def State.memBut (s u : State) (a n : Nat) : Prop := ∀ b, (b < a ∨ a + n ≤ b) → u.byte b = s.byte b

/-- The `n` bytes at virtual address `va` of a line whose interface translates (R202) lie in one page of one unplaned slice region
of class `c`, at `phys`. -/
def State.inSlice (s : State) (l va n c phys : Nat) : Prop :=
  ∃ x r, findLine s.fab l = some x ∧ (getIface s.fab x.vf x.pasid).rootEn = true ∧ r.slice = true ∧ r.planes = 0 ∧ r.cls = c
    ∧ (∀ i, i < n → regionAt s.fab l (va + i) = some r) ∧ va % 65536 + n ≤ 65536 ∧ va + n ≤ 2 ^ 55
    ∧ phys = sliceAddr s.fab l r.tile (r.base + (va - regionArea - r.at_)) ∧ ∀ i, i < n → spaceOf (phys + i) = 1

/-- The answer `id` has come to thread `th` of line `l`, with the value `r`: where a register awaited it, the register and `lat` hold
it and nothing awaits it longer (R317, R318). -/
def State.Answered (s u : State) (l th id : Nat) (r : Reg) : Prop :=
  ∀ e aw, findElem s.fab l th = some e → e.awaits.find? (fun a => a.id == id) = some aw → aw.drop = false → (∀ h, aw.d ≠ .c h) →
    ∃ x, findElem u.fab l th = some x ∧ x.lat = r ∧ (∀ n, n < 8 → vget x.o n = if aw.d = .o n then r else vget e.o n)
      ∧ x.awaits = e.awaits.filter fun a => a.id != id

/-- One record has joined those of the cycle. -/
def State.OneRec (s u : State) (P : Rec → Prop) : Prop := ∃ r, u.fab.newRecs = s.fab.newRecs ++ [r] ∧ P r

/-- The `n`-byte little-endian field at an offset of a record (R9). -/
def fieldOf (bs : List Byte) (o n : Nat) : Nat := ((List.range n).map fun i => (bs.getD (o + i) 0).toNat * 256 ^ i).sum

/-- A finite value in units of `2 ^ lo`, for an exponent not below `lo`. -/
def FV.unitsOf (lo : Int) : FV → Int
  | .fin s m e => (if s then -1 else 1) * ((m * 2 ^ (e - lo).toNat : Nat) : Int)
  | _ => 0

/-- `r` is the exact sum of the terms, by R110's rules for NaN, infinities and zeros. -/
def FV.ExactSum (l : List FV) (r : FV) : Prop :=
  (FV.nan ∈ l ∨ FV.inf true ∈ l ∧ FV.inf false ∈ l → r = .nan)
  ∧ (∀ s, FV.nan ∉ l → FV.inf s ∈ l → FV.inf (!s) ∉ l → r = .inf s)
  ∧ ((∀ x ∈ l, ∃ s m e, x = FV.fin s m e) → ∃ s m e, r = .fin s m e ∧ (m = 0 → s = false)
      ∧ ∀ lo, lo ≤ e → (∀ x ∈ l, ∀ s m e, x = FV.fin s m e → lo ≤ e) → r.unitsOf lo = (l.map (FV.unitsOf lo)).sum)

/-- Two contributors or more have stored to a word of a fault-rule region in a step (R122). -/
def Region.clashes (r : Region) (step w : Nat) : Prop :=
  r.collide = 0 ∧ 2 ≤ (r.contribs.filter fun c => c.step == step && c.word == w).length

/-- `w` is the lowest word that clashes, and `c` its lowest-numbered contribution (R122). -/
def Region.firstClash (r : Region) (step w : Nat) (c : Contrib) : Prop :=
  r.clashes step w ∧ (∀ v, v < w → ¬r.clashes step v) ∧ c ∈ r.contribs ∧ c.step = step ∧ c.word = w
    ∧ ∀ d ∈ r.contribs, d.step = step → d.word = w → c.who ≤ d.who

/-- A PLANE_COLLIDE record of a line gives the offset of a word, and the unit whose store is the contribution: an element, a copy channel
or a matrix task (R122). -/
def Rec.tellsClash (q : Rec) (l w : Nat) (c : Contrib) : Prop :=
  q.code = 8 ∧ q.line = l ∧ q.resumable = true ∧ q.halted = true ∧ q.addr = 4 * w
    ∧ (c.who < 16384 → q.kind = 0 ∧ q.bolt = c.who / 256 ∧ q.tile = c.who / 16 % 16 ∧ q.elem = c.who % 16 ∧ q.slot = c.slot
        ∧ q.node = c.node ∧ q.seq = c.seq)
    ∧ (16384 ≤ c.who → c.who < 24576 → q.kind = 2 ∧ q.bolt = (c.who - 16384) / 32 ∧ q.tile = (c.who - 16384) / 2 % 16
        ∧ q.unit = c.who % 2 ∧ q.elem = 0xFF ∧ q.slot = 0xFF ∧ q.mask = 0xFF ∧ q.node = 0xFFF ∧ q.seq = 0)
    ∧ (24576 ≤ c.who → q.kind = 3 ∧ q.bolt = (c.who - 24576) / 16 ∧ q.tile = (c.who - 24576) % 16 ∧ q.elem = 0xFF ∧ q.slot = 0xFF
        ∧ q.node = c.node ∧ q.seq = c.seq)

/-- No word clashes in a group's steps up to the running one. -/
def State.clean (s : State) (g : Group) : Prop := ∀ r ∈ boundRegions s.fab g, ∀ st w, st ≤ g.step → ¬r.clashes st w

/-- THE SWAP OF A GROUP IS HELD BY A COLLISION (R122): one PLANE_COLLIDE record, which tells a lowest clashing word, and the line stops at the
cycle's end. -/
def State.SwapHeld (s u : State) (g : Group) : Prop :=
  (∃ q r st w c, u.fab.newRecs = s.fab.newRecs ++ [q] ∧ r ∈ boundRegions s.fab g ∧ st ≤ g.step ∧ r.firstClash st w c ∧ q.tellsClash g.line w c)
    ∧ State.LineBecame s u g.line fun x y => y.stopSoon = some (x.stopSoon.getD 8)

/-- What other records became, where they were there. -/
def State.ElemBecame (s u : State) (l th : Nat) (P : Elem → Elem → Prop) : Prop :=
  ∀ c, findElem s.fab l th = some c → ∃ x, findElem u.fab l th = some x ∧ P c x
def State.StationBecame (s u : State) (l n : Nat) (P : Station → Station → Prop) : Prop :=
  ∀ c, findStation s.fab l n = some c → ∃ x, findStation u.fab l n = some x ∧ P c x
def State.TileBecame (s u : State) (l n : Nat) (P : Tile → Tile → Prop) : Prop :=
  ∀ c, findTile s.fab l n = some c → ∃ x, findTile u.fab l n = some x ∧ P c x
/-- A token has come behind what the link registers of a tile held, at a port and from a generator (R253). -/
def State.LinkGot (s u : State) (l tile port g : Nat) (t : Token) : Prop :=
  State.TileBecame s u l tile fun a b => b.links = a.links ++ [⟨port, g, t⟩]
def State.CopyBecame (s u : State) (l tile n : Nat) (P : CopyCh → CopyCh → Prop) : Prop :=
  ∀ c, findCopy s.fab l tile n = some c → ∃ x, findCopy u.fab l tile n = some x ∧ P c x
def State.CntBecame (s u : State) (l tile n : Nat) (P : Cnt → Cnt → Prop) : Prop :=
  ∀ c, findCnt s.fab l tile n = some c → ∃ x, findCnt u.fab l tile n = some x ∧ P c x
def State.VoterBecame (s u : State) (l n : Nat) (P : Voter → Voter → Prop) : Prop :=
  ∀ c, findVoter s.fab l n = some c → ∃ x, findVoter u.fab l n = some x ∧ P c x

end Sys2Proof.Machine
end

