-- ==== Sys2Proof/Certificates/Slice0/Obligations.lean ====
section
/-!
DEFINITION. The statements for the provers, from the numbered rules of the specification.
-/
open Sys2Proof Sys2Proof.Machine

/-! ## Results of integer words -/

/-- R91, R257 to R260, R363: ADD, SUB, MUL, MAD, ADDI and ABS give in every element the governed exact result: clamped with
SAT = 1, else taken modulo 2^w. MAD adds the old d; ADDI's constant is its low 8 bits signed in INT8, else its 12 bits signed.
Each completes in every state in which it may fire, with nothing else changed. -/
def Rule.IntegerSums : Prop :=
  ∀ (t : Nat) (d : Dst) (a b : Src) (c : Nat),
    SignedWord (.add t d a b) d a b (fun sat w x y r => Governed sat w (x + y) r)
    ∧ SignedWord (.sub t d a b) d a b (fun sat w x y r => Governed sat w (x - y) r)
    ∧ SignedWord (.mul t d a b) d a b (fun sat w x y r => Governed sat w (x * y) r)
    ∧ SignedWord (.abs t d a) d a a (fun sat w x _ r => Governed sat w x.natAbs r)
    ∧ Completes (.addi t d c) d (fun _ e r =>
        r.poison = (readDst e d).poison ∧ EachElem (intWidth e.ifmt) fun l n =>
          Governed e.sat (intWidth e.ifmt)
            (elemS ((readDst e d).v.get l) n (intWidth e.ifmt)
              + (if intWidth e.ifmt = 8 then ((BitVec.ofNat 8 c).toInt) else (BitVec.ofNat 12 c).toInt))
            (elemS (r.v.get l) n (intWidth e.ifmt)))
    ∧ Completes (.mad t d a b) d (fun f e r =>
        r.poison = ((readSrc f e .int a).poison || (readSrc f e .int b).poison || (readDst e d).poison)
          ∧ EachElem (intWidth e.ifmt) fun l n =>
            Governed e.sat (intWidth e.ifmt)
              (elemS ((readSrc f e .int a).v.get l) n (intWidth e.ifmt) * elemS ((readSrc f e .int b).v.get l) n (intWidth e.ifmt)
                + elemS ((readDst e d).v.get l) n (intWidth e.ifmt))
              (elemS (r.v.get l) n (intWidth e.ifmt)))

/-- R334: MULH gives the floor of the signed product over 2^w, MULHU the high half of the unsigned product. -/
def Rule.HighProducts : Prop :=
  ∀ (t : Nat) (d : Dst) (a b : Src),
    SignedWord (.mulh t d a b) d a b (fun _ w x y r => r = x * y / 2 ^ w)
    ∧ PatternWord (.mulhu t d a b) d a b (fun w x y r => r = x * y / 2 ^ w)

/-- R263, R275, R339, R367: AND, OR, XOR, ANDN and BSEL act bitwise on whole lanes, whatever the lane format; BSEL takes A where
the old lat has a one and B where it has a zero, and its poison is that of all three. -/
def Rule.BitwiseWords : Prop :=
  ∀ (t : Nat) (d : Dst) (a b : Src),
    LaneWord (.and t d a b) d a b (fun x y r => r = x &&& y)
    ∧ LaneWord (.or t d a b) d a b (fun x y r => r = x ||| y)
    ∧ LaneWord (.xor t d a b) d a b (fun x y r => r = x ^^^ y)
    ∧ LaneWord (.andn t d a b) d a b (fun x y r => r = x &&& ~~~ y)
    ∧ Completes (.bsel t d a b) d (fun f e r =>
        r.poison = ((readSrc f e .int a).poison || (readSrc f e .int b).poison || e.lat.poison)
          ∧ ∀ l i, l < 8 → i < 32 → (r.v.get l).getLsbD i
              = if (e.lat.v.get l).getLsbD i then ((readSrc f e .int a).v.get l).getLsbD i
                else ((readSrc f e .int b).v.get l).getLsbD i)

/-- R350, R353, R357: the shifts by an unsigned count and the rotation by the count modulo w; a count of w or more gives 0, or −1
for SRA of a negative element. -/
def Rule.Shifts : Prop :=
  ∀ (t : Nat) (d : Dst) (a b : Src),
    PatternWord (.shl t d a b) d a b (fun w x c r => ∀ i, i < w → r.testBit i = (decide (c ≤ i) && x.testBit (i - c)))
    ∧ PatternWord (.shr t d a b) d a b (fun w x c r => ∀ i, i < w → r.testBit i = (decide (i + c < w) && x.testBit (i + c)))
    ∧ PatternWord (.rot t d a b) d a b (fun w x c r => ∀ i, i < w → r.testBit ((i + c) % w) = x.testBit i)
    ∧ Completes (.sra t d a b) d (fun f e r =>
        r.poison = ((readSrc f e .int a).poison || (readSrc f e .int b).poison) ∧ EachElem (intWidth e.ifmt) fun l n =>
          elemS (r.v.get l) n (intWidth e.ifmt)
            = elemS ((readSrc f e .int a).v.get l) n (intWidth e.ifmt) / 2 ^ elemU ((readSrc f e .int b).v.get l) n (intWidth e.ifmt))

/-- R329, R332: MIN and MAX of signed elements, MINU and MAXU of unsigned ones. -/
def Rule.MinimaMaxima : Prop :=
  ∀ (t : Nat) (d : Dst) (a b : Src),
    SignedWord (.min t d a b) d a b (fun _ _ x y r => r = min x y)
    ∧ SignedWord (.max t d a b) d a b (fun _ _ x y r => r = max x y)
    ∧ PatternWord (.minu t d a b) d a b (fun _ x y r => r = min x y)
    ∧ PatternWord (.maxu t d a b) d a b (fun _ x y r => r = max x y)

/-- R278, R344: CLZ counts the zeros above the highest one bit, w for zero; POPC counts the one bits. -/
def Rule.BitCounts : Prop :=
  ∀ (t : Nat) (d : Dst) (a : Src),
    PatternWord (.clz t d a) d a a (fun w x _ r => if x = 0 then r = w else r < w ∧ 2 ^ (w - 1 - r) ≤ x ∧ x < 2 ^ (w - r))
    ∧ PatternWord (.popc t d a) d a a (fun w x _ r => r = (List.range w).countP fun i => x.testBit i)

/-- R272: BFX takes the field that B names right-justified, zero above it; BFI puts A's low bits into that field of the old d.
B's low log2 w bits are the position, the next log2 w bits the length less one, cut at the element's end. -/
def Obligations.BitFields : Prop :=
  ∀ (t : Nat) (d : Dst) (a b : Src),
    PatternWord (.bfx t d a b) d a b (fun w x b r =>
      ∀ i, i < w → r.testBit i = (decide (i < min (b / w % w + 1) (w - b % w)) && x.testBit (b % w + i)))
    ∧ Completes (.bfi t d a b) d (fun f e r =>
        r.poison = ((readSrc f e .int a).poison || (readSrc f e .int b).poison || (readDst e d).poison)
          ∧ EachElem (intWidth e.ifmt) fun l n =>
            let w := intWidth e.ifmt
            let c := elemU ((readSrc f e .int b).v.get l) n w
            let p := c % w
            let k := min (c / w % w + 1) (w - p)
            ∀ i, i < w → (elemU (r.v.get l) n w).testBit i
              = if p ≤ i ∧ i < p + k then (elemU ((readSrc f e .int a).v.get l) n w).testBit (i - p)
                else (elemU ((readDst e d).v.get l) n w).testBit i)

/-- R279, R292: CMP and FCMP give all ones in an element where the condition holds and zero where it does not. CMP's variants are
equal, not equal, signed less, signed not less, unsigned less, unsigned not less. -/
def Rule.CompareMasks : Prop :=
  ∀ (t v : Nat) (d : Dst) (a b : Src),
    PatternWord (.cmp t v d a b) d a b (fun w x y r =>
      let c : Prop := match v with
        | 0 => x = y
        | 1 => x ≠ y
        | 2 => toS w x < toS w y
        | 3 => toS w y ≤ toS w x
        | 4 => x < y
        | _ => y ≤ x
      (c → r = 2 ^ w - 1) ∧ (¬c → r = 0))
    ∧ FloatWord (.fcmp t v d a b) d a b (fun m _ x y r =>
      let nan : Prop := fval m x = .nan ∨ fval m y = .nan
      let c : Prop := match v with
        | 0 => fEq (fval m x) (fval m y) = true
        | 1 => ¬ fEq (fval m x) (fval m y) = true
        | 2 => fLt (fval m x) (fval m y) = true
        | 3 => fLt (fval m x) (fval m y) = true ∨ fEq (fval m x) (fval m y) = true
        | 4 => nan
        | _ => ¬nan
      (c → r = 2 ^ m.width - 1) ∧ (¬c → r = 0))

/-- R308, R321, R333, R58: LI gives its 12 bits sign-extended in every lane; LIH shifts every lane of the old d left by 12 and adds its
12 bits, keeping d's poison; MOV gives the operand; GETM the main-file entry. A constant is never poisoned. -/
def Rule.ConstantsAndMoves : Prop :=
  ∀ (t : Nat) (d : Dst) (a : Src) (c m : Nat),
    Completes (.li t d c) d (fun _ _ r => r.poison = false ∧ ∀ l, l < 8 → r.v.get l = (BitVec.ofNat 12 c).signExtend 32)
    ∧ Completes (.lih t d c) d (fun _ e r => r.poison = (readDst e d).poison
        ∧ ∀ l, l < 8 → r.v.get l = (readDst e d).v.get l <<< 12 ||| (BitVec.ofNat 12 c).setWidth 32)
    ∧ Completes (.mov t d a) d (fun f e r => r = readSrc f e .int a)
    ∧ Completes (.getm t d m) d (fun _ e r => r = vget e.m m)

/-- R316, R326: LBC copies the lane that B's lane 0 names, modulo 8, to every lane; LSHF takes lane i from the lane that B's lane i names,
modulo 8. -/
def Rule.LaneMoves : Prop :=
  ∀ (t : Nat) (d : Dst) (a b : Src),
    Completes (.lbc t d a b) d (fun f e r => r.poison = ((readSrc f e .int a).poison || (readSrc f e .int b).poison)
      ∧ ∀ l, l < 8 → r.v.get l = (readSrc f e .int a).v.get (((readSrc f e .int b).v.get 0).toNat % 8))
    ∧ Completes (.lshf t d a b) d (fun f e r => r.poison = ((readSrc f e .int a).poison || (readSrc f e .int b).poison)
      ∧ ∀ l, l < 8 → r.v.get l = (readSrc f e .int a).v.get (((readSrc f e .int b).v.get l).toNat % 8))

/-- R324, R325: LSCAN's lane 0 is A's lane 0; every later lane combines the scan's previous lane with A's lane, element by element: by
governed addition, signed minimum, signed maximum, or one rounded float addition. LRED gives the last lane of the scan in
every lane. That an immediate operand of a float fold is the constant rounded to the float format is the model's choice (log 22). -/
def Obligations.LaneFolds : Prop :=
  ∀ (t v : Nat) (d : Dst) (a : Src),
    let src (f : Fabric) (e : Elem) : Reg := readSrc f e (if v = 3 then .float else .int) a
    let w (e : Elem) : Nat := if v = 3 then (floatFmt e.ffmt).width else intWidth e.ifmt
    let g (e : Elem) (x y r : Nat) : Prop :=
      match v with
      | 0 => Governed e.sat (intWidth e.ifmt) (toS (intWidth e.ifmt) x + toS (intWidth e.ifmt) y) (toS (intWidth e.ifmt) r)
      | 1 => toS (intWidth e.ifmt) r = min (toS (intWidth e.ifmt) x) (toS (intWidth e.ifmt) y)
      | 2 => toS (intWidth e.ifmt) r = max (toS (intWidth e.ifmt) x) (toS (intWidth e.ifmt) y)
      | _ => r = roundFV (floatFmt e.ffmt) e.rnd (fAdd e.rnd (fval (floatFmt e.ffmt) x) (fval (floatFmt e.ffmt) y))
    let scan (f : Fabric) (e : Elem) (r : Lanes) : Prop :=
      ∀ n, n < 32 / w e → elemU (r.get 0) n (w e) = elemU ((src f e).v.get 0) n (w e)
        ∧ ∀ l, l < 7 → g e (elemU (r.get l) n (w e)) (elemU ((src f e).v.get (l + 1)) n (w e)) (elemU (r.get (l + 1)) n (w e))
    Completes (.lscan t v d a) d (fun f e r => r.poison = (src f e).poison ∧ scan f e r.v)
    ∧ Completes (.lred t v d a) d (fun f e r => r.poison = (src f e).poison
        ∧ ∃ x : Lanes, scan f e x ∧ ∀ l, l < 8 → r.v.get l = x.get 7)

/-! ## Float words -/

/-- R291, R299, R301, R306, R94: FADD, FSUB, FMUL and FMA round the exact result once under the element's mode. A NaN operand, a sum
of opposite infinities and 0 × ∞ give the canonical NaN; FSUB is FADD of the negated B; the poison is that of every value
read. -/
def Obligations.FloatArithmetic : Prop :=
  ∀ (t : Nat) (d : Dst) (a b : Src),
    FloatWord (.fadd t d a b) d a b (fun m rnd x y r =>
      r = roundFV m rnd (fAdd rnd (fval m x) (fval m y))
        ∧ ((fval m x = .nan ∨ fval m y = .nan) → r = m.nan)
        ∧ (∀ s, fval m x = .inf s → fval m y = .inf (!s) → r = m.nan)
        ∧ (∀ s, fval m x = .inf s → fval m y ≠ .nan → fval m y ≠ .inf (!s) → r = m.infCode s))
    ∧ FloatWord (.fsub t d a b) d a b (fun m rnd x y r => r = roundFV m rnd (fAdd rnd (fval m x) (fNeg (fval m y))))
    ∧ FloatWord (.fmul t d a b) d a b (fun m rnd x y r =>
      r = roundFV m rnd (fMul (fval m x) (fval m y))
        ∧ ((fval m x = .nan ∨ fval m y = .nan) → r = m.nan)
        ∧ (∀ s z q, fval m x = .inf s → fval m y = .fin z 0 q → r = m.nan)
        ∧ (∀ s z q, fval m x = .fin z 0 q → fval m y = .inf s → r = m.nan))
    ∧ Completes (.fma t d a b) d (fun f e r =>
        r.poison = ((readSrc f e .float a).poison || (readSrc f e .float b).poison || (readDst e d).poison)
          ∧ EachElem (floatFmt e.ffmt).width fun l n =>
            elemU (r.v.get l) n (floatFmt e.ffmt).width
              = roundFV (floatFmt e.ffmt) e.rnd (fAdd e.rnd
                  (fMul (fval (floatFmt e.ffmt) (elemU ((readSrc f e .float a).v.get l) n (floatFmt e.ffmt).width))
                    (fval (floatFmt e.ffmt) (elemU ((readSrc f e .float b).v.get l) n (floatFmt e.ffmt).width)))
                  (fval (floatFmt e.ffmt) (elemU ((readDst e d).v.get l) n (floatFmt e.ffmt).width))))

/-- R94: rounding is exact where it can be: in every format and mode the value of a pattern below 2^w that is no NaN rounds to that
pattern again. -/
def Obligations.RoundingKeepsRepresentable : Prop :=
  ∀ m rnd x, (m = fp32 ∨ m = bf16 ∨ m = fp16 ∨ m = fe4m3 ∨ m = fe5m2) → x < 2 ^ m.width → fval m x ≠ .nan →
    roundFV m rnd (fval m x) = x

/-- R300: FMIN and FMAX give an operand's pattern unchanged: the other operand where one is NaN, the canonical NaN where both are, else
the lesser or the greater, with −0 below +0. -/
def Rule.FloatMinMax : Prop :=
  ∀ (t : Nat) (d : Dst) (a b : Src),
    let nanRule (m : Fmt) (x y r : Nat) : Prop :=
      (fval m x = .nan → fval m y = .nan → r = m.nan) ∧ (fval m x = .nan → fval m y ≠ .nan → r = y)
        ∧ (fval m x ≠ .nan → fval m y = .nan → r = x)
    FloatWord (.fmin t d a b) d a b (fun m _ x y r => nanRule m x y r ∧ (fval m x ≠ .nan → fval m y ≠ .nan →
      (r = x ∨ r = y) ∧ fLt (fval m x) (fval m r) = false ∧ fLt (fval m y) (fval m r) = false
        ∧ (fEq (fval m x) (fval m y) = true → (fval m r).neg = ((fval m x).neg || (fval m y).neg))))
    ∧ FloatWord (.fmax t d a b) d a b (fun m _ x y r => nanRule m x y r ∧ (fval m x ≠ .nan → fval m y ≠ .nan →
      (r = x ∨ r = y) ∧ fLt (fval m r) (fval m x) = false ∧ fLt (fval m r) (fval m y) = false
        ∧ (fEq (fval m x) (fval m y) = true → (fval m r).neg = ((fval m x).neg && (fval m y).neg))))

/-- R103, R297, R298, R302, R304, R307: the special cases of the five functions, in every lane format, and the value of the model's
function elsewhere (its working precision is the model's, log 14): NaN gives NaN. FRCP: zeros give infinities and infinities
zeros, of the operand's sign. FRSQ: zeros give infinities of their sign, +∞ gives +0, every other negative operand NaN. FEXP2:
−∞ gives +0, +∞ gives +∞, zeros give 1. FLOG2: zeros give −∞, +∞ gives +∞, every other negative operand NaN. FTANH: zeros stay,
infinities give 1 of their sign. -/
def Obligations.FloatFunctions : Prop :=
  ∀ (t : Nat) (d : Dst) (a : Src),
    FloatWord (.frcp t d a) d a a (fun m rnd x _ r => r = fRcp m rnd (fval m x) ∧ (fval m x = .nan → r = m.nan)
      ∧ (∀ s q, fval m x = .fin s 0 q → r = m.infCode s) ∧ (∀ s, fval m x = .inf s → r = m.sign s))
    ∧ FloatWord (.frsq t d a) d a a (fun m rnd x _ r => r = fRsq m rnd (fval m x) ∧ (fval m x = .nan → r = m.nan)
      ∧ (∀ s q, fval m x = .fin s 0 q → r = m.infCode s) ∧ (fval m x = .inf false → r = 0) ∧ (fval m x = .inf true → r = m.nan)
      ∧ (∀ k q, fval m x = .fin true (k + 1) q → r = m.nan))
    ∧ FloatWord (.fexp2 t d a) d a a (fun m rnd x _ r => r = fExp2 m rnd (fval m x) ∧ (fval m x = .nan → r = m.nan)
      ∧ (fval m x = .inf true → r = 0) ∧ (fval m x = .inf false → r = m.infCode false)
      ∧ (∀ s q, fval m x = .fin s 0 q → r = roundFV m rnd (.fin false 1 0)))
    ∧ FloatWord (.flog2 t d a) d a a (fun m rnd x _ r => r = fLog2 m rnd (fval m x) ∧ (fval m x = .nan → r = m.nan)
      ∧ (∀ s q, fval m x = .fin s 0 q → r = m.infCode true) ∧ (fval m x = .inf false → r = m.infCode false)
      ∧ (fval m x = .inf true → r = m.nan) ∧ (∀ k q, fval m x = .fin true (k + 1) q → r = m.nan))
    ∧ FloatWord (.ftanh t d a) d a a (fun m rnd x _ r => r = fTanh m rnd (fval m x) ∧ (fval m x = .nan → r = m.nan)
      ∧ (∀ s q, fval m x = .fin s 0 q → r = m.sign s) ∧ (∀ s, fval m x = .inf s → r = roundFV m rnd (.fin s 1 0)))

/-- R102, R293, R294, R303, R305: FCVTI rounds to an integer and clamps it, with ∞ the nearer end and NaN 0; FCVTF rounds the signed
integer to the format; FRND rounds to an integral value, zeros and infinities unchanged, NaN canonical, a zero result of the operand's
sign; FSCL multiplies by 2^b with b the signed pattern of B, and rounds once; zeros and infinities pass, and NaN gives the canonical NaN. -/
def Obligations.FloatConversions : Prop :=
  ∀ (t : Nat) (d : Dst) (a b : Src),
    FloatWord (.fcvti t d a) d a a (fun m rnd x _ r =>
      (fval m x = .nan → r = 0)
        ∧ (fval m x = .inf false → toS m.width r = 2 ^ (m.width - 1) - 1) ∧ (fval m x = .inf true → toS m.width r = -(2 ^ (m.width - 1)))
        ∧ (∀ s k q, fval m x = .fin s k q →
            toS m.width r = max (-(2 ^ (m.width - 1))) (min (roundInt rnd s k q) (2 ^ (m.width - 1) - 1))))
    ∧ Completes (.fcvtf t d a) d (fun f e r => r.poison = (readSrc f e .int a).poison
        ∧ EachElem (floatFmt e.ffmt).width fun l n =>
          elemU (r.v.get l) n (floatFmt e.ffmt).width
            = roundFV (floatFmt e.ffmt) e.rnd (.fin (decide (elemS ((readSrc f e .int a).v.get l) n (floatFmt e.ffmt).width < 0))
                (elemS ((readSrc f e .int a).v.get l) n (floatFmt e.ffmt).width).natAbs 0))
    ∧ FloatWord (.frnd t d a) d a a (fun m rnd x _ r =>
      (fval m x = .nan → r = m.nan) ∧ (∀ s, fval m x = .inf s → r = x) ∧ (∀ s q, fval m x = .fin s 0 q → r = x)
        ∧ (∀ s k q, fval m x = .fin s (k + 1) q → r = roundFV m rnd (.fin s (roundInt rnd s (k + 1) q).natAbs 0)))
    ∧ Completes (.fscl t d a b) d (fun f e r => r.poison = ((readSrc f e .float a).poison || (readSrc f e .fint b).poison)
        ∧ EachElem (floatFmt e.ffmt).width fun l n =>
          let m := floatFmt e.ffmt
          let n2 := elemS ((readSrc f e .fint b).v.get l) n m.width
          let x := elemU ((readSrc f e .float a).v.get l) n m.width
          (fval m x = .nan → elemU (r.v.get l) n m.width = m.nan)
          ∧ (∀ s, fval m x = .inf s → elemU (r.v.get l) n m.width = x)
          ∧ (∀ s q, fval m x = .fin s 0 q → elemU (r.v.get l) n m.width = x)
          ∧ ∀ s k q, fval m x = .fin s (k + 1) q →
            (-65536 ≤ n2 → n2 ≤ 65536 → elemU (r.v.get l) n m.width = roundFV m e.rnd (.fin s (k + 1) (q + n2)))
              ∧ (65536 < n2 → elemU (r.v.get l) n m.width = m.overflow e.rnd s)
              ∧ (n2 < -65536 → elemU (r.v.get l) n m.width
                  = m.sign s + (if e.rnd = 2 ∧ s = false ∨ e.rnd = 3 ∧ s = true then 1 else 0)))

/-! ## Moves and predicates -/

/-- R58, R338, R346: PUTM writes A with its poison to main-file entry m, whole, and no other entry and not lat; NOP changes nothing. -/
def Rule.PutmAndNop : Prop :=
  ∀ (t m : Nat) (a : Src),
    ChangesElem (.putm t a m) (fun f e => { e with m := vset e.m m (readSrc f e .int a) })
    ∧ ChangesElem (.nop t) (fun _ e => e)

/-- R59, R72, R340 to R345: PSET writes its constant, PLOG the entry 2·pA + pB of its table (p7 is read as whether a resumption runs), PANY
whether any lane of lat is nonzero, PALL whether every lane is. They write their own predicate and nothing else, not even lat. -/
def Obligations.PredicateWords : Prop :=
  ∀ (t p pa pb tt : Nat) (v : Bool),
    let pred (f : Fabric) (e : Elem) (n : Nat) : Bool := if n = 7 then isResuming f e else e.preds.getLsbD n
    WritesPred (.pset t p v) p (fun _ _ r => r = v)
    ∧ WritesPred (.plog t p pa pb tt) p (fun f e r => r = tt.testBit ((if pred f e pa then 2 else 0) + (if pred f e pb then 1 else 0)))
    ∧ WritesPred (.pany t p) p (fun _ e r => r = true ↔ ∃ l, l < 8 ∧ e.lat.v.get l ≠ 0)
    ∧ WritesPred (.pall t p) p (fun _ e r => r = true ↔ ∀ l, l < 8 → e.lat.v.get l ≠ 0)

/-- R64, R274, R364: TRAP and BRK fault with codes 15 and 16 and their own code in the detail: one record, the line stopped, and no other
effect. That is what they do in every state in which they may fire. -/
def Obligations.TrapAndBrk : Prop :=
  ∀ (t c : Nat) (s : State) (l th slot : Nat) (e : Elem), s.good →
    (s.Fires l th slot e (.trap t c) → ∃ u, exec (.trap t c) s = .next u ∧ State.FaultTaken s u l slot e 15 c)
    ∧ (s.Fires l th slot e (.brk t c) → ∃ u, exec (.brk t c) s = .next u ∧ State.FaultTaken s u l slot e 16 c)

/-! ## Words that read the line and the tile -/

/-- R32, R271, R352, R285: BEATQ gives its line's bellows register in every lane: CTL, BEAT with FLOOR, MIN with MAX, STEP_UP with STEP_DOWN, WINDOW, LOW
with HIGH, WOVR with WBEATS and WSTR, STALL_LIMIT, the counts of overruns, overflows and stretch cycles, and 0 beyond. SEQ the sequence number of the item in work or all ones in every
lane, EBRD the partition's remaining error budget in lane 0 and zero elsewhere; none of them is poisoned. -/
def Rule.LineReads : Prop :=
  ∀ (t i : Nat) (d : Dst),
    Completes (.beatq t d i) d (fun f e r => r.poison = false ∧ ∀ x, findLine f e.line = some x → ∀ l, l < 8 →
      let b := x.bel
      let bit (p : Bool) (n : Nat) : Nat := if p then 2 ^ n else 0
      r.v.get l = BitVec.ofNat 32 (match i with
        | 0 => bit b.fixed 0 + bit b.ovfRaise 1 + bit b.stretched 2
        | 1 => b.beat + 2 ^ 16 * b.floor
        | 2 => b.min + 2 ^ 16 * b.max
        | 3 => b.up + 2 ^ 16 * b.down
        | 4 => b.window
        | 5 => b.low + 2 ^ 16 * b.high
        | 6 => b.wovr + 2 ^ 16 * b.wbeats + bit b.wstr 31
        | 7 => b.stall
        | 8 => b.ovr
        | 9 => b.ovf
        | 10 => b.str
        | _ => 0))
    ∧ Completes (.seq t d) d (fun f e r => r.poison = false ∧ ∀ l, l < 8 → r.v.get l =
        (match (findStation f e.line e.station).bind workItem with
        | some it => BitVec.ofNat 32 it.seq
        | none => 0xFFFFFFFF))
    ∧ Completes (.ebrd t d) d (fun f e r => r.poison = false ∧ r.v.get 0 = BitVec.ofNat 32 (getPart f (vfOf e.line)).remain
        ∧ ∀ l, 1 ≤ l → l < 8 → r.v.get l = 0)

/-- R242, R281, R165, R366: CTRRD gives bits 31:0 of the counter that A's lane 0 names, modulo 16, in lane 0, and bits 47:32 with OVF in bit
31 in lane 1, this cycle's events counted, those still to come among them, and keeps A's poison; WPR gives the write pointer, entry count, queue and busy bit of
the copy channel that A's lane 0 names, modulo 2. -/
def Rule.TileReads : Prop :=
  ∀ (t : Nat) (d : Dst) (a : Src),
    (∀ s l th slot e, (Instr.ctrrd t d a).wf = true → s.good → s.Fires l th slot e (.ctrrd t d a) →
      ∃ u r, exec (.ctrrd t d a) s = .next u ∧ State.Result s u l th slot e d r ∧ r.poison = (readSrc s.fab e .int a).poison
        ∧ ∀ x, findTile s.fab l (tileOf th) = some x →
          let i := ((readSrc s.fab e .int a).v.get 0).toNat % 16
          let n := counterAtEnd s.mem s.fab l (tileOf th) i
          r.v.get 0 = BitVec.ofNat 32 n
            ∧ r.v.get 1 = BitVec.ofNat 32 (n / 2 ^ 32 % 65536 + (if x.ovf.getLsbD i ∨ 2 ^ 48 ≤ n then 2 ^ 31 else 0))
            ∧ ∀ k, 2 ≤ k → k < 8 → r.v.get k = 0)
    ∧ ∀ s l th slot e, (Instr.wpr t d a).wf = true → s.good → s.Fires l th slot e (.wpr t d a) →
        ∃ u x, exec (.wpr t d a) s = .next u ∧ findElem u.fab l th = some x ∧ x.lat.poison = (readSrc s.fab e .int a).poison
          ∧ (∀ n, n < 8 → vget x.o n = if d = .o n then x.lat else vget e.o n) ∧ State.FrameBut s u l th
          ∧ ∀ c, findCopy s.fab l (tileOf th) (((readSrc s.fab e .int a).v.get 0).toNat % 2) = some c →
              x.lat.v = ⟨BitVec.ofNat 32 c.wp, BitVec.ofNat 32 c.entry, BitVec.ofNat 32 c.queue, if c.busy then 1 else 0, 0, 0, 0, 0⟩

/-- R342, R277, R44, R370: PEEK gives slot k's payload and poison and pops nothing; CHQ gives for an input channel the filled count, and of its
head the tag, sequence number, source node and poison, or tag 15 and zeros when it is empty, and the depth; for an output channel the free
and staged counts and the depth; for the inbox the current item's descriptor, its sequence number being the item's, or tag 15; for the outbox free 1,
staged 0 and depth 1. CHQ and GETM have no implicit condition: they
never wait (R277, R308). -/
def Obligations.ChannelReads : Prop :=
  ∀ (t h k : Nat) (d : Dst),
    Completes (.peek t h k d) d (fun f e r => ∃ x, (inputView f e h)[k]? = some x ∧ r.v = x.payload ∧ r.poison = x.poison)
    ∧ Completes (.chq t h d) d (fun f e r => r.poison = false ∧ ∀ cl n c, vget e.h h = .chan cl n → findChan f cl n = some c →
        (4 ≤ h → r.v = ⟨0, BitVec.ofNat 32 (freeOf f c), BitVec.ofNat 32 (stagedOf c), 0, 0, 0, 0, BitVec.ofNat 32 c.depth⟩)
        ∧ (h < 4 → visible f c = [] → r.v = ⟨0, 0, 0, 15, 0, 0, 0, BitVec.ofNat 32 c.depth⟩)
        ∧ (h < 4 → ∀ x, (visible f c).head? = some x →
            r.v = ⟨BitVec.ofNat 32 (visible f c).length, 0, 0, BitVec.ofNat 32 x.tag, BitVec.ofNat 32 x.seq, BitVec.ofNat 32 x.node,
              if x.poison then 1 else 0, BitVec.ofNat 32 c.depth⟩))
    ∧ Completes (.chq t h d) d (fun f e r => (vget e.h h = .outbox → r.v = ⟨0, 1, 0, 0, 0, 0, 0, 1⟩)
        ∧ (vget e.h h = .inbox → ∀ st, findStation f e.line e.station = some st →
            (st.item = none → r.v = ⟨0, 0, 0, 15, 0, 0, 0, 1⟩)
            ∧ ∀ it, st.item = some it → r.v = ⟨1, 0, 0, BitVec.ofNat 32 it.desc.tag, BitVec.ofNat 32 it.seq, BitVec.ofNat 32 it.desc.node,
                if it.desc.poison then 1 else 0, 1⟩))
    ∧ ∀ f e, waitless f e (.chq t h d) = true ∧ waitless f e (.getm t d k) = true

/-- R283, R368: DONE marks the item the station works on, at an element of the done set; at any other element, with no item in work, or once
the item is complete, it changes nothing. -/
def Obligations.DoneMarks : Prop :=
  ∀ (t : Nat) (s : State) (l th slot : Nat) (e : Elem), s.good → s.Fires l th slot e (.done t) →
    ∃ u, exec (.done t) s = .next u ∧ u.ElemIs l th slot e ∧ State.FrameBut s u l th ∧ u.fab.chans = s.fab.chans
      ∧ (∀ l' n, ¬(l' = l ∧ n = e.station) → findStation u.fab l' n = findStation s.fab l' n)
      ∧ ∀ st, findStation s.fab l e.station = some st →
          (th ∉ st.doneSet → findStation u.fab l e.station = some st)
          ∧ (st.resumed = none → st.item = none → findStation u.fab l e.station = some st)
          ∧ (∀ it, st.resumed = none → st.item = some it → it.done.isSome = true → findStation u.fab l e.station = some st)
          ∧ (∀ i it, st.resumed = some (i, it) → it.done.isSome = true → findStation u.fab l e.station = some st)
          ∧ (∀ it, th ∈ st.doneSet → st.resumed = none → st.item = some it → it.done = none →
              ∃ ms, findStation u.fab l e.station = some { st with item := some { it with marks := ms } }
                ∧ ∀ k, k ∈ ms ↔ k = th ∨ k ∈ it.marks)
          ∧ (∀ i it, th ∈ st.doneSet → st.resumed = some (i, it) → it.done = none →
              ∃ ms, findStation u.fab l e.station = some { st with resumed := some (i, { it with marks := ms }) }
                ∧ ∀ k, k ∈ ms ↔ k = th ∨ k ∈ it.marks)

/-! ## Waiting -/

/-- R50, R51: a word whose conditions do not hold waits: the state is as it was. -/
def Rule.WordsWait : Prop :=
  ∀ (i : Instr) (s : State) (l th slot : Nat) (e : Elem), i.isCommand = false → (encode i).isSome →
    s.fab.cur = .elem l th slot → findElem s.fab l th = some e → ready s.fab e i = false → exec i s = .next s

/-- R50, R57: a word of two sources may fire exactly when its element runs, no source register or destination is awaited (lat counts as a
destination of each), every channel it reads has a token, and a channel it writes has a free slot. -/
def Obligations.WhenWordsFire : Prop :=
  ∀ (t v : Nat) (d : Dst) (a b : Src) (f : Fabric) (e : Elem),
    ∀ i ∈ [Instr.add t d a b, .sub t d a b, .mul t d a b, .mulh t d a b, .mulhu t d a b, .mad t d a b, .and t d a b, .or t d a b,
      .xor t d a b, .andn t d a b, .bsel t d a b, .shl t d a b, .shr t d a b, .sra t d a b, .rot t d a b, .min t d a b, .max t d a b,
      .minu t d a b, .maxu t d a b, .bfx t d a b, .bfi t d a b, .lbc t d a b, .lshf t d a b, .cmp t v d a b, .fadd t d a b,
      .fsub t d a b, .fmul t d a b, .fma t d a b, .fmin t d a b, .fmax t d a b, .fscl t d a b, .fcmp t v d a b],
    ready f e i = true ↔
      elemRuns f e = true
      ∧ (∀ x, (x = a ∨ x = b) → (x = .lat → awaited e .lat = false) ∧ (∀ n, x = .o n → awaited e (.o n) = false)
          ∧ (∀ n, x = .c n → inputView f e n ≠ []))
      ∧ awaited e .lat = false ∧ (∀ n, d = .o n → awaited e (.o n) = false) ∧ (∀ n, d = .c n → 1 ≤ outRoom f e n)

/-! ## Channel words -/

/-- R261, R16: ADVR faults with CHAN_ERR when n exceeds the filled count; on an inbox it has no effect; else it pops the n oldest slots, which
the writer sees free after the channel's delay. It changes no register and no other channel. -/
def Rule.AdvrPops : Prop :=
  ∀ (t h n : Nat) (s : State) (l th slot : Nat) (e : Elem), s.good → s.Fires l th slot e (.advr t h n) →
    (vget e.h h = .inbox → ∃ u, exec (.advr t h n) s = .next u ∧ u.ElemIs l th slot e ∧ State.FrameBut s u l th
      ∧ u.fab.chans = s.fab.chans ∧ u.fab.stations = s.fab.stations)
    ∧ (vget e.h h ≠ .inbox → (inputView s.fab e h).length < n →
        ∃ u, exec (.advr t h n) s = .next u ∧ State.FaultTaken s u l slot e 12 0)
    ∧ ∀ cl k, vget e.h h = .chan cl k → n ≤ (inputView s.fab e h).length →
        ∃ u, exec (.advr t h n) s = .next u ∧ u.ElemIs l th slot e ∧ State.FrameBut s u l th ∧ u.fab.stations = s.fab.stations
          ∧ State.ChansBut s u [(cl, k)]
          ∧ State.ChanBecame s u cl k fun c c' => c' = { c with
              q := c.q.drop n
              freed := (c.freed.filter fun x => s.fab.cycle < x) ++ List.replicate n (s.fab.cycle + c.delay) }

/-- R262: ADVW faults with CHAN_ERR when n exceeds the staged slots not yet committed, and with MBOX_CLOSED on a closed channel; on an outbox it
has no effect. That only the slots not yet committed are counted, those whose commit is held back being committed already, is the model's choice
(log 15). Else it commits the n oldest staged slots in order. A slot whose value is awaited holds its commit back (R318): that
case is outside this statement's result, not outside its completion. -/
def Rule.AdvwCommits : Prop :=
  ∀ (t h n : Nat) (s : State) (l th slot : Nat) (e : Elem), s.good → s.Fires l th slot e (.advw t h n) →
    (vget e.h h = .outbox → ∃ u, exec (.advw t h n) s = .next u ∧ u.ElemIs l th slot e ∧ State.FrameBut s u l th
      ∧ u.fab.chans = s.fab.chans ∧ u.fab.stations = s.fab.stations)
    ∧ ∀ cl k c, vget e.h h = .chan cl k → findChan s.fab cl k = some c →
        (uncommitted c < n → ∃ u, exec (.advw t h n) s = .next u ∧ State.FaultTaken s u l slot e 12 0)
        ∧ (n ≤ uncommitted c → c.closed = true → ∃ u, exec (.advw t h n) s = .next u ∧ State.FaultTaken s u l slot e 13 0)
        ∧ (n ≤ uncommitted c → c.closed = false →
            ∃ u c', exec (.advw t h n) s = .next u ∧ u.ElemIs l th slot e ∧ State.FrameBut s u l th ∧ u.fab.stations = s.fab.stations
              ∧ State.ChansBut s u [(cl, k)] ∧ findChan u.fab cl k = some c' ∧ c'.pend = c.pend ∧ c'.freed = c.freed
              ∧ ((∀ x ∈ c.staged, x.await = none ∧ x.committed = false) →
                  c'.staged = c.staged.drop n ∧ Chan.Took c c' s.fab.cycle ((c.staged.take n).map fun x => x.tok)))

/-- R45, R48, R286: EMIT of tag 0 to 2 commits every staged slot and then a token with A's payload and poison, the tag, the item's sequence
number and the slot's source node. EOS, and EMIT of tag 3 to 5, commit every staged slot and make the mark pending; where one is pending they take
no slot, the rank becomes the higher and the poison bits are ORed. A closed channel gives MBOX_CLOSED (R194, R195), against R286's
sentence "EMIT cannot fault at run time", which is the model's reading of the two; that EOS, and EMIT of tag 3 to 5, whose commit comes later, give it as
they fire is the model's choice too (log 24). No register changes. -/
def Obligations.EmitAndEos : Prop :=
  ∀ (t h g : Nat) (a : Src) (s : State) (l th slot : Nat) (e : Elem), s.good → g < 6 →
    let done (i : Instr) (v : Reg) : Prop :=
      s.Fires l th slot e i → ∀ cl k c, vget e.h h = .chan cl k → findChan s.fab cl k = some c →
        let new (x : Token) : Prop := x.payload = v.v ∧ x.seq = seqOf s.fab e ∧ x.node = nodeOf e slot
        (c.closed = true → ∃ u, exec i s = .next u ∧ State.FaultTaken s u l slot e 13 0)
        ∧ (c.closed = false → ∃ u x c', exec i s = .next u ∧ State.FrameBut s u l th ∧ u.fab.stations = s.fab.stations
            ∧ State.ChansBut s u [(cl, k)] ∧ new x ∧ findChan u.fab cl k = some c'
            ∧ (g < 3 → u.ElemIs l th slot e ∧ (c.plain → x.tag = g ∧ x.poison = v.poison ∧ c'.staged = [] ∧ c'.pend = none
                ∧ Chan.Took c c' s.fab.cycle (c.staged.map (fun y => y.tok) ++ [x])))
            ∧ (3 ≤ g → (∃ ks, (∀ y, y ∈ ks ↔ y = h ∨ y ∈ e.eosNow) ∧ u.ElemIs l th slot { e with eosNow := ks }) ∧ c'.pend = some x
                ∧ (c.plain → x.tag = g ∧ x.poison = v.poison ∧ c'.staged = [] ∧ Chan.Took c c' s.fab.cycle (c.staged.map fun y => y.tok))
                ∧ (∀ p, c.pend = some p → x.tag = max p.tag g ∧ x.poison = (p.poison || v.poison) ∧ c' = { c with pend := some x })))
    done (.emit t h g a) (readSrc s.fab e .int a) ∧ (3 ≤ g → done (.eos t h g) Reg.zero)

/-- R60, R360: STEER commits the head of its input, unchanged in payload and metadata, behind the staged slots of the first output when its predicate
is 1 and of the second when it is 0, and pops the input; an end-of-stream head becomes pending on both outputs. Where the chosen output is
closed it faults with MBOX_CLOSED. The result is stated for distinct channels. -/
def Rule.SteerForwards : Prop :=
  ∀ (t i x y p : Nat) (s : State) (l th slot : Nat) (e : Elem), s.good → s.Fires l th slot e (.steer t i x y p) →
    ∀ tk, (inputView s.fab e i).head? = some tk →
      let h := if predVal s.fab e p then x else y
      (∀ cl k c, vget e.h h = .chan cl k → findChan s.fab cl k = some c → isEos tk.tag = false →
        (c.closed = true → ∃ u, exec (.steer t i x y p) s = .next u ∧ State.FaultTaken s u l slot e 13 0)
        ∧ (c.plain → ∀ il ik, vget e.h i = .chan il ik → ¬(il = cl ∧ ik = k) →
            ∃ u c', exec (.steer t i x y p) s = .next u ∧ u.ElemIs l th slot e ∧ State.FrameBut s u l th
              ∧ u.fab.stations = s.fab.stations ∧ State.ChansBut s u [(cl, k), (il, ik)] ∧ findChan u.fab cl k = some c'
              ∧ c'.staged = [] ∧ c'.pend = none ∧ Chan.Took c c' s.fab.cycle (c.staged.map (fun z => z.tok) ++ [tk])
              ∧ State.ChanBecame s u il ik fun b b' => b'.q = b.q.drop 1 ∧ b'.staged = b.staged ∧ b'.pend = b.pend))
      ∧ (isEos tk.tag = true → ∀ il ik xl xk yl yk cx cy, vget e.h i = .chan il ik → vget e.h x = .chan xl xk → vget e.h y = .chan yl yk →
          findChan s.fab xl xk = some cx → findChan s.fab yl yk = some cy → cx.plain → cy.plain →
          [(il, ik), (xl, xk), (yl, yk)].Nodup →
            ∃ u cx' cy', exec (.steer t i x y p) s = .next u ∧ State.FrameBut s u l th ∧ u.fab.stations = s.fab.stations
              ∧ State.ChansBut s u [(il, ik), (xl, xk), (yl, yk)]
              ∧ findChan u.fab xl xk = some cx' ∧ cx'.pend = some tk ∧ cx'.staged = [] ∧ Chan.Took cx cx' s.fab.cycle (cx.staged.map fun z => z.tok)
              ∧ findChan u.fab yl yk = some cy' ∧ cy'.pend = some tk ∧ cy'.staged = [] ∧ Chan.Took cy cy' s.fab.cycle (cy.staged.map fun z => z.tok)
              ∧ State.ChanBecame s u il ik fun b b' => b'.q = b.q.drop 1)

/-- R61, R330: MERGE, with a control head, commits unchanged the head of A where lane 0 bit 0 of the control token is 0 and of B where it is 1, and pops
that input and the control input. With an end-of-stream control head and end-of-stream heads at both inputs it makes one mark pending, of the
highest of the three ranks and the OR of the three poison bits, and pops all three; a control head of data or scale, or one end-of-stream among
the three missing, is a CHAN_ERR. The result is stated for distinct channels. -/
def Rule.MergeChooses : Prop :=
  ∀ (t c a b o : Nat) (s : State) (l th slot : Nat) (e : Elem), s.good → s.Fires l th slot e (.merge t c a b o) →
    ∀ ct, (inputView s.fab e c).head? = some ct →
      (ct.tag < 2 → ∃ u, exec (.merge t c a b o) s = .next u ∧ State.FaultTaken s u l slot e 12 0)
      ∧ (ct.tag = 2 → ∀ x tk cl ck xl xk ol ok co, x = (if ct.payload.l0.toNat % 2 = 1 then b else a) →
          (inputView s.fab e x).head? = some tk → isEos tk.tag = false →
          vget e.h c = .chan cl ck → vget e.h x = .chan xl xk → vget e.h o = .chan ol ok → findChan s.fab ol ok = some co → co.plain →
          [(cl, ck), (xl, xk), (ol, ok)].Nodup →
            ∃ u co', exec (.merge t c a b o) s = .next u ∧ u.ElemIs l th slot e ∧ State.FrameBut s u l th ∧ u.fab.stations = s.fab.stations
              ∧ State.ChansBut s u [(cl, ck), (xl, xk), (ol, ok)] ∧ findChan u.fab ol ok = some co' ∧ co'.staged = [] ∧ co'.pend = none
              ∧ Chan.Took co co' s.fab.cycle (co.staged.map (fun z => z.tok) ++ [tk])
              ∧ (State.ChanBecame s u cl ck fun q q' => q'.q = q.q.drop 1) ∧ (State.ChanBecame s u xl xk fun q q' => q'.q = q.q.drop 1))
      ∧ (isEos ct.tag = true → ∀ ta tb, (inputView s.fab e a).head? = some ta → (inputView s.fab e b).head? = some tb →
          (¬(isEos ta.tag = true ∧ isEos tb.tag = true) →
            ∃ u, exec (.merge t c a b o) s = .next u ∧ State.FaultTaken s u l slot e 12 0)
          ∧ (isEos ta.tag = true → isEos tb.tag = true → ∀ cl ck al ak bl bk ol ok co, vget e.h c = .chan cl ck →
              vget e.h a = .chan al ak → vget e.h b = .chan bl bk → vget e.h o = .chan ol ok → findChan s.fab ol ok = some co → co.plain →
              [(cl, ck), (al, ak), (bl, bk), (ol, ok)].Nodup →
                ∃ u co' x, exec (.merge t c a b o) s = .next u ∧ State.FrameBut s u l th ∧ u.fab.stations = s.fab.stations
                  ∧ State.ChansBut s u [(cl, ck), (al, ak), (bl, bk), (ol, ok)] ∧ findChan u.fab ol ok = some co' ∧ co'.pend = some x
                  ∧ x.tag = max ct.tag (max ta.tag tb.tag) ∧ x.poison = (ct.poison || ta.poison || tb.poison)
                  ∧ (State.ChanBecame s u cl ck fun q q' => q'.q = q.q.drop 1) ∧ (State.ChanBecame s u al ak fun q q' => q'.q = q.q.drop 1)
                  ∧ State.ChanBecame s u bl bk fun q q' => q'.q = q.q.drop 1))

/-! ## Memory words -/

/-- R55, R115, R158, R266, R276, R317, R335, R358, R362: a memory word that may fire takes the next entry of its window's generator, with its offsets read as
INT32 lanes and its data as they stand, and is performed later: no byte of memory changes, no register changes, and a load or MXQ leaves its
destination awaited, an ATOM or CAS leaves `lat` awaited. CAS compares with `lat` as it stands. That ATOM FADD's immediate operand is the constant
rounded to the float format is the model's choice (log 22). -/
def Obligations.MemoryWordsIssue : Prop :=
  ∀ (t : Nat) (d : Dst) (a o : Src) (w : Nat) (q : Bool) (x : Nat) (s : State) (l th slot : Nat) (e : Elem), s.good →
    let entry (i : Instr) (k : AccKind) (d : Dst) (data : Reg) (q : Bool) (x : Nat) (P : State → Prop) : Prop :=
      s.Fires l th slot e i →
        ∃ u win acc, exec i s = .next u ∧ vget e.w w = some win ∧ State.Beside s u l th ∧ P u
          ∧ u.fab = { s.fab with accs := s.fab.accs ++ [acc], nextId := s.fab.nextId + 1, elems := u.fab.elems, chans := u.fab.chans,
                                 lines := u.fab.lines, tiles := u.fab.tiles }
          ∧ acc.id = s.fab.nextId ∧ acc.line = l ∧ acc.th = th ∧ acc.slot = slot ∧ acc.kind = k ∧ acc.gen = win.gen ∧ acc.win = w ∧ acc.d = d
          ∧ acc.off = (readSrc s.fab e .offset o).v ∧ acc.data = data.v ∧ acc.poison = ((readSrc s.fab e .offset o).poison || data.poison)
          ∧ acc.ordered = q ∧ acc.scope = win.scope + x ∧ acc.phys = [] ∧ acc.halted = false ∧ acc.node = nodeOf e slot
          ∧ acc.negOff = negImm o ∧ (k = .cas → acc.cmp = e.lat.v)
    let load (i : Instr) (k : AccKind) (q : Bool) (x : Nat) : Prop :=
      entry i k d Reg.zero q x (fun u => State.Awaits s u l th slot e d s.fab.nextId)
    let still (u : State) : Prop := u.fab.chans = s.fab.chans
      ∧ ∃ y, findElem u.fab l th = some y ∧ Elem.sameRegs e y ∧ y.awaits = e.awaits ∧ y.rotPtr = slot % 32
    let atom (i : Instr) (k : AccKind) (data : Reg) : Prop :=
      entry i k .lat data q x (fun u => State.Awaits s u l th slot e .lat s.fab.nextId)
    load (.ld t d o w q x) .ld q x ∧ load (.ldv t d o w q x) .ldv q x ∧ load (.mxq t d o w) .mxq false 0
    ∧ entry (.st t a o w q x) .st .lat (readSrc s.fab e .int a) q x still
    ∧ entry (.stv t a o w q x) .stv .lat (readSrc s.fab e .int a) q x still
    ∧ atom (.atomAdd t a o w q x) (.atom 0) (readSrc s.fab e .int a) ∧ atom (.atomMin t a o w q x) (.atom 1) (readSrc s.fab e .int a)
    ∧ atom (.atomMax t a o w q x) (.atom 2) (readSrc s.fab e .int a) ∧ atom (.atomAnd t a o w q x) (.atom 3) (readSrc s.fab e .int a)
    ∧ atom (.atomOr t a o w q x) (.atom 4) (readSrc s.fab e .int a) ∧ atom (.atomXor t a o w q x) (.atom 5) (readSrc s.fab e .int a)
    ∧ atom (.atomXchg t a o w q x) (.atom 6) (readSrc s.fab e .int a) ∧ atom (.atomFadd t a o w q x) (.atom 7) (readSrc s.fab e .float a)
    ∧ atom (.cas t a o w q x) .cas (readSrc s.fab e .int a)

/-- R139, R295: FENCE takes an entry of its window's generator and changes no register, no channel and no byte of memory. -/
def Rule.FenceIssues : Prop :=
  ∀ (t w : Nat) (q : Bool) (x : Nat) (s : State) (l th slot : Nat) (e : Elem), s.good → s.Fires l th slot e (.fence t w q x) →
    ∃ u win acc y, exec (.fence t w q x) s = .next u ∧ vget e.w w = some win ∧ State.Beside s u l th ∧ findElem u.fab l th = some y
      ∧ Elem.sameRegs e y ∧ y.awaits = e.awaits
      ∧ u.fab = { s.fab with accs := s.fab.accs ++ [acc], nextId := s.fab.nextId + 1, elems := u.fab.elems, lines := u.fab.lines,
                             tiles := u.fab.tiles }
      ∧ acc.id = s.fab.nextId ∧ acc.line = l ∧ acc.th = th ∧ acc.kind = .fence ∧ acc.gen = win.gen ∧ acc.scope = win.scope + x
      ∧ acc.ordered = q ∧ (∀ b ∈ s.fab.accs, b.line = l → b.th = th → b.id ∈ acc.need)

/-- R50, R158, R159: a memory word waits while its generator has 32 entries or runs a pattern, or its handle names no window. -/
def Rule.GeneratorRoom : Prop :=
  ∀ (t : Nat) (d : Dst) (a o : Src) (w : Nat) (q : Bool) (x : Nat) (f : Fabric) (e : Elem),
    ∀ i ∈ [Instr.ld t d o w q x, .ldv t d o w q x, .st t a o w q x, .stv t a o w q x, .atomAdd t a o w q x, .atomMin t a o w q x,
      .atomMax t a o w q x, .atomAnd t a o w q x, .atomOr t a o w q x, .atomXor t a o w q x, .atomXchg t a o w q x,
      .atomFadd t a o w q x, .cas t a o w q x, .mxq t d o w, .fence t w q x],
    (vget e.w w = none → ready f e i = false)
    ∧ ∀ win, vget e.w w = some win →
        (32 ≤ (f.accs.filter fun a => a.line == e.line && tileOf a.th == tileOf e.thread && a.gen == win.gen).length → ready f e i = false)
        ∧ (∀ g, findGen f e.line (tileOf e.thread) win.gen = some g → g.running = true → ready f e i = false)

/-! ## Groups -/

/-- R309 to R311: GNEW takes the lowest free group number of the partition, gives it in lane 0 with zero elsewhere, and makes a group of the line
with no members; with none free it faults with GROUP_ERR. GFREE frees a group of the line with no member, no pending JOIN and no bound region, and
faults otherwise. A number freed in a cycle is not free in that cycle (log 26). -/
def Rule.GroupNumbers : Prop :=
  ∀ (t : Nat) (d : Dst) (a : Src) (s : State) (l th slot : Nat) (e : Elem), s.good →
    (s.Fires l th slot e (.gnew t d) → d.wf = true →
      let free (n : Nat) : Prop := findGroup s.fab (vfOf l) n = none ∧ (vfOf l, n) ∉ s.fab.freed
      ((∀ n, n < 4096 → ¬free n) →
        ∃ u, exec (.gnew t d) s = .next u ∧ State.FaultTaken s u l slot e 11 0)
      ∧ ∀ n, n < 4096 → free n → (∀ m, m < n → ¬free m) →
          ∃ u x g, exec (.gnew t d) s = .next u ∧ State.Beside s u l th ∧ findElem u.fab l th = some x
            ∧ Elem.Wrote e x slot d ⟨⟨BitVec.ofNat 32 n, 0, 0, 0, 0, 0, 0, 0⟩, false⟩
            ∧ u.fab.groups = s.fab.groups ++ [g] ∧ g.vf = vfOf l ∧ g.num = n ∧ g.line = l ∧ g.members = [] ∧ g.arrived = [] ∧ g.joining = [])
    ∧ (s.Fires l th slot e (.gfree t a) →
        let n := ((readSrc s.fab e .int a).v.get 0).toNat
        (∀ g, findGroup s.fab (vfOf l) n = some g → g.line = l → g.members = [] → g.joining = [] → boundRegions s.fab g = [] →
          ∃ u, exec (.gfree t a) s = .next u ∧ u.ElemIs l th slot e ∧ State.Beside s u l th
            ∧ u.fab.groups = s.fab.groups.filter (fun x => !(x.vf == vfOf l && x.num == n)) ∧ u.fab.freed = (vfOf l, n) :: s.fab.freed)
        ∧ ((∀ g, findGroup s.fab (vfOf l) n = some g → g.line ≠ l ∨ g.members ≠ [] ∨ g.joining ≠ [] ∨ boundRegions s.fab g ≠ []) →
          ∃ u, exec (.gfree t a) s = .next u ∧ State.FaultTaken s u l slot e 11 0))

/-- R63, R120, R122, R151, R309, R315, R320: JOIN makes the thread a member at once while no member has arrived, else joining until the step completes; a member's or a
joining thread's JOIN has no effect. LEAVE withdraws a pending JOIN, or removes the member and its arrival; where a remaining member has not
arrived, or none remains, the step stays open, else it completes in that cycle, with the swap due, or held by a collision, as a STEP has it (R120, R122). A group that is not live or of another line, and a LEAVE by a thread that is neither, give GROUP_ERR. A
step that LEAVE completes lets the arrived members come after what the members' STEPs released (R151). -/
def Rule.GroupMembership : Prop :=
  ∀ (t : Nat) (a : Src) (s : State) (l th slot : Nat) (e : Elem), s.good →
    let n := ((readSrc s.fab e .int a).v.get 0).toNat
    let becomes (i : Instr) (g g' : Group) : Prop :=
      ∃ u, exec i s = .next u ∧ u.ElemIs l th slot e ∧ State.Beside s u l th ∧ findGroup u.fab (vfOf l) n = some g'
        ∧ (∀ v m, ¬(v = g.vf ∧ m = g.num) → findGroup u.fab v m = findGroup s.fab v m)
        ∧ u.fab = { s.fab with groups := u.fab.groups, elems := u.fab.elems, lines := u.fab.lines, tiles := u.fab.tiles }
    (s.Fires l th slot e (.join t a) →
      ((∀ g, findGroup s.fab (vfOf l) n = some g → g.line ≠ l) →
        ∃ u, exec (.join t a) s = .next u ∧ State.FaultTaken s u l slot e 11 0)
      ∧ ∀ g, findGroup s.fab (vfOf l) n = some g → g.line = l →
          (th ∈ g.members ∨ th ∈ g.joining → becomes (.join t a) g g)
          ∧ (th ∉ g.members → th ∉ g.joining → g.arrived = [] → becomes (.join t a) g { g with members := th :: g.members })
          ∧ (th ∉ g.members → th ∉ g.joining → g.arrived ≠ [] → becomes (.join t a) g { g with joining := th :: g.joining }))
    ∧ (s.Fires l th slot e (.leave t a) →
      ((∀ g, findGroup s.fab (vfOf l) n = some g → g.line ≠ l ∨ th ∉ g.members ∧ th ∉ g.joining) →
        ∃ u, exec (.leave t a) s = .next u ∧ State.FaultTaken s u l slot e 11 0)
      ∧ ∀ g, findGroup s.fab (vfOf l) n = some g → g.line = l →
          (th ∈ g.joining → becomes (.leave t a) g { g with joining := g.joining.filter (· != th) })
          ∧ (th ∉ g.joining → th ∈ g.members → (∃ m ∈ g.members, m ≠ th ∧ m ∉ g.arrived) →
              becomes (.leave t a) g { g with
                members := g.members.filter (· != th), arrived := g.arrived.filter (· != th), stepIds := g.stepIds.filter fun y => y.1 != th })
          ∧ (th ∉ g.joining → (∀ m ∈ g.members, m = th) → th ∈ g.members →
              becomes (.leave t a) g { g with
                members := g.members.filter (· != th), arrived := g.arrived.filter (· != th), stepIds := g.stepIds.filter fun y => y.1 != th })
          ∧ (th ∉ g.joining → th ∈ g.members → (∃ m ∈ g.members, m ≠ th) → (∀ m ∈ g.members, m ≠ th → m ∈ g.arrived) →
              ∃ u g', exec (.leave t a) s = .next u ∧ u.ElemIs l th slot e ∧ u.mem = s.mem ∧ findGroup u.fab (vfOf l) n = some g'
                ∧ (s.clean g → State.BesideLearn s u l th ∧ u.fab.newRecs = s.fab.newRecs
                    ∧ g'.swapBy = some (s.fab.cycle + 1 + (((boundRegions s.fab g).map fun r => entriesOf r g.step).sum + 63) / 64))
                ∧ ((∃ r ∈ boundRegions s.fab g, ∃ w, r.clashes g.step w) → g'.swapBy = none ∧ g'.collided = true ∧ State.SwapHeld s u g)
                ∧ g'.step = g.step + 1 ∧ g'.arrived = [] ∧ g'.joining = []
                ∧ (∀ m, m ∈ g'.members ↔ m ∈ g.members ∧ m ≠ th ∨ m ∈ g.joining)
                ∧ (∀ m, m ∈ g'.waiting ↔ m ∈ g.arrived ∧ m ≠ th ∨ m ∈ g.waiting)
                ∧ ∀ m k x, (m, k) ∈ g.stepIds → m ≠ th → findElem u.fab l m = some x → ∀ i ∈ g.relIds, i ∈ x.know))

/-- R120, R122, R151, R361: STEP makes a member arrive, with what the thread releases; when every member has arrived, the step completes in that
cycle: the group's step number rises, the arrived members wait for the swap and from then on come after what the members' STEPs released, joining
threads become members, and the swap is due by cycle c + 1 + ⌈e/64⌉ for the e collision entries of the bound regions. A collision under the
fault rule records PLANE_COLLIDE, with the offset of the lowest clashing word and the unit of its lowest-numbered contributor's store, stops the line
and holds the swap. A thread that is no member gets GROUP_ERR. STEP writes no register and no byte of
memory. That the swap comes after the accesses released by the arrivals (`swapIds`), and the numbers of the STEPs, are the model's choice (log 20). -/
def Obligations.StepsComplete : Prop :=
  ∀ (t : Nat) (a : Src) (s : State) (l th slot : Nat) (e : Elem), s.good → s.Fires l th slot e (.step t a) →
    let n := ((readSrc s.fab e .int a).v.get 0).toNat
    ((∀ g, findGroup s.fab (vfOf l) n = some g → g.line ≠ l ∨ th ∉ g.members) →
      ∃ u, exec (.step t a) s = .next u ∧ State.FaultTaken s u l slot e 11 0)
    ∧ ∀ g, findGroup s.fab (vfOf l) n = some g → g.line = l → th ∈ g.members →
        let ids := union (relOf (e.acquire s.fab slot (.step t a))) g.relIds
        let all : Prop := ∀ m ∈ g.members, m = th ∨ m ∈ g.arrived
        ∃ u g', exec (.step t a) s = .next u ∧ u.ElemIs l th slot e ∧ u.mem = s.mem ∧ findGroup u.fab (vfOf l) n = some g' ∧ g'.relIds = ids
          ∧ u.fab = { s.fab with groups := u.fab.groups, elems := u.fab.elems, lines := u.fab.lines, tiles := u.fab.tiles,
                                 newRecs := u.fab.newRecs, nextId := s.fab.nextId + 1 }
          ∧ ((∃ m ∈ g.members, m ≠ th ∧ m ∉ g.arrived) →
              State.Beside s u l th ∧ u.fab.newRecs = s.fab.newRecs
                ∧ g'.step = g.step ∧ g'.members = g.members ∧ g'.joining = g.joining ∧ g'.waiting = g.waiting ∧ g'.swapBy = g.swapBy
                ∧ g'.swapIds = g.swapIds ∧ g'.stepIds = (th, s.fab.nextId) :: g.stepIds ∧ g'.doneIds = g.doneIds
                ∧ ∀ m, m ∈ g'.arrived ↔ m = th ∨ m ∈ g.arrived)
          ∧ (all →
              g'.step = g.step + 1 ∧ g'.swapIds = ids ∧ g'.arrived = [] ∧ g'.joining = [] ∧ (∀ m, m ∈ g'.members ↔ m ∈ g.members ∨ m ∈ g.joining)
                ∧ (∀ m, m ∈ g'.waiting ↔ m = th ∨ m ∈ g.arrived ∨ m ∈ g.waiting) ∧ g'.stepIds = []
                ∧ (∀ m k x, m = th ∨ (m, k) ∈ g.stepIds → findElem u.fab l m = some x → ∀ i ∈ ids, i ∈ x.know)
                ∧ (s.clean g → State.BesideLearn s u l th ∧ u.fab.newRecs = s.fab.newRecs
                    ∧ g'.swapBy = some (s.fab.cycle + 1 + (((boundRegions s.fab g).map fun r => entriesOf r g.step).sum + 63) / 64))
                ∧ ((∃ r ∈ boundRegions s.fab g, ∃ w, r.clashes g.step w) → g'.swapBy = none ∧ g'.collided = true ∧ State.SwapHeld s u g))

/-- R193, R348, R355: RANGE and SPAWN send one request with A's lanes and poison and leave their destination awaited; a RANGE reaches its unit after the
route latency and two cycles. No byte of memory and no register changes. -/
def Obligations.RequestsSent : Prop :=
  ∀ (t : Nat) (d : Dst) (a : Src) (s : State) (l th slot : Nat) (e : Elem), s.good →
    let sent (i : Instr) (spawn : Bool) (P : Request → Prop) : Prop :=
      s.Fires l th slot e i → ∃ u r, exec i s = .next u ∧ State.Beside s u l th ∧ State.Awaits s u l th slot e d s.fab.nextId
        ∧ u.fab = { s.fab with requests := s.fab.requests ++ [r], nextId := s.fab.nextId + 1, elems := u.fab.elems, chans := u.fab.chans,
                               lines := u.fab.lines, tiles := u.fab.tiles }
        ∧ r.id = s.fab.nextId ∧ r.line = l ∧ r.th = th ∧ r.spawn = spawn ∧ r.a = (readSrc s.fab e .int a).v
        ∧ r.poison = (readSrc s.fab e .int a).poison ∧ r.d = d ∧ P r
    sent (.range t d a) false (fun r => r.at_ = s.fab.cycle + 2 + (if tileOf th = sourceTile s.fab l then 0 else routeTo s.fab l (tileOf th)))
    ∧ sent (.spawn t d a) true (fun _ => True)

/-! ## Commands -/

/-- R180, R50: a command whose controller may not issue waits: the state is as it was. The condition, the mode and the scoreboard are those of
the command; one statement for every command. -/
def Rule.CommandsWait : Prop :=
  ∀ (cd : Cond) (a b c : Nat) (s : State) (l tile ct pos : Nat) (x : Ctl), s.fab.cur = .ctl l tile ct pos →
    findCtl s.fab l tile ct = some x → mayIssue s.fab x pos cd = false →
    ∀ i ∈ [.bind cd a b c, .go cd a, .bar cd, .waitn cd a b, .waitnArg cd a b, .enab cd a, .sigd cd, .cntw cd a b c, .loop cd a b,
      .loopArg cd a b, .arm cd a b, .disarm cd a, .qfen cd a, .beatPolicy cd a, .beatFixed cd a, .beatSet cd a, .mark cd,
      .recfg cd a, .rsz cd a b, .haltc cd], exec i s = .next s

/-- R322, R323, R314: LOOP with no count running loads k, or lane 0 of the launch-argument slot modulo 2^16: the slot is read when the LOOP is reached, and where
it cannot be read then, which is the model's choice (log 69), as the LOOP issues. With a count of 0 it goes on and the count ends, else the count falls
by one and the controller goes back n commands. HALTC stops a seq controller, and a pipe controller once no earlier command is outstanding. -/
def Obligations.LoopsAndHalts : Prop :=
  ∀ (cd : Cond) (n k j : Nat),
    let running (c : Ctl) (pos : Nat) : Option Nat := (c.loops.find? fun x => x.1 == pos).map Prod.snd
    let reached (s : State) (l : Nat) (c x : Ctl) (next : Nat) : Prop :=
      ∀ w cd' n' j' y cls p, c.table[next]? = some w → decodeCmd w.toNat = .ok (.loopArg cd' n' j') → findLine s.fab l = some y → s.calm →
        State.inSlice s l (y.args + 32 * j') 32 cls p → running x next = some ((s.word p).toNat % 65536)
    let looped (s u : State) (pos next count : Nat) (c : Ctl) : Prop :=
      State.CompletedAtIssue s u ∧ State.CtlBecame s u c.line c.tile c.num fun c x =>
        running x pos = (if count = 0 then none else some (count - 1)) ∧ (∀ p, p ≠ pos → p ≠ next → running x p = running c p)
          ∧ (next ≠ pos → ∀ k, running c next = some k → running x next = some k)
          ∧ (next ≠ pos → running c next = none → c.mode ≤ 1 → reached s c.line c x next)
    (∀ s l tile ct pos c, s.good → s.Issues l tile ct pos c cd →
      let count := (running c pos).getD k
      ∃ u, exec (.loop cd n k) s = .next u ∧ State.Issued s u l tile ct c (if count = 0 then pos + 1 else pos - n)
        ∧ looped s u pos (if count = 0 then pos + 1 else pos - n) count c)
    ∧ (∀ s l tile ct pos c, s.good → s.Issues l tile ct pos c cd → (running c pos = none → s.slotReady c j) →
      let count := (running c pos).getD ((s.slot c cd j).l0.toNat % 65536)
      ∃ u, exec (.loopArg cd n j) s = .next u ∧ State.Issued s u l tile ct c (if count = 0 then pos + 1 else pos - n)
        ∧ looped s u pos (if count = 0 then pos + 1 else pos - n) count c)
    ∧ Goes (.haltc cd) cd (fun _ c => c.mode ≠ 2) (fun pos _ => pos + 1) (fun s u pos c => State.CompletedAtIssue s u
        ∧ State.CtlBecame s u c.line c.tile c.num fun _ x => (c.mode = 0 → x.stopped = true)
            ∧ (c.mode = 1 → x.haltAt = some pos ∧ (openCmds s.fab c = [] → x.stopped = true)
                ∧ ((∃ y ∈ openCmds s.fab c, y.kind ≠ 3) → x.stopped = false)))

/-- R182, R273, R312, R313: BIND issues while the generator runs no pattern and no other bound pattern of the port is unended; it binds the pattern and the port
and completes. GO issues once a pattern is bound and none runs; the generator runs from visit 0, and the command stays outstanding until
the pattern ends. -/
def Rule.PatternCommands : Prop :=
  ∀ (cd : Cond) (g p r : Nat),
    Goes (.bind cd g p r) cd (fun s c => bindMay g p s.mem s.fab c = true) (fun pos _ => pos + 1) (fun s u _ c =>
      State.CompletedAtIssue s u ∧ State.GenBecame s u c.line c.tile g fun x y => y.port = p ∧ y.running = x.running ∧ y.ended = false
        ∧ y.visit = 0 ∧ y.lanes = [] ∧ ∀ q, c.pats[r]? = some q → y.pat = some q)
    ∧ Goes (.go cd g) cd (fun s c => ∃ x, findGen s.fab c.line c.tile g = some x ∧ x.pat.isSome = true ∧ x.running = false)
        (fun pos _ => pos + 1) (fun s u pos c => State.Outstanding s u c pos 2 g 0
          ∧ State.GenBecame s u c.line c.tile g fun x y => y.running = true ∧ y.pat = x.pat ∧ y.port = x.port ∧ y.visit = 0 ∧ y.id = s.fab.nextId)

/-- R148, R168, R181, R268, R365: BAR completes as it issues when the tile has no outstanding command, no copy entry in work and no token on an armed
queue whose entry is not complete, and is outstanding while it has an earlier one of these, BARs aside; WAITN is complete once the node's total count, less its value modulo 2^32, is below 2^31, and outstanding till then. The value is the
command's or lane 0 of an argument slot. -/
def Rule.BarriersAndWaits : Prop :=
  ∀ (cd : Cond) (n v j : Nat),
    let waits (s u : State) (pos v : Nat) (c : Ctl) : Prop :=
      let reached (k : Cnt) : Prop := (k.tot + 4294967296 - v % 4294967296) % 4294967296 < 2147483648
      (∀ k, findCnt s.fab c.line c.tile n = some k → reached k → ∀ y ∈ u.fab.cmds, y.id ≠ s.fab.nextId)
        ∧ (∀ k, findCnt s.fab c.line c.tile n = some k → ¬reached k → State.Outstanding s u c pos 4 n v)
    let armed (h : HwQ) : Prop := h.tmpl.isSome = true ∨ h.arming.isSome = true
    let stays (s u : State) (pos : Nat) (c : Ctl) : Prop :=
      State.Outstanding s u c pos 3 0 0 (placed := armedNow s.fab c.line c.tile)
    Goes (.bar cd) cd (fun _ _ => True) (fun pos _ => pos + 1) (fun s u pos c =>
      ((∀ y ∈ s.fab.cmds, ¬(y.line = c.line ∧ y.tile = c.tile)) →
          (∀ k ∈ s.fab.copies, k.line = c.line → k.tile = c.tile → k.busy = false) →
          (∀ h ∈ s.fab.hqs, h.line = c.line → h.tile = c.tile → armed h → placedNow s.fab c.line c.tile h.num ≤ h.entries) → ∀ y ∈ u.fab.cmds, y.id ≠ s.fab.nextId)
        ∧ ((∃ k ∈ s.fab.copies, k.line = c.line ∧ k.tile = c.tile ∧ k.busy = true ∧ k.id < s.fab.nextId) → stays s u pos c)
        ∧ ((∃ q h, findHq s.fab c.line c.tile q = some h ∧ armed h ∧ h.entries < placedNow s.fab c.line c.tile q) → stays s u pos c)
        ∧ ((∃ y ∈ s.fab.cmds, y.line = c.line ∧ y.tile = c.tile ∧ y.kind ≠ 3 ∧ y.id < s.fab.nextId
            ∧ ∀ z ∈ s.fab.cmds, z.id = y.id → z.kind ≠ 3) → stays s u pos c))
    ∧ Goes (.waitn cd n v) cd (fun _ _ => True) (fun pos _ => pos + 1) (fun s u pos c => waits s u pos v c)
    ∧ Goes (.waitnArg cd n j) cd (fun s c => s.slotReady c j) (fun pos _ => pos + 1) (fun s u pos c => waits s u pos (s.slot c cd j).l0.toNat c)

/-- R179, R280, R288, R354: ENAB issues while fewer enables are outstanding than the edge's enable window; the child gets an enable token, and the command stays
outstanding in seq mode. SIGD counts up to the done window; then its count is 0, a done token waits at the parent, and the oldest outstanding enable
ends. CNTW sets the windows of an edge with no enable outstanding. -/
def Rule.EnablesAndDones : Prop :=
  ∀ (cd : Cond) (n e d : Nat),
    Goes (.enab cd n) cd (fun s c => n ≠ c.num ∧ ∃ x, findCtl s.fab c.line c.tile n = some x ∧ x.enabOut.length < x.enabWin)
      (fun pos _ => pos + 1) (fun s u pos c =>
        (c.mode = 0 → State.Outstanding s u c pos 5 n 0) ∧ (c.mode ≠ 0 → State.CompletedAtIssue s u)
          ∧ State.CtlBecame s u c.line c.tile n fun x y => y.enabWait = x.enabWait + 1 ∧ y.enabOut = x.enabOut ++ [s.fab.nextId]
              ∧ y.pos = x.pos ∧ y.table = x.table)
    ∧ Goes (.sigd cd) cd (fun _ c => cd ≠ .token c.num) (fun pos _ => pos + 1) (fun s u _ c => State.CompletedAtIssue s u
        ∧ State.CtlBecame s u c.line c.tile c.num fun _ x =>
            (c.sigs + 1 < c.doneWin → x.sigs = c.sigs + 1 ∧ x.doneWait = c.doneWait ∧ x.enabOut = c.enabOut)
              ∧ (c.doneWin ≤ c.sigs + 1 → x.sigs = 0 ∧ x.doneWait = c.doneWait + 1 ∧ x.enabOut = c.enabOut.drop 1
                  ∧ ∀ k, c.enabOut.head? = some k → ∀ y ∈ u.fab.cmds, y.id ≠ k))
    ∧ Goes (.cntw cd n e d) cd (fun s c => ∃ x, findCtl s.fab c.line c.tile n = some x ∧ x.enabOut = []) (fun pos _ => pos + 1)
        (fun s u _ c => State.CompletedAtIssue s u
          ∧ State.CtlBecame s u c.line c.tile n fun _ y => y.enabWin = e ∧ y.doneWin = d ∧ y.sigs = 0 ∧ y.enabOut = [])

/-- R264, R289, R347: ARM, on a queue neither armed nor being armed or disarmed, fetches the template at the address in bytes 0 to 7 of its argument
slot and stays outstanding; DISARM of an armed queue stays outstanding until the queue is idle, its acknowledgement after what its controller comes
after, and of any other completes at once; QFEN records for the queues of its mask the tokens placed on each of them so far. -/
def Rule.QueueCommands : Prop :=
  ∀ (cd : Cond) (q j m : Nat),
    Goes (.arm cd q j) cd (fun s c => s.slotReady c j ∧ ∃ x, findHq s.fab c.line c.tile q = some x ∧ x.tmpl = none ∧ x.arming = none
        ∧ x.disarm = none) (fun pos _ => pos + 1) (fun s u pos c => State.Outstanding s u c pos 9 q 0
          ∧ State.HqBecame s u c.line c.tile q fun _ y => y.tmpl = none ∧ y.disarm = none ∧ y.armCmd = s.fab.nextId
              ∧ y.arming = some ((s.slot c cd j).l0.toNat + 4294967296 * (s.slot c cd j).l1.toNat))
    ∧ Goes (.disarm cd q) cd (fun s c => ∃ x, findHq s.fab c.line c.tile q = some x ∧ x.arming = none ∧ x.disarm = none)
        (fun pos _ => pos + 1) (fun s u pos c => ∀ x, findHq s.fab c.line c.tile q = some x →
          (x.tmpl.isSome = true → State.Outstanding s u c pos 10 q 0 ∧ ∃ k, findHq u.fab c.line c.tile q = some { x with disarm := some s.fab.nextId, know := k }
              ∧ (∀ i ∈ x.know, i ∈ k) ∧ ∀ i ∈ ctlKnow s.fab c, i ∈ k)
            ∧ (x.tmpl = none → State.CompletedAtIssue s u ∧ findHq u.fab c.line c.tile q = some x))
    ∧ Goes (.qfen cd m) cd (fun _ _ => True) (fun pos _ => pos + 1) (fun s u _ c => State.CompletedAtIssue s u
        ∧ ∀ n x, n < 8 → findHq s.fab c.line c.tile n = some x →
          (m.testBit n = false → findHq u.fab c.line c.tile n = some x)
            ∧ (m.testBit n = true → ∃ a b, findHq u.fab c.line c.tile n = some { x with fens := (a, b) :: x.fens }
                ∧ b = placedNow s.fab c.line c.tile n
                ∧ ∀ k w, (k, w) ∈ a ↔ k < 8 ∧ m.testBit k = true ∧ w = placedNow s.fab c.line c.tile k))

/-- R269, R270, R328: BEAT and MARK are sent to the line's source tile, where they arrive after the route latency, or one cycle in the source tile itself,
and stay outstanding. BEAT brings its own length, the length to set, or the policy in its argument slot. -/
def Rule.BeatCommands : Prop :=
  ∀ (cd : Cond) (j v : Nat),
    let sent (i : Instr) (may : State → Ctl → Prop) (kind : Nat) (b : State → Ctl → Option BeatCmd) : Prop :=
      Goes i cd may (fun pos _ => pos + 1) fun s u pos c => State.Outstanding s u c pos kind 0 0
        ∧ State.LineBecame s u c.line fun x y => y.posted = x.posted ++
            [⟨s.fab.cycle + (if c.tile = sourceTile s.fab c.line then 1 else routeTo s.fab c.line c.tile), c.tile, c.num, s.fab.nextId, b s c⟩]
              ∧ y.bel = x.bel ∧ y.marks = x.marks
    sent (.beatPolicy cd j) (fun s c => s.slotReady c j) 12 (fun s c => some (.policy (s.slot c cd j)))
    ∧ sent (.beatFixed cd v) (fun _ _ => True) 12 (fun _ _ => some (.fixed v))
    ∧ sent (.beatSet cd v) (fun _ _ => True) 12 (fun _ _ => some (.set v))
    ∧ sent (.mark cd) (fun _ _ => True) 13 (fun _ _ => none)

/-- R183, R351: RECFG takes its image's address from the argument slot. Behind another RECFG, or while the source is closed by one, it waits in its line's
queue; else its image is checked: one that is not there, or that the load check or a held mailbox end not the line's own refuses, is recorded as LOAD_ILLEGAL
and ends the command; one that passes closes the line's source, and the command waits for the drain. RSZ asks for the region's new size, lane 0 of its slot. -/
def Rule.ReconfigureAndResize : Prop :=
  ∀ (cd : Cond) (x j : Nat),
    Goes (.recfg cd j) cd (fun s c => s.slotReady c j) (fun pos _ => pos + 1) (fun s u pos c =>
      let at_ := (s.slot c cd j).l0.toNat + 4294967296 * (s.slot c cd j).l1.toNat
      let mine : Nat × Nat × Nat := (at_, c.tile, s.fab.nextId)
      State.LineBecame s u c.line fun y z =>
        (y.closing = true → z.closing = true ∧ z.state = y.state ∧ z.recfg = y.recfg ++ [mine] ∧ State.Outstanding s u c pos 14 0 0)
          ∧ (y.closing = false → y.recfg = [] →
              let f := withoutMailboxes s.fab c.line
              let passes (img : Image) : Prop := firstFail f img y.handler [] = none ∧ placementFail f img = none
              ((∃ img, findImage s.fab y.vf y.pasid at_ = some img ∧ passes img) →
                z.closing = true ∧ z.state = (if y.state = 2 then 4 else y.state) ∧ z.recfg = [mine] ∧ State.Outstanding s u c pos 14 0 0
                  ∧ u.fab.newRecs = s.fab.newRecs)
              ∧ ((∀ img, findImage s.fab y.vf y.pasid at_ = some img → ¬passes img) →
                z.closing = false ∧ z.state = y.state ∧ z.recfg = [] ∧ (∀ k ∈ u.fab.cmds, k.id ≠ s.fab.nextId)
                  ∧ State.OneRec s u fun r => r.code = 1 ∧ r.halted = false ∧ r.line = c.line)))
    ∧ Goes (.rsz cd x j) cd (fun s c => s.slotReady c j) (fun pos _ => pos + 1) (fun s u pos c => State.Outstanding s u c pos 15 x 0
        ∧ u.fab.resizes = s.fab.resizes ++ [⟨s.fab.nextId + 1, c.line, x, (s.slot c cd j).l0.toNat, s.fab.nextId⟩])

/-! ## The beat -/

/-- R33, R34, R269, R270: the bellows at an edge. It counts overruns, overflows and stretch cycles, saturating. A pending command sets the beat;
else a fixed beat stays; an overflow raises the beat where the policy says so; else at the end of a window of beats it is raised by UP when the
window's overruns reach HIGH, lowered by DOWN, not below MIN and the floor, when they are at most LOW with no stretch, and else kept. A policy sets
every field of R269's table from its six lanes, each put in its range by R33, and then the beat, within MIN and MAX and not below the floor; the floor
stays. A command that leaves the line adaptive restarts the window. -/
def Obligations.BellowsDecides : Prop :=
  ∀ (b : Bellows) (p : Option BeatCmd) (ovr ovf str l : Nat),
    let x := bellowsEdge p ovr ovf str b
    let n := min (b.wovr + ovr) 65535
    let still : Prop := b.wstr = false ∧ str = 0
    (x.ovr = min (b.ovr + ovr) (2 ^ 32 - 1) ∧ x.ovf = min (b.ovf + ovf) (2 ^ 32 - 1) ∧ x.str = min (b.str + str) (2 ^ 32 - 1))
    ∧ (p = none → b.fixed = true → x.beat = b.beat)
    ∧ (p = none → b.fixed = false → ovf ≠ 0 → b.ovfRaise = true → x.beat = min b.max (b.beat + b.up) ∧ x.wbeats = 0 ∧ x.wovr = 0)
    ∧ (p = none → b.fixed = false → ¬(ovf ≠ 0 ∧ b.ovfRaise = true) →
        (b.wbeats + 1 ≠ b.window → x.beat = b.beat ∧ x.wbeats = b.wbeats + 1 ∧ x.wovr = n)
        ∧ (b.wbeats + 1 = b.window → x.wbeats = 0 ∧ x.wovr = 0
            ∧ (b.high ≤ n → x.beat = min b.max (b.beat + b.up))
            ∧ (n < b.high → n ≤ b.low → still → x.beat = max (max b.min b.floor) (b.beat - b.down))
            ∧ (n < b.high → ¬(n ≤ b.low ∧ still) → x.beat = b.beat)))
    ∧ (p = some (.fixed l) → x.fixed = true ∧ x.beat = min 65535 (max b.floor l))
    ∧ (p = some (.set l) → x.fixed = b.fixed ∧ x.beat = if b.fixed then max b.floor l else min b.max (max (max b.min b.floor) l))
    ∧ (∀ v : Lanes, p = some (.policy v) →
        let lo (w : Word) : Nat := w.toNat % 65536
        let hi (w : Word) : Nat := w.toNat / 65536
        x.fixed = false ∧ x.ovfRaise = v.l0.getLsbD 16 ∧ x.floor = b.floor
          ∧ x.min = max (lo v.l1) 4 ∧ x.max = max (hi v.l1) (max x.min b.floor) ∧ x.up = lo v.l2 ∧ x.down = hi v.l2
          ∧ x.window = max (v.l3.toNat % 32768) 1 ∧ x.low = min (lo v.l4) 65534 ∧ x.high = max (hi v.l4) (x.low + 1)
          ∧ x.stall = max v.l5.toNat 1 ∧ x.beat = min x.max (max (max x.min b.floor) (lo v.l0)))
    ∧ (p.isSome = true → x.fixed = false → x.wovr = 0 ∧ x.wbeats = 0 ∧ x.wstr = false)
    ∧ x.stretched = false

/-- R16, R24, R27, R32, R34: BEAT_EDGE holds the edge where a station overflows, and changes nothing but its line; else, and at STRETCH_EDGE, the edge comes.
The line opens the next beat at cycle 0 with the bellows' decision. A station whose item is complete hands on the item's token to the next station,
one with neither item nor finished slot a bubble, one whose item is missing or unfinished its oldest finished item; an unfinished item goes to a loop
slot. A hand-off route that ends at a guarded port delivers a bubble (R226, R255). The copies of a voted station take one and the same item, and where
their outputs agree the station behind them takes copy 0's token, which is the model's choice (R177, log 82). No byte of memory changes in a line with no region swapped at
its beat. -/
def Obligations.EdgesMoveItems : Prop :=
  ∀ l : Nat,
    let fresh_ (t : Token) : Item := ⟨t.seq, t, none, [], none, false⟩
    let came (s u : State) (x : Line) : Prop :=
      let ss := stationsOf s.fab l
      (ss.map fun st => st.num).Nodup → (∃ y, findLine u.fab l = some y ∧ y.beatIx = x.beatIx + 1 ∧ y.beats = x.beats + 1 ∧ y.cyc = 0 ∧ y.overflowing = [] ∧ y.stretch = 0
        ∧ y.pendBeat = none
        ∧ y.bel = bellowsEdge x.pendBeat (ss.countP fun st => match st.item with | some it => !it.complete || it.late | none => false)
            x.overflowing.length x.stretch x.bel)
      ∧ (∀ k a, ss[k]? = some a →
          ((∀ st ∈ ss, st.vote = none) → ∀ b, ss[k + 1]? = some b → ∃ y, findStation u.fab l b.num = some y
            ∧ (∀ p, firstGuard s.fab l a.ports = some p → y.item = none)
            ∧ (firstGuard s.fab l a.ports = none → ∀ it, a.item = some it → it.complete = true →
                ∃ rel, y.item = some (fresh_ { handedOn it with rel := rel }))
            ∧ (a.item = none → a.resumed = none → oldest 2 a = none → y.item = none)
            ∧ (firstGuard s.fab l a.ports = none → (∀ it, a.item = some it → it.complete = false) → a.resumed = none →
                ∀ i sl, oldest 2 a = some i → a.loop[i]? = some sl → ∃ rel, y.item = some (fresh_ { sl.tok with rel := rel })))
          ∧ (∀ it, a.item = some it → it.complete = false → a.resumed = none → overflows a = false →
              ∃ y sl, findStation u.fab l a.num = some y ∧ sl ∈ y.loop ∧ sl.state = 1 ∧ sl.tok = it.desc))
      ∧ (∀ a ∈ ss, ∀ b ∈ ss, stageOf ss a.num = stageOf ss b.num →
          ∃ y z, findStation u.fab l a.num = some y ∧ findStation u.fab l b.num = some z ∧ y.item = z.item)
      ∧ (∀ pre c0 c1 c2 b post v x i0 i1 i2, ss = pre ++ c0 :: c1 :: c2 :: b :: post → (∀ st ∈ pre, st.vote = none) → b.vote = none →
          c0.vote = some (v, 0) → c1.vote = some (v, 1) → c2.vote = some (v, 2) → findVoter s.fab l v = some x → voterChan s.fab l v = none →
          x.held = [] → x.fwd = [] → x.wait = [] → x.out = [] → (∀ st ∈ [c0, c1, c2], firstGuard s.fab l st.ports = none) →
          c0.item = some i0 → c1.item = some i1 → c2.item = some i2 → i0.complete = true → i1.complete = true → i2.complete = true →
          sameToken (handedOn i0) (handedOn i1) = true → sameToken (handedOn i0) (handedOn i2) = true →
          (handedOn i1).seq = (handedOn i0).seq → (handedOn i2).seq = (handedOn i0).seq →
            ∃ y rel, findStation u.fab l b.num = some y ∧ y.item = some (fresh_ { handedOn i0 with rel := rel }))
      ∧ ((∀ r ∈ s.fab.regions, r.line = l → r.planes ≠ 2) → u.mem = s.mem)
    Happens (.beatEdge l) (beatEdgeDue l) (fun s u => ∀ x, findLine s.fab l = some x →
      ((∃ st ∈ stationsOf s.fab l, overflows st = true) →
        u.fab = { newAccess s.fab with lines := u.fab.lines } ∧ u.mem = s.mem
          ∧ findLine u.fab l = some { x with
              overflowing := ((stationsOf s.fab l).filter overflows).map (fun st => st.num), stretch := 0, stallFrom := 0
              bel := { x.bel with stretched := true } })
      ∧ ((∀ st ∈ stationsOf s.fab l, overflows st = false) → came s u x))
    ∧ Happens (.stretchEdge l) (stretchEdgeDue l) (fun s u => ∀ x, findLine s.fab l = some x → came s u x)

/-- R28, R29, R36, R368: LINE_FIRST_EDGE opens beat 0: the token at the head of the line's input enters the source station with the line's next sequence
number, unless the window of R29, a gap beat, a closed input or pre-emption markers keep it out. A BEAT command accepted before takes effect, which is the
model's choice (log 33). No byte of memory changes in a line
with no region swapped at its beat. -/
def Rule.LinesBegin : Prop :=
  ∀ l : Nat, Happens (.lineFirstEdge l) (lineFirstEdgeDue l) fun s u =>
    ((∀ r ∈ s.fab.regions, r.line = l → r.planes ≠ 2) → u.mem = s.mem) ∧ ∀ x, findLine s.fab l = some x →
    ∃ y, findLine u.fab l = some y ∧ y.begun = true ∧ y.cyc = 0 ∧ y.beatIx = x.beatIx ∧ y.beats = x.beats
      ∧ y.pendBeat = none ∧ (x.pendBeat = none → y.bel = x.bel) ∧ (∀ c, x.pendBeat = some c → y.bel = x.bel.apply c)
      ∧ ∀ t, inputHead s.fab x = some t → isEos t.tag = false → x.eosTok = none → x.closing = false →
          ¬(x.preempt = true ∧ hasHalted s.fab l = false) → ¬(2 ≤ x.gap ∧ (x.beatIx + 1) % x.gap = 0) →
          (x.unordered = false → (x.nextSeq + 65536 - x.next) % 65536 ≤ lineW s.fab l) →
          (x.unordered = true → x.cls = 0 ∨ x.kept.length ≤ lineW s.fab l) →
            y.nextSeq = (x.nextSeq + 1) % 65536 ∧ y.admitted = x.admitted + 1
              ∧ State.StationBecame s u l x.source fun st z =>
                  z = { st with item := some ⟨x.nextSeq, { t with seq := x.nextSeq }, none, [], none, false⟩, itemAt := s.fab.cycle + 1 }

/-- R20, R25, R37, R48, R237, R238: LINE_STALL records code 10 and stops its line. REWORK_RESUME gives its station the oldest waiting item, two cycles of restore, the
saved carry set and the predicates' start values. EOS_COMMIT commits a pending end-of-stream mark behind what the channel has, and discards one to a
closed channel, which is the model's choice (log 24). TRACE_WALK ends the line's sample and moves the trace tail by a record for each six hops. -/
def Rule.StallsAndResumptions : Prop :=
  ∀ (l n th h : Nat),
    Happens (.lineStall l) (lineStallDue l) (fun s u => u.mem = s.mem ∧ ∀ x, findLine s.fab l = some x →
        State.OneRec s u (fun r => r.code = 10 ∧ r.line = l ∧ r.halted = true ∧ r.resumable = true)
          ∧ findLine u.fab l = some { x with stop := some 10, state := 5 }
          ∧ u.fab = { newAccess s.fab with lines := u.fab.lines, newRecs := u.fab.newRecs })
    ∧ Happens (.reworkResume l n) (reworkResumeDue l n) (fun s u => u.mem = s.mem ∧ ∀ st i sl, findStation s.fab l n = some st →
        oldest 1 st = some i → st.loop[i]? = some sl →
          (∃ y, findStation u.fab l n = some y ∧ y.resumed = some (i, ⟨sl.tok.seq, sl.tok, none, [], none, false⟩) ∧ y.restore = 2
            ∧ y.loop[i]? = some { sl with state := 3 } ∧ y.item = st.item)
          ∧ (∀ k ∈ st.elems, State.ElemBecame s u l k fun e z => z.preds = e.start)
          ∧ (st.carry.Nodup → (∀ c ∈ st.carry, c.2 < 8 ∨ 64 ≤ c.2 ∧ c.2 < 128) → ∀ (k : Nat) (c : Nat × Nat) (r : Reg), st.carry[k]? = some c →
              sl.carry[k]? = some r →
              State.ElemBecame s u l c.1 fun _ z => z.entry c.2 = r))
    ∧ Happens (.eosCommit l th h) (eosCommitDue l th h) (fun s u => u.mem = s.mem ∧ ∀ e a k c t, findElem s.fab l th = some e →
        vget e.h h = .chan a k → findChan s.fab a k = some c → c.pend = some t → State.ChansBut s u [(a, k)]
          ∧ ∃ c', findChan u.fab a k = some c' ∧ c'.pend = none
              ∧ (c.closed = true → c' = { c with pend := none })
              ∧ (c.closed = false → c.staged = [] → c'.staged = [] ∧ Chan.Took c c' s.fab.cycle [t]))
    ∧ Happens (.traceWalk l) (traceWalkDue l) (fun s u => ∀ x w, findLine s.fab l = some x → x.walk = some w →
        findLine u.fab l = some { x with walk := none }
          ∧ ((getPart s.fab x.vf).trcLog = 0 → u.mem = s.mem)
          ∧ ∀ hops z, walkHops s.fab l 32 w.th w.h = (hops, z) → hops ≠ [] → (getPart s.fab x.vf).trcLog ≠ 0 →
              (getPart u.fab x.vf).trcTail = ((getPart s.fab x.vf).trcTail + (hops.length + 5) / 6) % 2 ^ (getPart s.fab x.vf).trcLog)

/-! ## Accesses -/

/-- R9, R138, R158, R317: LOAD_RETURN removes its access and changes no byte of memory; the words of its lanes, or the eight words at its lowest
address, come to its register and `lat`, with the poison of its offsets: of a word that a window's base leaves unaligned, the bytes of the two aligned words it
lies in (R376). Stated where memory holds no error and each word has one value to give. -/
def Rule.LoadsReturn : Prop :=
  ∀ id : Nat, Happens (.loadReturn id) (loadReturnDue id) fun s u => u.mem = s.mem ∧ findAcc u.fab id = none
    ∧ ∀ a, findAcc s.fab id = some a → s.calm → s.settled a.line a.know a.late →
        ∃ r, State.Answered s u a.line a.th id r ∧ r.poison = a.poison
          ∧ ∀ i rs, i < 8 → (accRuns s.fab a)[i]? = some rs → (∀ x ∈ accRuns s.fab a, s.sound x) → r.v.get i = s.runWord rs

/-- R118, R119, R121, R158, R123, R133, R295, R358, R359: STORE_ACCEPT removes its access and writes its words, the last of those that name a byte remaining, and no other byte, no
element and no channel changes; a word that a window's base leaves unaligned is its bytes in two aligned words (R376), and in a planed region it leaves
the others of each as its own contribution, else the present word, has them; an access that cannot contribute all its words to planed regions writes nothing, halts and records
PLANE_OVF. A store into planed regions is its element's contribution to each word, in the step it was issued in; what others contribute and every byte of
memory, the present plane's with them, stand, where no region has overflow pages. A FENCE ends and changes no byte. -/
def Obligations.StoresAreAccepted : Prop :=
  ∀ id : Nat, Happens (.storeAccept id) (storeAcceptDue id) fun s u => ∀ a, findAcc s.fab id = some a →
    (a.kind = .fence → findAcc u.fab id = none ∧ u.mem = s.mem ∧ u.fab.chans = s.fab.chans)
    ∧ ∀ w, a.kind ≠ .fence → accWindow s.fab a = some w →
        let lanes := accRuns s.fab a
        let left := storeAll s.mem a (lastLanes (storeRuns s.fab a)) (newAccess s.fab)
        (s.calm → (∀ rs ∈ lanes, ∀ x ∈ rs, x.planed = false) →
          findAcc u.fab id = none ∧ u.fab.elems = s.fab.elems ∧ u.fab.chans = s.fab.chans
            ∧ (∀ i rs, lanes[i]? = some rs → (rs.map Run.len).sum = 4 → rs.Pairwise Run.apart →
                (∀ j ss, i < j → lanes[j]? = some ss → ∀ x ∈ rs, ∀ y ∈ ss, x.apart y) → u.runWord rs = a.data.get i)
            ∧ ∀ b, (∀ rs ∈ lanes, ∀ x ∈ rs, b < x.phys ∨ x.phys + x.len ≤ b) → u.byte b = s.byte b)
        ∧ ((∀ rs ∈ lanes, ∀ x ∈ rs, x.planed = true) → left ≠ none →
          findAcc u.fab id = none ∧ u.fab.elems = s.fab.elems ∧ u.fab.chans = s.fab.chans
            ∧ ((∀ r ∈ s.fab.regions, r.ovfPages = []) → u.mem = s.mem)
            ∧ ∀ rg, findRegion s.fab a.line rg.num = some rg → ∃ y, findRegion u.fab a.line rg.num = some y
                ∧ y = { rg with contribs := y.contribs } ∧ (∀ c, c.who ≠ a.th → (c ∈ y.contribs ↔ c ∈ rg.contribs))
                ∧ ∀ i rs x, lanes[i]? = some rs → x ∈ rs → (rs.map Run.len).sum = 4 → regionAt s.fab a.line x.va = some rg → rg.at_ % 4 = 0 →
                    (∀ r ∈ s.fab.regions, r.line = a.line → r.num = rg.num → r = rg) →
                    (∀ j ss, i < j → lanes[j]? = some ss → ∀ z ∈ ss, z.apart x ∧ (z.va + z.len ≤ x.va ∨ x.va + x.len ≤ z.va)) →
                    let w := (x.va - regionArea - rg.at_) / 4
                    let st := ((a.stepAt.find? fun k => k.1 == rg.num).map Prod.snd).getD (stepOf s.fab rg)
                    let own := ((rg.contribs.find? fun c => c.word == w && c.who == a.th && c.step == st).map fun c => c.val).getD
                      (s.word (regionWord s.fab rg w))
                    ∃ c ∈ y.contribs, c.word = w ∧ c.who = a.th ∧ c.poison = a.poison ∧ c.step = st
                      ∧ (∀ k, k < x.len → (leBytes 4 c.val.toNat)[x.va % 4 + k]?
                          = (leBytes 4 (a.data.get i).toNat)[(if x.va % 4 = 0 then 4 - x.len else 0) + k]?)
                      ∧ (s.calm → (∀ ss ∈ lanes, ∀ z ∈ ss, z.va / 4 = x.va / 4 → z = x) → ∀ k, k < x.va % 4 ∨ x.va % 4 + x.len ≤ k →
                          (leBytes 4 c.val.toNat)[k]? = (leBytes 4 own.toNat)[k]?))
        ∧ (left = none → u.mem = s.mem
            ∧ findAcc u.fab id = some { a with halted := true, phys := [], keys := [], miss := false, got := [], gotRels := [] }
            ∧ State.OneRec s u fun r => r.code = 9 ∧ r.line = a.line ∧ r.halted = true)

/-- R146, R266, R276: ATOMIC_RETURN performs words of its access, each an atomic of its own, and with the last gives `lat` the old words. It writes, for
ATOM, the result of its operation, whatever SAT and with nearest-even rounding, and for CAS its operand where the old word equals the compared one; no
other byte changes. How many words one event performs is a free number, at least one (the model's choice, log 75). Stated for eight disjoint words, where
memory holds no error and, for CAS, no page's quota bit is to be set. The clause about an ATOM whose words lie in planed regions is the model's choice (log 21): R118 and R267 have an
ATOM through a window onto such a region refused at load, and through a window whose base is a launch argument into the region area the model lets
it write the next plane, so that no byte of memory changes. -/
def Rule.AtomicsReturn : Prop :=
  ∀ id : Nat, Happens (.atomicReturn id) (atomicReturnDue id) fun s u => ∀ a e w, findAcc s.fab id = some a →
    findElem s.fab a.line a.th = some e → accWindow s.fab a = some w → s.calm →
    (∀ op, a.kind = .atom op → (∀ rs ∈ accRuns s.fab a, ∀ x ∈ rs, x.planed = true) → (∀ r ∈ s.fab.regions, r.ovfPages = []) → u.mem = s.mem)
    ∧ ∀ p : Nat → List Run, (∀ i, i < 8 → (accRuns s.fab a)[i]? = some (p i) ∧ s.sound (p i) ∧ (p i).Pairwise Run.apart
        ∧ ∀ x ∈ p i, x.planed = false) → (accRuns s.fab a).length = 8 →
      (∀ i j, i < 8 → j < 8 → i ≠ j → ∀ x ∈ p i, ∀ y ∈ p j, x.apart y) →
      let left := (List.range 8).filter fun i => !(a.got.any fun g => g.1 == i)
      let share := atomShare a (newAccess s.fab)
      let now := left.take share.1
      let free : Prop :=
        let q := casCharges s.mem a (fun i => s.runWord (p i)) now share.2
        q.1 = none ∧ q.2.posted = [] ∧ q.2.scrub = [] ∧ q.2.accs = s.fab.accs
      let rule (op : Nat) (x y r : Word) : Prop :=
        match op with
        | 0 => ∀ n, n < 32 / intWidth e.ifmt →
            Governed false (intWidth e.ifmt) (elemS x n (intWidth e.ifmt) + elemS y n (intWidth e.ifmt)) (elemS r n (intWidth e.ifmt))
        | 1 => ∀ n, n < 32 / intWidth e.ifmt → elemS r n (intWidth e.ifmt) = min (elemS x n (intWidth e.ifmt)) (elemS y n (intWidth e.ifmt))
        | 2 => ∀ n, n < 32 / intWidth e.ifmt → elemS r n (intWidth e.ifmt) = max (elemS x n (intWidth e.ifmt)) (elemS y n (intWidth e.ifmt))
        | 3 => r = x &&& y
        | 4 => r = x ||| y
        | 5 => r = x ^^^ y
        | 6 => r = y
        | _ => ∀ n, n < 32 / (floatFmt e.ffmt).width → elemU r n (floatFmt e.ffmt).width
            = roundFV (floatFmt e.ffmt) 0 (fAdd 0 (fval (floatFmt e.ffmt) (elemU x n (floatFmt e.ffmt).width))
                (fval (floatFmt e.ffmt) (elemU y n (floatFmt e.ffmt).width)))
      (a.kind = .cas → free) →
        (left ≠ [] → now ≠ [])
        ∧ (∀ op, a.kind = .atom op → ∀ i ∈ now, rule op (s.runWord (p i)) (a.data.get i) (u.runWord (p i)))
        ∧ (a.kind = .cas → ∀ i ∈ now, u.runWord (p i) = if s.runWord (p i) = a.cmp.get i then a.data.get i else s.runWord (p i))
        ∧ (∀ b, (∀ i ∈ now, ∀ x ∈ p i, b < x.phys ∨ x.phys + x.len ≤ b) → u.byte b = s.byte b)
        ∧ (now = left → findAcc u.fab id = none
            ∧ ∃ r, State.Answered s u a.line a.th id r ∧ ∀ i, i < 8 → r.v.get i = if i ∈ now then s.runWord (p i) else gotLane a.got i)
        ∧ (now ≠ left → ∃ b, findAcc u.fab id = some b ∧ b = { a with got := b.got, gotRels := b.gotRels }
            ∧ b.got.map Prod.fst = a.got.map Prod.fst ++ now ∧ ∀ i ∈ now, gotLane b.got i = s.runWord (p i))

/-- R115, R198, R201, R376: XLAT_LOOKUP changes no byte of memory. A lane that is misaligned or passes the window's length, and every lane of a negative immediate, faults with BOUNDS,
the window's handle and the size in its detail, which is the model's choice (log 21), and the lowest such offset as its address; where the interface
translates, the words in slice regions are placed at once, the two runs of one that a window's base leaves unaligned each for itself, and the first of the
region area that no region wholly covers faults with XLAT_FAULT, detail 0x70 and its address. That an unaligned base is accepted is the model's choice (log
92). WALK_RESULT places the one
row of a vector load that missed where the walk finds a leaf, and faults with XLAT_FAULT where it finds none. -/
def Obligations.AccessesAreTranslated : Prop :=
  ∀ id : Nat,
    Happens (.xlatLookup id) (xlatLookupDue id) (fun s u => u.mem = s.mem ∧ ∀ a w, findAcc s.fab id = some a → accWindow s.fab a = some w →
      let offs := accOffsets a.kind a.off
      let bad (o : Nat) : Prop := a.negOff = true ∨ o % a.kind.size ≠ 0 ∨ w.len < o + a.kind.size
      ((∃ o ∈ offs, bad o) →
        findAcc u.fab id = some { a with halted := true, phys := [], keys := [], miss := false, got := [], gotRels := [] }
          ∧ State.OneRec s u fun r => r.code = 2 ∧ r.line = a.line ∧ r.detail = a.win + 256 * a.kind.size
              ∧ (∃ o ∈ offs, bad o ∧ r.addr = o) ∧ ∀ o ∈ offs, bad o → r.addr ≤ o)
      ∧ ((∀ o ∈ offs, ¬bad o) → (∃ x, findLine s.fab a.line = some x ∧ (getIface s.fab x.vf x.pasid).rootEn = true) →
          let ws := (accWords a.kind a.off).flatMap fun o => wordParts (w.base + o)
          let covered (x : Nat × Nat) : Prop := ∃ r, regionAt s.fab a.line x.1 = some r ∧ regionAt s.fab a.line (x.1 + x.2 - 1) = some r
          let inSlice (x : Nat × Nat) : Prop := x.1 < 2 ^ 55 ∧ covered x ∧ ∀ r, regionAt s.fab a.line x.1 = some r → r.slice = true
          ((∀ x ∈ ws, inSlice x) →
            u.fab.newRecs = s.fab.newRecs ∧ ∃ ps, findAcc u.fab id = some { a with phys := ps, miss := false } ∧ ps.length = ws.length
              ∧ ∀ (i : Nat) (x : Nat × Nat) (r : Region), ws[i]? = some x → regionAt s.fab a.line x.1 = some r →
                  ps[i]? = some (some (sliceAddr s.fab a.line r.tile (r.base + (x.1 - regionArea - r.at_)), r.planes != 0, r.cls)))
          ∧ (∀ pre x post, ws = pre ++ x :: post → (∀ p ∈ pre, inSlice p) → regionArea ≤ x.1 → x.1 < 2 ^ 55 → ¬covered x →
              findAcc u.fab id = some { a with halted := true, phys := [], keys := [], miss := false, got := [], gotRels := [] }
                ∧ State.OneRec s u fun r => r.code = 3 ∧ r.line = a.line ∧ r.detail = 0x70 ∧ r.addr = x.1)))
    ∧ Happens (.walkResult id) (walkResultDue id) (fun s u => ∀ a w o x, findAcc s.fab id = some a → accWindow s.fab a = some w →
        let ws := (accWords a.kind a.off).flatMap fun y => wordParts (w.base + y)
        a.kind = .ldv → o = a.off.l0.toNat → a.phys = List.replicate ws.length none → w.base + o + 32 ≤ regionArea → (w.base + o) % 65536 + 32 ≤ 65536 → s.calm →
        findLine s.fab a.line = some x → (∀ b ∈ s.fab.accs, b.id = id ∨ sharesWalk s.fab a.line (tileOf a.th) (w.base + o) b = false) →
        keptPlace s.fab a.line (tileOf a.th) a.gen a.window (w.base + o) .read = none →
          let f := newAccess s.fab
          let found := (walk s.mem { Rec.ofLine f a.line 7 with bolt := tileOf a.th / 16, tile := tileOf a.th % 16 } f x.vf x.pasid (w.base + o)).1
          u.mem = s.mem
          ∧ (∀ d, found = .error d →
              findAcc u.fab id = some { a with halted := true, phys := [], keys := [], miss := false, got := [], gotRels := [] }
                ∧ State.OneRec s u fun r => r.code = 3 ∧ r.detail = d ∧ r.addr = w.base + o)
          ∧ ∀ pte big at_ pg, found = .ok (pte, big, at_, pg) → leafCheck s.fab x.vf (some x.cls) pte big false = none →
              ∃ ks, findAcc u.fab id = some { a with
                  phys := ws.map fun y => some ((leafPlace x.vf pte big (w.base + o)).phys + (y.1 - (w.base + o)), false, pte.cls)
                  keys := ks, miss := false }
                ∧ (ks = a.keys ∨ ks = addNew (cacheKey big pg) a.keys))

/-! ## Engines -/

/-- R115, R161, R206, R253, R312: PATTERN_VISIT: an offset out of the window's bounds halts the generator with BOUNDS, its window and its lane in the record (what a
pattern's record holds of these is the model's choice, log 21, and so is that offsets are unbounded integers, log 93); a read puts the word it reads behind the lanes
gathered, or a token of eight words in the port's link register; a write stores the eight words of the next token of its port's channel; the visit after the last puts
an end-of-stream of rank 1 in the link register and ends the pattern. A read visit whose token a resume has dropped (R206) gives zero lanes, poisoned. -/
def Obligations.PatternsVisit : Prop :=
  ∀ (l tile g : Nat), Happens (.patternVisit l tile g) (patternVisitDue l tile g) fun s u => ∀ x p, findGen s.fab l tile g = some x →
    x.pat = some p →
    (p.total ≤ x.visit → u.mem = s.mem ∧ (∀ c ∈ u.fab.cmds, ¬(c.line = l ∧ c.tile = tile ∧ c.kind = 2 ∧ c.arg = g))
      ∧ ∃ y, findGen u.fab l tile g = some y ∧ y.running = false ∧ y.ended = true
          ∧ State.LinkGot s u l tile x.port g ⟨Lanes.zero, 3, false, 0xFFF, 0, x.know⟩)
    ∧ (x.visit < p.total → x.skip = true → p.write = false → p.size = 4 ∨ p.size = 32 → u.mem = s.mem ∧ u.fab.newRecs = s.fab.newRecs
        ∧ ∃ y, findGen u.fab l tile g = some y ∧ y.visit = x.visit + 1 ∧ y.skip = false
          ∧ (p.size = 4 → x.lanes.length < 7 → x.visit + 1 < p.total → y.lanes = x.lanes ++ [(0, true)])
          ∧ (p.size = 32 → x.lanes = [] → ∃ t, State.LinkGot s u l tile x.port g t ∧ t.tag = 0 ∧ t.poison = true ∧ ∀ i, i < 8 → t.payload.get i = 0))
    ∧ (x.visit < p.total → x.skip = false →
        (p.offset x.visit < 0 ∨ p.offset x.visit % p.size ≠ 0 ∨ (p.win.len : Int) < p.offset x.visit + p.size →
          u.mem = s.mem ∧ findGen u.fab l tile g = some { x with halted := true }
            ∧ State.OneRec s u fun r => r.code = 2 ∧ r.line = l ∧ r.detail = p.winNum % 8 + 256 * p.size ∧ r.mask = 2 ^ visitLane x p)
        ∧ ∀ o c phys, p.offset x.visit = (o : Nat) → o % p.size = 0 → o + p.size ≤ p.win.len → s.calm →
            State.inSlice s l (p.win.base + o) p.size c phys →
            (p.write = false → p.size = 4 ∨ p.size = 32 → s.settled l x.know → u.mem = s.mem ∧ ∃ y, findGen u.fab l tile g = some y ∧ y.visit = x.visit + 1
              ∧ (p.size = 4 → x.lanes.length < 7 → x.visit + 1 < p.total → y.lanes = x.lanes ++ [(s.word phys, false)]
                  ∧ State.TileBecame s u l tile fun a b => b.links = a.links)
              ∧ (p.size = 32 → x.lanes = [] → ∃ t, State.LinkGot s u l tile x.port g t ∧ t.tag = 0 ∧ t.seq = 0 ∧ t.node = 0xFFF ∧ t.poison = false
                  ∧ ∀ i, i < 8 → t.payload.get i = s.word (phys + 4 * i)))
            ∧ (p.write = true → p.size = 32 → x.lanes = [] → ∀ k t, portChan s.fab l tile g x.port true = some k → (visible s.fab k).head? = some t →
                (∀ i, i < 8 → u.word (phys + 4 * i) = t.payload.get i) ∧ State.memBut s u phys 32
                  ∧ ∃ y, findGen u.fab l tile g = some y ∧ y.visit = x.visit + 1))

/-- R164, R165, R347: COPY_ENTRY takes the queue's next token and starts an entry of the template's rows, or of lane 2's where that is not zero, at write pointer 0. COPY_BEAT
moves the 32 bytes at its source to its destination, whole, and raises the write pointer by 32; that the pointer wraps at 2^32 is the model's choice (log
84). Stated for a source and a destination in slice regions. -/
def Obligations.CopiesMove : Prop :=
  ∀ (l tile q ch : Nat),
    Happens (.copyEntry l tile q) (copyEntryDue l tile q) (fun s u => u.mem = s.mem ∧ ∀ h k t tok, findHq s.fab l tile q = some h →
      chanTo s.fab l (.queue tile q) = some k → h.tmpl = some t → (visible s.fab k).head? = some tok →
        State.CopyBecame s u l tile (q / 4) (fun _ y => y.busy = true ∧ y.queue = q ∧ y.wp = 0 ∧ y.row = 0 ∧ y.branch = 0 ∧ y.off = 0
          ∧ y.tok = tok ∧ y.id = s.fab.nextId ∧ y.rows = if tok.payload.l2.toNat = 0 then t.rows else tok.payload.l2.toNat)
        ∧ findHq u.fab l tile q = some { h with started := h.started + 1 }
        ∧ State.ChanBecame s u k.line k.num fun c c' => c'.q = c.q.drop 1)
    ∧ Happens (.copyBeat l tile ch) (copyBeatDue l tile ch) (fun s u => ∀ c h t sv dv sc dc sp dp, findCopy s.fab l tile ch = some c →
        findHq s.fab l tile c.queue = some h → h.tmpl = some t → t.gather = false → t.wbuf = false → t.remote = false → s.calm → s.settled l (union (permitKnow s.fab c) c.know) →
        copySrc t c 0 = ((sv : Nat) : Int) → copyDst t c = ((dv : Nat) : Int) → State.inSlice s l sv 32 sc sp → State.inSlice s l dv 32 dc dp →
        (t.cross = false → dc ≤ sc) → sc ≤ 2 →
          (∀ i, i < 32 → u.byte (dp + i) = s.byte (sp + i)) ∧ State.memBut s u dp 32
            ∧ State.CopyBecame s u l tile ch fun _ y => y.wp = (c.wp + 32) % 2 ^ 32
                ∧ y.off = if t.rowb ≤ c.off + 32 then 0 else c.off + 32)

/-- R164, R169, R204, R228: ROW_REFUSED halts its channel at the oldest row not acknowledged, with the code and detail the refusing device names: that these may be
others than XLAT_FAULT and 0x60 is the model's reading (log 46). MCAST_JOIN_TOKEN pops the join's token and, when every
branch has a space, takes one from each for a permit, which comes after what those spaces' tokens released (R143). REMOTE_WRITE at or beyond the end of the peer space or from another device than SRCDEV writes nothing; a row that translates to one
page is written there, whole. -/
def Obligations.RemoteAndMulticast : Prop :=
  ∀ (l tile q k ch vf ps dev addr code detail : Nat) (row : RowData),
    Happens (.rowRefused l tile ⟨ch, code, detail⟩) (rowRefusedDue l tile ch) (fun s u => u.mem = s.mem ∧ ∀ a n br c,
      s.fab.acks.find? (fun a => a.line == l && a.tile == tile && (match a.remote with | some r => r.1 == ch | none => false)) = some a →
      a.remote = some (ch, n, br) → findCopy s.fab l tile ch = some c →
        State.OneRec s u (fun r => r.code = code ∧ r.detail = detail ∧ r.line = l)
          ∧ ∃ y, findCopy u.fab l tile ch = some y ∧ y.halted = true ∧ y.row = n ∧ y.branch = br ∧ y.off = 0 ∧ y.beatsDone = false)
    ∧ Happens (.mcastJoinToken l tile q k) (mcastJoinTokenDue l tile q k) (fun s u => u.mem = s.mem ∧ ∀ c h t,
        chanTo s.fab l (.join tile q k) = some c → findHq s.fab l tile q = some h → h.joins.length = 16 → k < 16 → h.tmpl = some t → t.mbr ≠ 0 →
          State.ChanBecame s u c.line c.num (fun z z' => z'.q = z.q.drop 1)
            ∧ ∃ y, findHq u.fab l tile q = some y ∧ y.joins.length = 16
                ∧ let n (i : Nat) : Nat := (h.joins.getD i []).length + (if i = k then 1 else 0)
                  ((∀ i, i < t.mbr → i < 16 → 1 ≤ n i) → (∃ p, y.permits = h.permits ++ [p]
                      ∧ (∀ i sp, i < t.mbr → i < 16 → (h.joins.getD i []).head? = some sp → ∀ z ∈ sp, z ∈ p)
                      ∧ (h.joins.getD k [] = [] → k < t.mbr → ∀ tok, (visible s.fab c).head? = some tok → ∀ z ∈ tok.rel, z ∈ p))
                    ∧ ∀ i, i < 16 → (y.joins.getD i []).length = if i < t.mbr then n i - 1 else n i)
                  ∧ ((∃ i, i < t.mbr ∧ i < 16 ∧ n i = 0) → y.permits = h.permits ∧ ∀ i, i < 16 → (y.joins.getD i []).length = n i))
    ∧ Happens (.remoteWrite vf ps dev addr row) remoteWriteDue (fun s u =>
        let i := getIface s.fab vf ps
        let va := i.peerBase * 65536 + addr
        let outside : Prop := i.peerLen * 65536 ≤ addr ∨ (i.peerDev ≠ 0x3FFFFF ∧ i.peerDev ≠ dev)
        (outside → u.mem = s.mem ∧ u.fab = newAccess s.fab)
        ∧ ∀ p g, ¬outside → va % 65536 + row.bytes.length ≤ 65536 → s.calm →
            peerXlate s.mem (fresh (newAccess s.fab)).2 vf ps va = (some p, g) → g.posted = [] → g.scrub = [] → g.errs = [] →
              (∀ j b, row.bytes[j]? = some b → u.byte (p.phys + j) = b) ∧ State.memBut s u p.phys row.bytes.length)

/-- R163: the checks of a control block's 64 bytes: zero fields, ranges, and a weight-buffer destination. ASTAT's bits are not among them, which is the
model's choice (log 78). -/
def Rule.ControlBlock (bs : List Byte) : Prop :=
  let F := fieldOf bs
  F 0x01 1 = 0 ∧ F 0x02 1 < 32 ∧ F 0x03 1 = 0 ∧ F 0x36 2 = 0 ∧ F 0x00 1 / 32 ≤ 5 ∧ F 0x08 8 < 2 ^ 55
    ∧ (32 ≤ F 0x18 4 ∧ F 0x18 4 ≤ 2 ^ 24 ∧ F 0x18 4 % 32 = 0) ∧ (1 ≤ F 0x1C 4 ∧ F 0x1C 4 ≤ 2 ^ 24)
    ∧ ((F 0 1).testBit 0 = true → F 0x28 8 % 4 = 0) ∧ ((F 0 1).testBit 0 = false → F 0x28 8 = 0)
    ∧ ((F 0 1).testBit 2 = true → F 0x30 4 < 2 ^ 22) ∧ ((F 0 1).testBit 2 = false → F 0x30 4 = 0)
    ∧ ((F 0 1).testBit 3 = true → (2 ≤ F 0x34 1 ∧ F 0x34 1 ≤ 16) ∧ 1 ≤ F 0x35 1 ∧ F 0x35 1 ≤ 8) ∧ ((F 0 1).testBit 3 = false → F 0x34 1 = 0 ∧ F 0x35 1 = 0)
    ∧ ((F 0 1).testBit 4 = true → F 0x10 8 < 2 ^ 19 ∧ F 0x10 8 % 32 = 0)

/-- R163: the fields of a control block at an address, in the queue's copy. -/
def Rule.TemplateOf (bs : List Byte) (addr : Nat) (t : Template) : Prop :=
  let F := fieldOf bs
  let S (o : Nat) : Int := (BitVec.ofNat 32 (F o 4)).toInt
  t.addr = addr ∧ t.gather = (F 0 1).testBit 0 ∧ t.cross = (F 0 1).testBit 1 ∧ t.remote = (F 0 1).testBit 2 ∧ t.mcast = (F 0 1).testBit 3
    ∧ t.wbuf = (F 0 1).testBit 4 ∧ t.scope = F 0 1 / 32 ∧ t.node = F 2 1 % 16 ∧ t.count = (F 2 1).testBit 4 ∧ t.decl = F 0x04 4
    ∧ t.src = F 0x08 8 ∧ t.dst = F 0x10 8 ∧ t.rowb = F 0x18 4 ∧ t.rows = F 0x1C 4 ∧ t.sstr = S 0x20 ∧ t.dstr = S 0x24
    ∧ t.idx = F 0x28 8 ∧ t.dev = F 0x30 4 ∧ t.mbr = F 0x34 1 ∧ t.mbuf = F 0x35 1 ∧ t.bstr = S 0x38

/-- R163, R166, R264, R282: ARM_COMPLETE of a block not aligned to 64 bytes halts with BOUNDS; else the block is read and checked: a good one arms the queue with its template, ASTAT becomes
1, or 4 for one refused, no other byte changes, and the ARM is complete. DISARM_ACK writes ASTAT 2, disarms the queue and completes. Stated
for blocks in a slice region. -/
def Obligations.ArmsAndDisarms : Prop :=
  ∀ (l tile q : Nat),
    Happens (.armComplete l tile q) (armCompleteDue l tile q) (fun s u => ∀ x addr, findHq s.fab l tile q = some x → x.arming = some addr →
      (addr % 64 ≠ 0 → u.mem = s.mem ∧ findHq u.fab l tile q = some { x with halted := true }
        ∧ State.OneRec s u fun r => r.code = 2 ∧ r.addr = addr ∧ r.line = l)
      ∧ ∀ c p, addr % 64 = 0 → s.calm → s.settled l x.know → State.inSlice s l addr 64 c p →
          let bs := (List.range 64).map fun i => s.byte (p + i)
          State.memBut s u (p + 0x3C) 4 ∧ (∀ y ∈ u.fab.cmds, y.id ≠ x.armCmd)
            ∧ ∃ y, findHq u.fab l tile q = some y ∧ y.arming = none
                ∧ (Rule.ControlBlock bs → u.word (p + 0x3C) = 1 ∧ ∃ t, y.tmpl = some t ∧ Rule.TemplateOf bs addr t)
                ∧ (¬Rule.ControlBlock bs → u.word (p + 0x3C) = 4 ∧ y.tmpl = none))
    ∧ Happens (.disarmAck l tile q) (disarmAckDue l tile q) (fun s u => ∀ x t id c p, findHq s.fab l tile q = some x → x.tmpl = some t →
        x.disarm = some id → s.calm → State.inSlice s l (t.addr + 0x3C) 4 c p →
          u.word p = 2 ∧ State.memBut s u p 4 ∧ (∀ y ∈ u.fab.cmds, y.id ≠ id)
            ∧ findHq u.fab l tile q = some { x with tmpl := none, disarm := none })

/-- R167, R168: COUNT_ACK adds its words to its node's count. As often as the count then holds the node's target, and while fewer than four tokens wait,
the target is taken from it and added to the total modulo 2^32, the total is written to the node's counter word, and a token with the total and the
node's number waits for the node's channel, the first one poisoned where a counted word was. COUNT_TOKEN_COMMIT commits the oldest. A node without a
channel queues no token, which is the model's choice (log 84). The counter word is stated in a slice region that is not planed. -/
def Obligations.CountsFire : Prop :=
  ∀ (id l tile n : Nat),
    Happens (.countAck id) (countAckDue id) (fun s u => ∀ a, s.fab.acks.find? (fun a => a.id == id) = some a →
      u.fab.acks = s.fab.acks.filter (fun b => b.id != id)
      ∧ (a.counted = false → u.mem = s.mem ∧ u.fab.cnts = s.fab.cnts)
      ∧ ∀ c, a.counted = true → findCnt s.fab a.line a.tile a.num = some c →
          let v := c.val + a.words
          let k := if c.tgt = 0 then 0 else if c.chan.isSome = true then min (v / c.tgt) (4 - c.queue.length)
            else if c.queue.length < 4 then v / c.tgt else 0
          let tot (i : Nat) : Nat := (c.tot + i * c.tgt) % 2 ^ 32
          (∃ y ts, findCnt u.fab a.line a.tile a.num = some y ∧ y.val = v - k * c.tgt ∧ y.fired = c.fired + k
              ∧ (k = 0 → y.tot = c.tot) ∧ (1 ≤ k → y.tot = tot k)
              ∧ y.queue = c.queue ++ ts ∧ ts.length = (if c.chan.isSome = true then k else 0)
              ∧ ∀ i t, ts[i]? = some t → t.tag = 0 ∧ t.seq = 0 ∧ t.node = 0xFFF ∧ t.poison = (decide (i = 0) && (c.pois || a.poison))
                  ∧ t.payload = ⟨BitVec.ofNat 32 (tot (i + 1)), BitVec.ofNat 32 a.num, 0, 0, 0, 0, 0, 0⟩)
          ∧ (k = 0 ∨ c.addr = none → u.mem = s.mem)
          ∧ ∀ va cl p, c.addr = some va → State.inSlice s a.line va 4 cl p → s.calm → 1 ≤ k →
              u.word p = BitVec.ofNat 32 (tot k) ∧ State.memBut s u p 4)
    ∧ Happens (.countTokenCommit l tile n) (countTokenCommitDue l tile n) (fun s u => ∀ c t r k, findCnt s.fab l tile n = some c →
        c.queue = t :: r → c.chan = some k → (c.tgt = 0 ∨ c.val < c.tgt) → u.mem = s.mem
          ∧ findCnt u.fab l tile n = some { c with queue := r }
          ∧ State.ChanBecame s u l k fun z z' => Chan.Took z z' s.fab.cycle [t])

/-! ## The matrix array and the nodes -/

/-- R172: the checks of a tile-task record's 64 bytes, for a line whose channel record CHAIN names where it names one. -/
def Rule.TaskRecord (f : Fabric) (l : Nat) (bs : List Byte) : Prop :=
  let F := fieldOf bs
  let pair := F 0x00 1
  let bwb : Prop := (F 0x01 1).testBit 2 = true
  let m := F 0x04 1
  let n := F 0x05 1
  let k := F 0x06 2
  pair ≤ 6 ∧ F 0x01 1 / 32 ≤ 5 ∧ F 0x02 1 < 32 ∧ (bwb → F 0x03 1 < 16) ∧ (¬bwb → F 0x03 1 = 0)
    ∧ (1 ≤ m ∧ m ≤ 64) ∧ (1 ≤ n ∧ n ≤ 64) ∧ 1 ≤ k ∧ (pair ≤ 1 → k % 64 = 0 ∧ bwb) ∧ (pair = 2 ∨ pair = 3 → k % 32 = 0)
    ∧ F 0x08 8 % 32 = 0 ∧ F 0x10 4 % 32 = 0 ∧ F 0x20 8 % 4 = 0 ∧ F 0x28 4 % 4 = 0 ∧ F 0x2C 4 % 32 = 0
    ∧ (bwb → F 0x18 8 = 0) ∧ (¬bwb → F 0x14 4 = 0 ∧ F 0x18 8 % 32 = 0)
    ∧ (bwb → pair ≤ 1 → F 0x14 4 % 4 = 0 ∧ F 0x14 4 + 8452 * ((n * k + 16383) / 16384) ≤ 2 ^ 19)
    ∧ (bwb → 2 ≤ pair → F 0x14 4 % 32 = 0 ∧ F 0x14 4 + (n - 1) * F 0x2C 4 + (if pair = 4 then k else 2 * k) ≤ 2 ^ 19)
    ∧ (F 0x30 2 = 0xFFFF → F 0x20 8 ≠ 0) ∧ (F 0x30 2 ≠ 0xFFFF → ∃ c b, findChan f l (F 0x30 2) = some c ∧ c.writer = .chain b)
    ∧ ∀ i, i < 12 → F (0x34 + i) 1 = 0

/-- R172: the fields of a tile-task record, in the task that an access of its element makes; nothing of it has been done. -/
def Rule.TaskOf (bs : List Byte) (a : Acc) (t : Task) : Prop :=
  let F := fieldOf bs
  let ctl := F 0x01 1
  t.pair = F 0x00 1 ∧ t.init = ctl.testBit 0 ∧ t.mir = ctl.testBit 1 ∧ t.bwb = ctl.testBit 2 ∧ t.queue = ctl / 8 % 4 ∧ t.scope = ctl / 32
    ∧ t.cnt = F 0x02 1 % 16 ∧ t.count = (F 0x02 1).testBit 4 ∧ t.wtile = F 0x03 1 ∧ t.m = F 0x04 1 ∧ t.n = F 0x05 1 ∧ t.k = F 0x06 2
    ∧ t.a = F 0x08 8 ∧ t.sa = F 0x10 4 ∧ t.woff = F 0x14 4 ∧ t.b = F 0x18 8 ∧ t.c = F 0x20 8 ∧ t.sc = F 0x28 4 ∧ t.sb = F 0x2C 4
    ∧ t.chain = (if F 0x30 2 = 0xFFFF then none else some (F 0x30 2)) ∧ t.decl = F 0x32 2
    ∧ t.line = a.line ∧ t.th = a.th ∧ t.seq = a.seq ∧ t.node = a.node ∧ t.halted = false ∧ t.cols = [] ∧ t.row = 0 ∧ t.put = 0 ∧ t.out = []
    ∧ a.id ∈ t.know ∧ ∀ i ∈ a.base, i ∈ t.know

/-- R97, R99, R107 to R110: one output: what the array makes of a row of A, a column of B and the value the accumulator starts from, and whether it is
poisoned. INT8 wraps modulo 2^32. Elsewhere the groups of K, ascending, each add the contribution of their exact sum, rounded, and the sum is rounded
again, always to nearest-even; a group whose S20 scale is poison contributes +0 and poisons the output. -/
def Rule.Accumulates (pair k : Nat) (a : List Byte) (b : Col) (init : Nat) (r : Nat × Bool) : Prop :=
  let byte (bs : List Byte) (i : Nat) : Nat := (bs.getD i 0).toNat
  let unit (bs : List Byte) (i : Nat) : Nat := byte bs (64 * (i / 32) + i % 32)
  let half (bs : List Byte) (i : Nat) : Nat := fieldOf bs (2 * i) 2
  let elem (bs : List Byte) (i : Nat) : FV :=
    if pair = 1 then .fin (decide (128 ≤ unit bs i)) (toS 8 (unit bs i)).natAbs 0
    else if pair = 3 then fval fe5m2 (unit bs i)
    else if pair = 5 then fval bf16 (half bs i)
    else if pair = 6 then fval fp16 (half bs i)
    else fval fe4m3 (unit bs i)
  let scale (bs : List Byte) (i : Nat) : Option (Nat × Int) := s20 (fieldOf bs (64 * (i / 32) + 32 + 4 * (i % 32 / 4)) 4)
  let code (i : Nat) : FV := qn4 (byte b.bytes (i / 2) / (if i % 2 = 0 then 1 else 16) % 16)
  let rounds (acc x acc' : Nat) : Prop := ∃ y, FV.ExactSum [fval fp32 acc, fval fp32 x] y ∧ acc' = roundFV fp32 0 y
  let runs (n : Nat) (gives : Nat → FV → Prop) : Prop := ∃ vs : List Nat, vs.length = n + 1 ∧ vs[0]? = some init ∧ vs[n]? = some r.1
    ∧ ∀ g acc, g < n → vs[g]? = some acc → ∃ x acc', gives g x ∧ vs[g + 1]? = some acc' ∧ rounds acc (roundFV fp32 0 x) acc'
  let quads (n : Nat) (gives : Nat → FV → Prop) (x : FV) : Prop := ∃ qs : List FV, qs.length = n ∧ FV.ExactSum qs x
    ∧ ∀ q z, qs[q]? = some z → gives q z
  (pair = 4 → r.2 = false ∧ (1 ≤ k → r.1 < 2 ^ 32)
    ∧ (r.1 : Int) % 2 ^ 32 = ((init : Int) + ((List.range k).map fun i => toS 8 (byte a i) * toS 8 (byte b.bytes i)).sum) % 2 ^ 32)
  ∧ (pair = 5 ∨ pair = 6 → r.2 = false ∧ runs ((k + 31) / 32) fun g x =>
      FV.ExactSum (((List.range 32).filter fun t => 32 * g + t < k).map fun t => fMul (elem a (32 * g + t)) (elem b.bytes (32 * g + t))) x)
  ∧ (pair = 2 ∨ pair = 3 →
      (r.2 = true ↔ ∃ i, i < 32 * ((k + 31) / 32) ∧ (scale a i = none ∨ scale b.bytes i = none))
        ∧ runs ((k + 31) / 32) fun g x => quads 8 (fun q z =>
          let i := 32 * g + 4 * q
          (scale a i = none ∨ scale b.bytes i = none → z = .fin false 0 0)
            ∧ ∀ m e m' e', scale a i = some (m, e) → scale b.bytes i = some (m', e') →
                ∃ s, FV.ExactSum ((List.range 4).map fun t => fMul (elem a (i + t)) (elem b.bytes (i + t))) s
                  ∧ z = fMul (fMul s (.fin false m e)) (.fin false m' e')) x)
  ∧ (pair ≤ 1 →
      (r.2 = true ↔ ∃ kb, kb < k / 64 ∧ (s20 (b.scales.getD kb 0) = none ∨ ∃ g, g < 16 ∧ scale a (64 * kb + 4 * g) = none))
        ∧ runs (k / 64) fun kb x => ∃ blk,
          quads 16 (fun g z =>
            let i := 64 * kb + 4 * g
            (scale a i = none → z = .fin false 0 0)
              ∧ ∀ m e, scale a i = some (m, e) →
                  ∃ s, FV.ExactSum ((List.range 4).map fun t => fMul (elem a (i + t)) (code (i + t))) s ∧ z = fMul s (.fin false m e)) blk
            ∧ (s20 (b.scales.getD kb 0) = none → x = .fin false 0 0)
            ∧ ∀ m e, s20 (b.scales.getD kb 0) = some (m, e) → FV.ExactSum [fMul blk (.fin false m e)] x)

/-- R97, R99, R107 to R110, R125, R172 to R176, R335, R336: MXQ_RECORD_READ answers, without queueing, lane 1 of 1 for a record that fails its checks, with lane 0 all
ones; else the task joins its queue, behind its element's earlier stores to the record's words, and the answer is the bolt's ticket, which rises. A poisoned
offset poisons the answer and nothing else, which is the model's choice (log 87). MX_TASK_ISSUE moves the first head that may issue to an array.
MX_TASK_COMPLETE writes the row of C, each output the accumulation of the row of A and a column of B, and ends the task: stated for the last row of a
task without chain, count or initial C, its operands in slice regions. Unsigned strides, a column of B fetched once, and rows in order are the model's
choice (log 48). -/
def Obligations.MatrixTasks : Prop :=
  ∀ (id l bolt : Nat),
    Happens (.mxqRecordRead id) (mxqRecordReadDue id) (fun s u => u.mem = s.mem ∧ ∀ a, findAcc s.fab id = some a → a.result = none → s.calm →
      s.settled a.line a.know a.late → (∀ rs ∈ accRuns s.fab a, s.sound rs) → (accRuns s.fab a).length = 16 →
        let bs := (accRuns s.fab a).flatMap s.runBytes
        let queue := fieldOf bs 1 1 / 8 % 4
        let room (x : MxBolt) : Prop := (x.queues.getD queue []).length < 64
        let b := a.th / 256
        let x := getMx s.fab a.line b
        let answer (lane0 : Word) (lane1 : Word) : Prop :=
          findAcc u.fab id = none ∧ State.Answered s u a.line a.th id ⟨⟨lane0, lane1, 0, 0, 0, 0, 0, 0⟩, a.poison⟩
        (¬Rule.TaskRecord s.fab a.line bs → answer 0xFFFFFFFF 1 ∧ u.fab.mx = s.fab.mx)
        ∧ (Rule.TaskRecord s.fab a.line bs → room x →
            answer (BitVec.ofNat 32 x.ticket) 0 ∧ (getMx u.fab a.line b).ticket = (x.ticket + 1) % 2 ^ 32
              ∧ (∀ q, x.queues[queue]? = some q → ∃ t, (getMx u.fab a.line b).queues[queue]? = some (q ++ [t]) ∧ Rule.TaskOf bs a t
                  ∧ ∀ i ∈ ownStores s.fab a, i ∈ t.know)
              ∧ (getMx u.fab a.line b).flight = x.flight)
        ∧ (Rule.TaskRecord s.fab a.line bs → ¬room x →
            (findAcc u.fab id).isSome = true ∧ u.fab.mx = s.fab.mx))
    ∧ Happens (.mxTaskIssue l bolt) (mxTaskIssueDue l bolt) (fun s u => u.mem = s.mem ∧ ∀ q t a, nextTask (getMx s.fab l bolt) = some (q, t, a) →
        (getMx s.fab l bolt).line = l → (getMx s.fab l bolt).bolt = bolt →
          (∃ bad, (getMx u.fab l bolt).flight = (getMx s.fab l bolt).flight ++ [{ t with arr := a, mismatch := bad }]
              ∧ (∀ k ∈ bad, k.1 < t.m ∧ k.2 < t.n) ∧ (mirrored s.fab t = false → bad = []))
            ∧ ∀ k ts, (getMx s.fab l bolt).queues[k]? = some ts →
                (getMx u.fab l bolt).queues[k]? = some (if k = q then ts.drop 1 else ts))
    ∧ Happens (.mxTaskComplete l id) (mxTaskCompleteDue l id) (fun s u => ∀ t ca pa cc pc, findTask s.fab l id = some t → t.line = l →
        t.cols.length = t.n → t.row + 1 = t.m → t.out = [] → t.rowA = none → t.rowC = none → t.put = 0 → t.chain = none → t.count = false → t.init = false → t.c ≠ 0 → s.calm →
        s.settled l t.know → State.inSlice s l (t.a + t.row * t.sa) (rowBytes t.pair t.k) ca pa → 0 < rowBytes t.pair t.k → 0 < t.n →
        State.inSlice s l (t.c + t.row * t.sc) (4 * t.n) cc pc →
          let row := (List.range (rowBytes t.pair t.k)).map fun i => s.byte (pa + i)
          findTask u.fab l id = none ∧ State.memBut s u pc (4 * t.n)
            ∧ ∀ j b, t.cols[j]? = some b → ∃ v, Rule.Accumulates t.pair t.k row b 0 v ∧ u.word (pc + 4 * j) = BitVec.ofNat 32 v.1)

/-- R104, R105, R177, R374: VOTER_TOKEN holds the first copy of a sequence number, and the second where it differs, forwards a token that two copies agree on, the first of
them, and logs a copy that differs, the third or the one held. SWAGE_CONVERT
takes one token of a node in a cycle: before a token that is not data it flushes the open pack; it passes a token of tag 1 or 2 unchanged, makes an
end-of-stream pending at the node's output, folded into one pending there (R48), and converts one of data by its channel's mode: into the open pack, into
the packed token that completes it, or into the unpacked ones, behind what is pending. Of three copies that all differ the voter forwards copy 0's, poisoned,
and logs all three. That the reader sees a converted token two cycles later and no later than that, that the flush is a step of its own, and the mode where the
reader is no element (`convMode`) are the model's choice (log 70). -/
def Obligations.VotersAndSwage : Prop :=
  ∀ (l v copy ch : Nat),
    Happens (.voterToken l v copy) (voterTokenDue l v copy) (fun s u => u.mem = s.mem ∧ ∀ c x o t, chanTo s.fab l (.voterIn v copy) = some c →
      findVoter s.fab l v = some x → s.fab.chans.find? (fun c => c.line == l && c.writer == .voterOut v) = some o →
      (visible s.fab c).head? = some t → (c.line, c.num) ≠ (o.line, o.num) →
        let seqs (y : Nat × Token) : Prop := y.2.seq = t.seq
        State.ChanBecame s u c.line c.num (fun z z' => z'.q = z.q.drop 1)
          ∧ ((x.held.filter (fun y => y.2.seq == t.seq)).length ≤ 1 → (∀ y ∈ x.held, seqs y → y.1 = copy ∨ sameToken y.2 t = false) →
              (∀ y ∈ x.fwd, ¬seqs y) → findVoter u.fab l v = some { x with held := x.held ++ [(copy, t)] } ∧ State.ChansBut s u [(c.line, c.num)])
          ∧ (∀ y, x.held.filter (fun y => y.2.seq == t.seq) = [y] → (∀ z ∈ x.fwd, ¬seqs z) → y.1 ≠ copy → sameToken y.2 t = true →
              findVoter u.fab l v = some { x with held := x.held.filter (fun z => z.2.seq != t.seq), fwd := (copy, y.2) :: x.fwd }
                ∧ State.ChanBecame s u o.line o.num fun z z' => Chan.Took z z' s.fab.cycle [y.2])
          ∧ (∀ y0 y1, x.held.filter (fun y => y.2.seq == t.seq) = [y0, y1] → (∀ z ∈ x.fwd, ¬seqs z) → y0.1 ≠ copy → y1.1 ≠ copy →
              ∀ agrees odd, (agrees = y0 ∧ odd = y1 ∨ agrees = y1 ∧ odd = y0) → sameToken agrees.2 t = true → sameToken odd.2 t = false →
              (State.ChanBecame s u o.line o.num fun z z' => Chan.Took z z' s.fab.cycle [agrees.2])
                ∧ findVoter u.fab l v = some { x with
                    held := x.held.filter (fun z => z.2.seq != t.seq), lastCopy := odd.1, lastSeq := t.seq
                    dis0 := if odd.1 = 0 then min (x.dis0 + 1) 1023 else x.dis0
                    dis1 := if odd.1 = 1 then min (x.dis1 + 1) 1023 else x.dis1
                    dis2 := if odd.1 = 2 then min (x.dis2 + 1) 1023 else x.dis2 })
          ∧ (∀ y0 y1, x.held.filter (fun y => y.2.seq == t.seq) = [y0, y1] → (∀ z ∈ x.fwd, ¬seqs z) →
              (∀ k, k < 3 ↔ k = y0.1 ∨ k = y1.1 ∨ k = copy) → sameToken y0.2 t = false → sameToken y1.2 t = false →
              let first := if copy = 0 then t else if y0.1 = 0 then y0.2 else y1.2
              (State.ChanBecame s u o.line o.num fun z z' => Chan.Took z z' s.fab.cycle [{ first with poison := true }])
                ∧ findVoter u.fab l v = some { x with
                    held := x.held.filter (fun z => z.2.seq != t.seq), lastCopy := 2, lastSeq := t.seq
                    dis0 := min (x.dis0 + 1) 1023, dis1 := min (x.dis1 + 1) 1023, dis2 := min (x.dis2 + 1) 1023 })
          ∧ (∀ y, x.fwd.find? (fun y => y.2.seq == t.seq) = some y →
              State.ChansBut s u [(c.line, c.num)] ∧ ∃ z, findVoter u.fab l v = some z
                ∧ z.fwd = x.fwd.filter (fun w => w.2.seq != t.seq)
                ∧ (sameToken y.2 t = true → z.dis0 = x.dis0 ∧ z.dis1 = x.dis1 ∧ z.dis2 = x.dis2)
                ∧ (sameToken y.2 t = false → z.lastCopy = copy ∧ z.lastSeq = t.seq
                    ∧ z.dis0 = (if copy = 0 then min (x.dis0 + 1) 1023 else x.dis0) ∧ z.dis1 = (if copy = 1 then min (x.dis1 + 1) 1023 else x.dis1)
                    ∧ z.dis2 = if copy = 2 then min (x.dis2 + 1) 1023 else x.dis2)))
    ∧ Happens (.swageConvert l ch) (swageConvertDue l ch) (fun s u => u.mem = s.mem ∧ ∀ c t, findChan s.fab l ch = some c → rawHead s.fab c = some t →
        let m := convMode s.fab c
        let put (raw : List Slot) (ts part : List Token) (np : Option Token) (ne : Nat) : Prop :=
          findChan u.fab l ch = some { c with
            raw := raw, part := part, q := c.q ++ ts.map (fun x => ⟨x, s.fab.cycle + 2⟩)
            nodePend := np, nodeEos := ne }
        let rest := c.raw.drop 1
        let before := c.nodePend.toList
        State.ChansBut s u [(l, ch)]
          ∧ (∀ n, swageNode c = some n → swageNext u.fab n.1 n.2 = none)
          ∧ (t.tag ≠ 0 → ∀ z, c.part.getLast? = some z → put c.raw [packToken c.conv m.1 m.2 c.part z] [] c.nodePend c.nodeEos)
          ∧ (t.tag ≠ 0 → c.part = [] → isEos t.tag = false → put rest (before ++ [t]) [] none c.nodeEos)
          ∧ (isEos t.tag = true → c.part = [] → c.nodePend = none → put rest [] [] (some t) s.fab.cycle)
          ∧ (isEos t.tag = true → c.part = [] → ∀ p, c.nodePend = some p →
              ∃ x, put rest [] [] (some x) s.fab.cycle ∧ x.tag = max p.tag t.tag ∧ x.poison = (p.poison || t.poison))
          ∧ (t.tag = 0 → packOf c.conv ≠ 1 → c.part.length + 1 ≠ packOf c.conv → put rest before (c.part ++ [t]) none c.nodeEos)
          ∧ (t.tag = 0 → packOf c.conv ≠ 1 → c.part.length + 1 = packOf c.conv →
              put rest (before ++ [packToken c.conv m.1 m.2 (c.part ++ [t]) t]) [] none c.nodeEos)
          ∧ (t.tag = 0 → packOf c.conv = 1 → c.part = [] → put rest (before ++ unpackTokens c.conv t) [] none c.nodeEos))

/-- R38, R120 to R122: PLANE_SWAP_DONE: the group's members wait no longer and no contribution of a completed step is left; a word of the group's one
region takes, of the last completed step that contributed to it, the one thread's value, under the priority rule the value of the lowest contributor, and
under a sum rule the contributions added in ascending contributor number, each addition rounded once to nearest-even; no other byte changes. Where a
collision under the fault rule has come since and has not been resumed, PLANE_COLLIDE is recorded, the swap is held and no byte changes: that the
step's last stores may come after its completion is the model's choice (log 20). The record tells the lowest clashing word and its lowest-numbered
contributor's store. At an edge of a line with one region declared `planes=beat` the
words of the beat are settled alike; a collision under the fault rule records PLANE_COLLIDE and no byte changes. That the first edge is one of these is
the model's choice (log 33). -/
def Obligations.PlanesSwap : Prop :=
  let sum (k : Nat) (x y r : Word) : Prop :=
    if k = 2 then r = x + y
    else ∀ n, n < 32 / (floatFmt (k - 3)).width → elemU r n (floatFmt (k - 3)).width = roundFV (floatFmt (k - 3)) 0
      (fAdd 0 (fval (floatFmt (k - 3)) (elemU x n (floatFmt (k - 3)).width)) (fval (floatFmt (k - 3)) (elemU y n (floatFmt (k - 3)).width)))
  let settles (k : Nat) (c : Contrib) (cs : List Contrib) (v : Word) : Prop :=
    (k ≤ 1 ∨ cs = [] → v = c.val)
    ∧ (2 ≤ k → k ≤ 5 → ∃ vs : List Word, vs.length = cs.length + 1 ∧ vs[0]? = some c.val ∧ vs[cs.length]? = some v
        ∧ ∀ i d x, cs[i]? = some d → vs[i]? = some x → ∃ y, vs[i + 1]? = some y ∧ sum k x d.val y)
  let at_ (s : State) (r : Region) (w : Nat) : Nat := sliceAddr s.fab r.line r.tile (r.base + 4 * w)
  let swapped (s u : State) (r : Region) (now : Contrib → Prop) : Prop :=
    (∃ y, findRegion u.fab r.line r.num = some y ∧ ∀ c, c ∈ y.contribs ↔ c ∈ r.contribs ∧ ¬now c)
    ∧ (s.calm → (∀ w c cs, (c :: cs).Pairwise (fun x y => x.who < y.who) →
          (∀ x, x ∈ c :: cs ↔ x ∈ r.contribs ∧ x.word = w ∧ x.step = c.step) → now c →
          (∀ x ∈ r.contribs, x.word = w → now x → x.step ≤ c.step) → r.contribs.Nodup → settles r.collide c cs (u.word (at_ s r w)))
      ∧ ∀ b, (∀ c ∈ r.contribs, now c → b < at_ s r c.word ∨ at_ s r c.word + 4 ≤ b) → u.byte b = s.byte b)
  (∀ (vf n : Nat), Happens (.planeSwapDone vf n) (planeSwapDoneDue vf n) fun s u => ∀ g, findGroup s.fab vf n = some g →
    let held : Prop := g.collided = false ∧ ∃ r ∈ boundRegions s.fab g, ∃ st w, st < g.step ∧ r.clashes st w
    (held → u.mem = s.mem ∧ findGroup u.fab vf n = some { g with swapBy := none, collided := true }
      ∧ State.SwapHeld s u g)
    ∧ (¬held → findGroup u.fab vf n = some { g with swapBy := none, waiting := [], collided := false, doneIds := [] }
      ∧ ∀ r, boundRegions s.fab g = [r] → findRegion s.fab r.line r.num = some r → swapped s u r fun c => c.step < g.step))
  ∧ ∀ l : Nat,
    let edge_ (s u : State) : Prop := ∀ r, s.fab.regions.filter (fun r => r.line == l && r.planes == 2) = [r] →
      findRegion s.fab l r.num = some r →
        ((∃ w, r.clashes 0 w) → u.mem = s.mem ∧ ∃ x ∈ u.fab.newRecs, ∃ w c, r.firstClash 0 w c ∧ x.tellsClash l w c)
        ∧ ((∀ w, ¬r.clashes 0 w) → swapped s u r fun c => c.step = 0)
    Happens (.lineFirstEdge l) (lineFirstEdgeDue l) edge_
    ∧ Happens (.beatEdge l) (beatEdgeDue l) (fun s u => (∀ st ∈ stationsOf s.fab l, overflows st = false) → edge_ s u)
    ∧ Happens (.stretchEdge l) (stretchEdgeDue l) edge_

/-! ## Lines come and go -/

/-- R186, R187: LQ_DB sets the tail of a launch queue; a tail too far ahead of ACC, or a write to a disabled queue, is recorded as LOAD_ILLEGAL and ignored. LAUNCH_RECORD
takes the next record, whose fields become a launch, and ACC rises. No byte of memory changes. -/
def Rule.LaunchQueue : Prop :=
  ∀ (vf ps tail : Nat),
    Happens (.lqDb vf ps tail) lqDbDue (fun s u => u.mem = s.mem ∧
      let i := getIface s.fab vf ps
      let ahead : Prop := i.lqLog = 0 ∨ 2 ^ i.lqLog < (tail % 2 ^ 32 + 2 ^ 32 - i.lqAcc) % 2 ^ 32
      (¬ahead → getIface u.fab vf ps = { i with lqTail := tail % 2 ^ 32 } ∧ u.fab = { newAccess s.fab with ifaces := u.fab.ifaces })
        ∧ (ahead → State.OneRec s u (fun r => r.code = 1 ∧ r.vf = vf ∧ r.halted = false)
            ∧ u.fab = { newAccess s.fab with newRecs := u.fab.newRecs }))
    ∧ Happens (.launchRecord vf ps) (launchRecordDue vf ps) (fun s u => u.mem = s.mem
        ∧ (getIface u.fab vf ps).lqAcc = ((getIface s.fab vf ps).lqAcc + 1) % 2 ^ 32
        ∧ ∃ x, u.fab.launches = s.fab.launches ++ [x] ∧ x.id = s.fab.nextId ∧ x.vf = vf ∧ x.ps = ps ∧ x.since = s.fab.cycle ∧ x.depth = 0
            ∧ ∀ r f, anvilRead s.mem vf ps (slotAddr (getIface s.fab vf ps)) 64 (newAccess s.fab) = some (r, f) →
                let b (k n : Nat) : Nat := bfld r.bytes k n
                x.tag = b 4 4 ∧ x.image = b 8 8 ∧ x.args = b 0x10 8 ∧ x.narg = some (b 0x18 4) ∧ x.cpl = b 0x1C 4 ∧ x.vec = b 0x38 1
                  ∧ x.flags = b 1 1 + 256 * b 0 1 ∧ x.seq = b 2 2)

/-- R81, R131, R178, R185, R187, R188, R190, R195: LINE_PLACEMENT ends a launch that its record, its image or, once there are bolts for it, a held mailbox
end refuses, with a LOAD_ILLEGAL record and no line; else the line is made, loading, with the launch's tag and interface, and the launch is gone.
PREREQUISITES_MET sets the line running, or stopped while EBUDGET stands, and starts its controllers at command 0; a LOOP that stands there reads its count
(R322), and else only lines and controllers change. -/
def Rule.LinesArePlaced : Prop :=
  ∀ (id l : Nat),
    Happens (.linePlacement id) (linePlacementDue id) (fun s u => findLaunch u.fab id = none ∧ ∀ x, findLaunch s.fab id = some x →
      let f := newAccess s.fab
      let fail := launchFail f x ((argsOf s.mem f x).map Prod.fst)
      let late (img : Image) : Prop := (placementFail f img).isSome = true ∧ (mapBolts img.links (freeBolts f x.vf) img.bolts []).isSome = true
      (fail.isSome = true ∨ (∃ img, findImage f x.vf x.ps x.image = some img ∧ late img) →
          u.fab.lines = s.fab.lines ∧ u.fab.elems = s.fab.elems ∧ State.OneRec s u fun r => r.code = 1 ∧ r.vf = x.vf ∧ r.halted = false)
        ∧ (fail = none → (∀ img, findImage f x.vf x.ps x.image = some img → ¬late img) →
            ∃ y, u.fab.lines = s.fab.lines ++ [y] ∧ y.vf = x.vf ∧ y.pasid = x.ps ∧ y.tag = x.tag ∧ y.state = 0
              ∧ y.launchId = id ∧ y.id / 64 = x.vf ∧ y.begun = false ∧ y.beatIx = 0 ∧ y.placedAt = s.fab.cycle
              ∧ findLine s.fab y.id = none))
    ∧ Happens (.prerequisitesMet l) (prerequisitesMetDue l) (fun s u => u.mem = s.mem
        ∧ ((∀ c ∈ s.fab.ctls, c.line = l → loopSlot c 0 = none) → u.fab = { newAccess s.fab with lines := u.fab.lines, ctls := u.fab.ctls })
        ∧ (∀ x, findLine s.fab l = some x → findLine u.fab l = some { x with state := runState s.fab x, runFrom := s.fab.cycle + 1 })
        ∧ ∀ t n, State.CtlBecame s u l t n fun c x => x.started = true ∧ x.pos = 0 ∧ x.table = c.table ∧ x.mode = c.mode)

/-- R155, R185, R187, R189, R194, R206, R220, R221: LINE_COMPLETE makes its line complete, signals its vector where the launch asked for it (one above 63
is the model's choice, log 72), and writes its completion record: the tag, the status, items emitted, beats, the bellows' three counts, BEAT and FLOOR,
and zeros; the close of the cycle removes complete lines with everything in them and puts their bolts under scrub.
ENDED_BY_HOST ends a line with status 1, or removes a launch not yet placed. BOLT_SCRUB_DONE zeroes the bolt's slices and nothing else;
SP_SCRUB_COMPLETE zeroes what is left of its frame. -/
def Obligations.LinesEnd : Prop :=
  ∀ (l b fr : Nat),
    Happens (.lineComplete l) (lineCompleteDue l) (fun s u => u.fab.elems = s.fab.elems ∧ u.fab.stations = s.fab.stations
      ∧ ∀ x, findLine s.fab l = some x → findLine u.fab l = some { x with state := 6 }
          ∧ u.fab.msix = s.fab.msix ++ (if x.msix ∧ x.vec < 64 then [⟨x.vf, x.vec⟩] else [])
          ∧ ∀ p g, x.dirty = [] → s.calm → x.cpl < regionArea → peerXlate s.mem (newAccess s.fab) x.vf x.pasid x.cpl = (some p, g) →
              g.posted = [] → g.scrub = [] →
                let at_ (o n v : Nat) : Prop := ∀ j, j < n → u.byte (p.phys + o + j) = BitVec.ofNat 8 (v / 256 ^ j)
                at_ 0x00 4 x.tag ∧ at_ 0x04 1 (x.endStatus.getD 0) ∧ (x.endStatus.getD 0 < 256 → at_ 0x05 3 0)
                  ∧ at_ 0x08 8 x.emitted ∧ at_ 0x10 8 x.beats ∧ at_ 0x18 4 x.bel.ovr ∧ at_ 0x1C 4 x.bel.ovf ∧ at_ 0x20 4 x.bel.str
                  ∧ (x.bel.beat < 2 ^ 16 → at_ 0x24 2 x.bel.beat ∧ at_ 0x26 2 x.bel.floor) ∧ at_ 0x28 24 0 ∧ State.memBut s u p.phys 64)
    ∧ (∀ (f : Fabric) (x : Line), x ∈ (closeCycle f).lines → x.state ≠ 6)
    ∧ (∀ (f : Fabric) (x : Line), findLine f l = some x → x.state = 6 →
        findLine (reapLines f) l = none ∧ (∀ th, findElem (reapLines f) l th = none) ∧ (∀ n, findStation (reapLines f) l n = none)
          ∧ (∀ r ∈ (reapLines f).regions, r.line ≠ l) ∧ (x.saved = false → ∀ k ∈ x.bolts, (k, f.cycle) ∈ (reapLines f).module_.scrubbing))
    ∧ Happens (.endedByHost l) (endedByHostDue l) (fun s u =>
        (∀ x, findLine s.fab l = some x → u.mem = s.mem ∧ findLine u.fab l = some { x with
          state := 4, endStatus := some 1, stop := none, stopSoon := none })
        ∧ (findLine s.fab l = none → findLaunch u.fab (l - 4096) = none ∧ u.fab.lines = s.fab.lines))
    ∧ Happens (.boltScrubDone b) (boltScrubDoneDue b) (fun s u => (∀ x ∈ u.fab.module_.scrubbing, x.1 ≠ b)
        ∧ ∀ a, u.byte a = if inBolt s.fab b a then 0 else s.byte a)
    ∧ Happens (.spScrubComplete fr) (spScrubCompleteDue fr) (fun s u => ∀ vf ls, s.fab.scrub.find? (fun x => x.1 == fr) = some (fr, vf, ls) →
        s.fab.spEntry = [] → (∀ i ∈ ls, i < 1024) → (s.fab.scrub.map Prod.fst).Nodup →
          (∀ x ∈ u.fab.scrub, x.1 ≠ fr)
            ∧ ∀ a, u.byte a = if a / 65536 = fr ∧ a % 65536 / 64 ∈ ls then 0 else s.byte a)

/-- R183, R184, R193, R196, R348, R351, R355, R356: SPAWN_ANSWER, in an order that is the model's choice (log 41), answers 1 beyond the spawn depth, 2 for an image that is not there or refused, 3 for reserved lanes, else 0 with a launch of the
image, arguments and tag in its lanes. RANGE_ANSWER gives the unit's next index and a chunk, and moves the unit past it. RSZ_COMPLETE performs the resize and completes
the RSZ (the frames a region grows into, and those of its overflow area, are the model's choice, logs 55 and 34); LST_RSZ asks for one. RECFG_DRAINED
starts the new image. -/
def Obligations.RequestsAnswered : Prop :=
  ∀ (id l rg v : Nat),
    let two (a b : Nat) (p : Bool) : Reg := ⟨⟨BitVec.ofNat 32 a, BitVec.ofNat 32 b, 0, 0, 0, 0, 0, 0⟩, p⟩
    Happens (.spawnAnswer id) (spawnAnswerDue id) (fun s u => u.mem = s.mem ∧ ∀ r x, findRequest s.fab id = some r → findLine s.fab r.line = some x →
      let image := argAddr r.a
      let refused : Prop := ∀ i, findImage s.fab x.vf x.pasid image = some i → (firstFail (newAccess s.fab) i false []).isSome = true
      findRequest u.fab id = none
      ∧ (Config.spawnDepth < x.depth + 1 → State.Answered s u r.line r.th id (two 1 0 r.poison) ∧ u.fab.launches = s.fab.launches)
      ∧ (x.depth + 1 ≤ Config.spawnDepth → refused → State.Answered s u r.line r.th id (two 2 0 r.poison) ∧ u.fab.launches = s.fab.launches
          ∧ State.OneRec s u fun q => q.code = 1 ∧ q.line = r.line)
      ∧ (x.depth + 1 ≤ Config.spawnDepth → ¬refused → (r.a.l6 ≠ 0 ∨ r.a.l7 ≠ 0) →
          State.Answered s u r.line r.th id (two 3 0 r.poison) ∧ u.fab.launches = s.fab.launches)
      ∧ (x.depth + 1 ≤ Config.spawnDepth → ¬refused → r.a.l6 = 0 → r.a.l7 = 0 → State.Answered s u r.line r.th id (two 0 0 r.poison)
          ∧ ∃ y, u.fab.launches = s.fab.launches ++ [y] ∧ y.vf = x.vf ∧ y.ps = x.pasid ∧ y.image = image ∧ y.depth = x.depth + 1
              ∧ y.args = r.a.l2.toNat + 2 ^ 32 * r.a.l3.toNat ∧ y.tag = r.a.l4.toNat ∧ y.cpl = r.a.l5.toNat))
    ∧ Happens (.rangeAnswer id) (rangeAnswerDue id) (fun s u => u.mem = s.mem ∧ ∀ r x z, findRequest s.fab id = some r → findLine s.fab r.line = some x →
        x.ranges[r.a.l0.toNat % 8]? = some z → z.given = true → 1 ≤ z.memb →
          let n := z.stop - z.next
          let chunk := if n = 0 then 0 else min n (max z.minChunk ((n + 2 * z.memb - 1) / (2 * z.memb)))
          findRequest u.fab id = none ∧ State.Answered s u r.line r.th id (two z.next chunk r.poison)
            ∧ State.LineBecame s u r.line fun _ y => y.ranges = x.ranges.set (r.a.l0.toNat % 8) { z with next := z.next + chunk })
    ∧ Happens (.rszComplete id) (rszCompleteDue id) (fun s u => u.mem = s.mem ∧ ∀ x r, s.fab.resizes.find? (fun x => x.id == id) = some x →
        findRegion s.fab x.line x.region = some r → (findLine s.fab x.line).isSome = true →
          u.fab.resizes = s.fab.resizes.filter (fun y => y.id != id) ∧ (x.cmd ≠ 0 → ∀ y ∈ u.fab.cmds, y.id ≠ x.cmd)
            ∧ ∃ q, findRegion u.fab x.line x.region = some q
                ∧ (r.planes ≠ 0 → q = { r with ovf := max r.ovf (min x.val 1048576), pages := q.pages, ovfPages := q.ovfPages }
                    ∧ q.ovfPages.length = max r.ovfPages.length (pageCount (16 * q.ovf)) ∧ r.ovfPages.isPrefixOf q.ovfPages = true)
                ∧ (r.planes = 0 → r.slice = true ∨ x.val ≤ r.size → q = r)
                ∧ (r.planes = 0 → r.slice = false → r.size < x.val → q.size = x.val
                    ∧ q.pages.length = max r.pages.length (pageCount x.val) ∧ r.pages.isPrefixOf q.pages = true))
    ∧ Happens (.lstRsz l rg v) (lstRszDue l) (fun s u => u.mem = s.mem
        ∧ (∀ r, findRegion s.fab l rg = some r → r.planes ≠ 0 ∨ r.slice = false →
            u.fab.resizes = s.fab.resizes ++ [⟨s.fab.nextId, l, rg, v % 2 ^ 32, 0⟩])
        ∧ (∀ r, findRegion s.fab l rg = some r → r.planes = 0 → r.slice = true → u.fab = newAccess s.fab))
    ∧ Happens (.recfgDrained l) (recfgDrainedDue l) (fun s u => ∀ x va t k, findLine s.fab l = some x → x.recfg = [(va, t, k)] →
        (∀ c ∈ u.fab.cmds, c.line ≠ l) ∧ ∃ y, findLine u.fab l = some y ∧ y.image = va ∧ y.closing = false ∧ y.state = runState s.fab y ∧ y.recfg = []
          ∧ y.begun = false ∧ y.cyc = 0 ∧ y.nextSeq = x.nextSeq ∧ y.tag = x.tag)

/-! ## Pre-emption -/

/-- R191, R214 to R219, R226, R254, R255: SLICE_EXPIRY marks its line for pre-emption. ROUND_ENTRY advances the tile's round, and sends a marker of the
round behind what each crossing channel of the tile has; the marker on a hand-off route that ends at a guarded port is dropped there and counted. TILE_SAVE and QUIESCENT_PREEMPT save tiles, what waits in their link registers captured and the cycle's
events counted; with the last the line is saved and its bolts go to scrub. LINE_RESTORE gives the line bolts, reads its elements back from the bytes of
the save area, and lets it run on from cycle 0 of a beat; no other line's element or station changes. Where the blocks put what R218 does not place, and
that the saved weight buffers are not kept, is the model's choice (log 35). -/
def Obligations.PreemptionAndRestore : Prop :=
  ∀ (l tile : Nat),
    let saved (s u : State) (x : Line) : Prop :=
      ∃ y, findLine u.fab l = some y ∧ y.state = 3 ∧ y.saved = true ∧ y.preempt = false ∧ y.sliceFrom = s.fab.cycle ∧ y.beatIx = x.beatIx
        ∧ ∀ b ∈ x.bolts, (b, s.fab.cycle) ∈ u.fab.module_.scrubbing
    Happens (.sliceExpiry l) (sliceExpiryDue l) (fun s u => u.mem = s.mem ∧ u.fab = { newAccess s.fab with lines := u.fab.lines }
      ∧ ∀ x, findLine s.fab l = some x → findLine u.fab l = some { x with preempt := true })
    ∧ Happens (.roundEntry l tile) (roundEntryDue l tile) (fun s u => u.mem = s.mem
        ∧ u.fab = { newAccess s.fab with chans := u.fab.chans, tiles := u.fab.tiles, module_ := u.fab.module_, newRecs := u.fab.newRecs }
        ∧ ∀ r pre, nextRound s.fab l tile = some (r, pre) →
            let guards := guardedHandoffs s.fab l tile
            let key (p : Nat) : Nat := boltOf s.fab l (p / 16) * 16 + p % 16
            let count (z : State) (p : Nat) : Nat := ((z.fab.module_.drops.find? fun d => d.1 == key p).map fun d => d.2.1).getD 0
            State.TileBecame s u l tile (fun t y => y = { t with round := t.round + 1, roundAt := s.fab.cycle, inRound := pre, now := y.now }
              ∧ (guards = [] → y.now = t.now))
            ∧ (guards = [] → u.fab.module_ = s.fab.module_ ∧ u.fab.newRecs = s.fab.newRecs)
            ∧ (∀ p, count u p = count s p + (guards.filter fun q => key q == key p).length)
            ∧ ∀ n, State.ChanBecame s u l n fun c c' =>
                (c.crossTile = true → endTile s.fab l c.writer = some tile → endTile s.fab l c.reader ≠ some tile →
                  Chan.Took c c' s.fab.cycle [⟨⟨BitVec.ofNat 32 r, 0, 0, 0, 0, 0, 0, 0⟩, 6, false, 0xFFF, 0, []⟩])
                ∧ (c.crossTile = false → c' = c))
    ∧ Happens (.tileSave l tile) (tileSaveDue l tile) (fun s u => u.fab.elems = s.fab.elems ∧ u.fab.stations = s.fab.stations
        ∧ ((∃ t ∈ s.fab.tiles, t.line = l ∧ t.num ≠ tile ∧ t.saved = false) →
            State.TileBecame s u l tile (fun t y => y = { addCounts (bankPoison s.fab t) with saved := true, captured := t.links, links := [] })
              ∧ u.fab.gens = s.fab.gens)
        ∧ ((∀ t ∈ s.fab.tiles, t.line = l → t.num ≠ tile → t.saved = true) →
            State.TileBecame s u l tile (fun t y => y = { addCounts (bankPoison s.fab t) with
              saved := true, captured := t.links, links := [], wbuf := [], wbufPoison := [] }))
        ∧ u.fab.chans = s.fab.chans
        ∧ ∀ x, findLine s.fab l = some x →
            ((∃ t ∈ s.fab.tiles, t.line = l ∧ t.num ≠ tile ∧ t.saved = false) → ∃ y, findLine u.fab l = some y ∧ y.state = x.state ∧ y.saved = x.saved)
            ∧ ((∀ t ∈ s.fab.tiles, t.line = l → t.num ≠ tile → t.saved = true) → saved s u x))
    ∧ Happens (.quiescentPreempt l) (quiescentPreemptDue l) (fun s u => u.fab.elems = s.fab.elems ∧ u.fab.stations = s.fab.stations
        ∧ u.fab.chans = s.fab.chans ∧ (∀ t ∈ u.fab.tiles, t.line = l → t.saved = true)
        ∧ ∀ x, findLine s.fab l = some x → saved s u x)
    ∧ Happens (.lineRestore l) (lineRestoreDue l) (fun s u =>
        (∀ t ∈ u.fab.tiles, t.line = l → t.saved = false ∧ t.inRound = false ∧ t.xlat = [])
        ∧ (∀ l' n, l' ≠ l → findElem u.fab l' n = findElem s.fab l' n ∧ findStation u.fab l' n = findStation s.fab l' n)
        ∧ ∀ x bs, findLine s.fab l = some x → mapBolts x.links (freeBolts s.fab x.vf) x.bolts.length [] = some bs →
            let area := (restoreSlices s.mem x (updLine l (fun y => { y with bolts := bs }) (newAccess s.fab))).1
            (∀ th e, findElem s.fab l th = some e →
              findElem u.fab l th = some (area.elem (tileBlock (tileOf th) + 0x1000 + 3328 * (th % 16)) e))
            ∧ ∃ y, findLine u.fab l = some y ∧ y.bolts = bs ∧ y.saved = false ∧ y.noEdge = false ∧ y.preempt = false ∧ y.cyc = 0
                ∧ y.overflowing = [] ∧ y.stretch = 0 ∧ y.bel.stretched = false ∧ y.runFrom = s.fab.cycle + 1
                ∧ y.saveFrames = [] ∧ y.sliceFrom = s.fab.cycle
                ∧ (s.calm → x.stop = none → x.begun = true → y.state = runState s.fab x))

/-! ## The host -/

/-- R206, R207, R210, R211, R377: FLT_RESUME on a halting record of its partition takes the record away. Resuming a firing has its slot fire again first
(R64) and lets the line run on once no other record stops it; resuming an access, pattern, copy or row lets it go on. Ending ends the line with status 3.
Skipping a load answers it with poisoned zeros, and skipping a firing moves its element past the slot, which does not fire again for it. Action 3, an
index with no such record, and a record whose unit is no longer halted because its line has ended do nothing, and an end-of-stream at the resume port asks for nothing, which is the model's choice (log 60); the port's token
is popped. FQ_HEAD moves the queue's head. No byte of memory changes but where the record's line is saved: its save area then takes the change (the
model's choice, log 35). -/
def Obligations.FaultsAreResumed : Prop :=
  ∀ (vf ix l ch v : Nat),
    let ring (s : State) : Prop := (getPart s.fab vf).fqLog ≠ 0 ∨ (getPart s.fab vf).ebudget = false
    let gone (s u : State) (r : Rec) : Prop := u.fab.recs = s.fab.recs.filter fun x => !(x == r)
    let alone (s : State) (r : Rec) : Prop := ∀ q ∈ s.fab.recs ++ s.fab.newRecs, q ≠ r → ¬(q.line = r.line ∧ q.hasLine = true ∧ q.halted = true
      ∧ q.stops = true)
    let live (s : State) (r : Rec) : Prop := ∀ x, findLine s.fab r.line = some x → x.saveFrames = []
    let rests (s u : State) (r : Rec) : Prop := live s r → u.mem = s.mem
    let nothing (s u : State) : Prop := u.mem = s.mem ∧ u.fab = newAccess s.fab
    let isOver (s : State) : Prop := ∀ r ∈ s.fab.recs, r.vf = vf → r.index.map (· % 65536) = some (ix % 65536) →
      ((∃ th sl, r.what = .firing th sl) ∨ r.what = .bellows ∨ ∃ q, r.what = .sink q)
        ∧ ∀ x, findLine s.fab r.line = some x → x.endStatus.isSome = true ∨ x.state = 6
    let runs (s u : State) (r : Rec) : Prop := r ∉ s.fab.newRecs → alone s r → State.LineBecame s u r.line fun x y =>
      y = { x with stop := none, runFrom := s.fab.cycle + 1, state := if x.state = 5 then runState s.fab x else x.state }
    Happens (.fltResumeResume vf ix) (fltResumeDue vf ix) (fun s u => ring s →
      (findRec s.fab vf ix = none → nothing s u) ∧ (isOver s → nothing s u)
      ∧ ∀ r, findRec s.fab vf ix = some r →
          (∀ th sl, r.what = .firing th sl → rests s u r ∧ gone s u r ∧ runs s u r
            ∧ State.ElemBecame s u r.line th fun e x => x = { e with redo := some sl })
          ∧ (∀ id, r.what = .access id → rests s u r ∧ gone s u r ∧ ∀ a, findAcc s.fab id = some a →
              findAcc u.fab id = some { a with halted := false })
          ∧ (∀ t g, r.what = .pattern t g → rests s u r ∧ gone s u r ∧ State.GenBecame s u r.line t g fun x y => y = { x with halted := false })
          ∧ (∀ t c, r.what = .copy t c ∨ r.what = .row t c → rests s u r ∧ gone s u r ∧ State.CopyBecame s u r.line t c fun x y => y = { x with halted := false }))
    ∧ Happens (.fltResumeEnd vf ix) (fltResumeDue vf ix) (fun s u =>
      (findRec s.fab vf ix = none → nothing s u) ∧ (isOver s → nothing s u)
      ∧ ∀ r, findRec s.fab vf ix = some r → rests s u r ∧ (r.what ≠ .budget → r.what ≠ .none → gone s u r ∧ State.LineBecame s u r.line fun x y =>
          (x.endStatus = none → x.state ≠ 6 → y.endStatus = some 3 ∧ y.state = 4 ∧ y.stop = none)
            ∧ (x.endStatus.isSome = true ∨ x.state = 6 → y = x)))
    ∧ Happens (.fltResumeSkip vf ix) (fltResumeDue vf ix) (fun s u => (findRec s.fab vf ix = none → nothing s u) ∧ (isOver s → nothing s u) ∧ ∀ r, findRec s.fab vf ix = some r →
        (∀ th sl, r.what = .firing th sl → rests s u r ∧ gone s u r ∧ runs s u r
          ∧ State.ElemBecame s u r.line th fun e x => x = { e with rotPtr := sl % 32, redo := none })
        ∧ (∀ id a, r.what = .access id → findAcc s.fab id = some a → a.kind = .ld ∨ a.kind = .ldv → rests s u r ∧ gone s u r
            ∧ findAcc u.fab id = none ∧ State.Answered s u a.line a.th id ⟨Lanes.zero, true⟩))
    ∧ Happens (.fltResumeNone vf ix) (fltResumeDue vf ix) nothing
    ∧ Happens (.resumePortToken l ch) (resumePortTokenDue l ch) (fun s u => ∀ c t, findChan s.fab l ch = some c → (visible s.fab c).head? = some t →
        let popped : Prop := State.ChanBecame s u l ch fun z z' => z'.q = z.q.drop 1
        (isEos t.tag = true ∨ t.payload.l1.toNat % 4 = 3 → popped ∧ u.mem = s.mem ∧ u.fab = { newAccess s.fab with chans := u.fab.chans, lines := u.fab.lines })
        ∧ ∀ r th sl, isEos t.tag = false → t.payload.l1.toNat % 4 = 0 → vfOf l = vf → ring s →
            findRec s.fab vf (t.payload.l0.toNat % 65536) = some r → r.what = .firing th sl → popped ∧ rests s u r ∧ gone s u r)
    ∧ Happens (.fqHead vf v) hostDue (fun s u => u.mem = s.mem ∧ u.fab = { newAccess s.fab with parts := u.fab.parts }
        ∧ getPart u.fab vf = { getPart s.fab vf with fqHead := v % 2 ^ 32 } ∧ ∀ w, w ≠ vf → getPart u.fab w = getPart s.fab w)

/-- R130, R222, R223, R226, R227, R240, R242: ERR_BUDGET, through the physical function's view, pays what is owed and leaves the rest; PART_GRANT gives a function with no line and no launch the bolts
that no other holds; both are ignored through a virtual function's view. GUARD_DROP takes the token at a guarded port and counts it, with a record where the port's last one is 1,024
cycles old; where the route's converter lies beyond that port it is dropped before it is converted. COUNTER_WRAP leaves the counter modulo 2^48, sets its
overflow bit and signals where it is enabled, no vector above 63 (log 72). -/
def Obligations.BudgetsGrantsAndDrops : Prop :=
  ∀ (vf v l ch tile n : Nat) (pf : Bool),
    Happens (.errBudget vf pf v) hostDue (fun s u => u.mem = s.mem ∧ u.fab = { newAccess s.fab with parts := u.fab.parts }
      ∧ (∀ w, w ≠ vf → getPart u.fab w = getPart s.fab w)
      ∧ (pf = false → u.fab = newAccess s.fab)
      ∧ (pf = true → getPart u.fab vf = { getPart s.fab vf with
          remain := v % 2 ^ 32 - (getPart s.fab vf).owed, owed := (getPart s.fab vf).owed - v % 2 ^ 32 }))
    ∧ Happens (.partGrant vf pf v) hostDue (fun s u => u.mem = s.mem ∧ u.fab = { newAccess s.fab with parts := u.fab.parts }
        ∧ (pf = false ∨ (∃ x ∈ s.fab.lines, x.vf = vf) ∨ (∃ x ∈ s.fab.launches, x.vf = vf) → u.fab = newAccess s.fab)
        ∧ (pf = true → (∀ x ∈ s.fab.lines, x.vf ≠ vf) → (∀ x ∈ s.fab.launches, x.vf ≠ vf) → 1 ≤ vf → vf ≤ 48 →
            ∀ b, (getPart u.fab vf).grant.testBit b = true ↔
              b < 48 ∧ v.testBit b = true ∧ ∀ p ∈ s.fab.parts, p.vf ≠ vf → p.grant.testBit b = false))
    ∧ Happens (.guardDrop l ch) (guardDropDue l ch) (fun s u => u.mem = s.mem ∧ ∀ c p, findChan s.fab l ch = some c → guardPort s.fab c = some p →
        let key := boltOf s.fab l (p / 16) * 16 + p % 16
        let drops (z : State) : Option (Nat × Nat × Option Nat) := z.fab.module_.drops.find? fun d => d.1 == key
        let count (z : State) : Nat := ((drops z).map fun d => d.2.1).getD 0
        let writes : Prop := (∀ d k, drops s = some d → d.2.2 = some k → k + 1024 ≤ s.fab.cycle)
          ∧ ∀ r ∈ s.fab.newRecs, ∀ k n, r.what ≠ .guard key k n
        State.ChanBecame s u l ch (fun z z' => if swageBeyond s.fab c then z'.raw = z.raw.drop 1 else z'.q = z.q.drop 1) ∧ count u = count s + 1
          ∧ (writes → State.OneRec s u (fun r => r.code = 14 ∧ r.line = l ∧ r.halted = false
              ∧ r.detail = p % 16 + 256 * min (count s + 1) (2 ^ 24 - 1)))
          ∧ (¬writes → u.fab.newRecs = s.fab.newRecs))
    ∧ Happens (.counterWrap l tile n) (counterWrapDue l tile n) (fun s u => u.mem = s.mem ∧ ∀ x, n < 16 → findTile s.fab l tile = some x →
        State.TileBecame s u l tile (fun _ y => vget y.ctr n = vget x.ctr n % 2 ^ 48 ∧ (∀ k, k < 16 → k ≠ n → vget y.ctr k = vget x.ctr k)
          ∧ ∀ k, k < 16 → y.ovf.getLsbD k = (x.ovf.getLsbD k || decide (k = n)))
        ∧ u.fab.msix = s.fab.msix ++ (if x.ien.getLsbD n ∧ ((getPart s.fab (vfOf l)).fqVec + 1) % 65536 < 64
              then [⟨vfOf l, ((getPart s.fab (vfOf l)).fqVec + 1) % 65536⟩] else []))

/-- R130, R209, R223, R225, R238, R239: what a write of a partition's register leaves in it: its fields within their widths, LOG2N at most 12, a count of
kind W1C without the bits written as ones, DIG_BASE with the array empty, the maps by the physical function alone. -/
def Rule.PartRegisters (vf : Nat) (pf : Bool) (rg : RegName) (v : Nat) (p q : Part) : Prop :=
  let w1c (x y n : Nat) : Prop := ∀ i, i < 32 → y.testBit i = (x.testBit i && !n.testBit i)
  let log := min (v % 16) 12
  let set (on : Prop) (fr : Nat) (xs ys : List Nat) : Prop := ∀ k, k ∈ ys ↔ if k = fr then on else k ∈ xs
  (rg = .errMuslin vf → w1c p.muslin q.muslin v ∧ q = { p with muslin := q.muslin })
  ∧ (rg = .fqBase vf → q = { p with fqBase := v / 64 % 2 ^ 42 * 64 })
  ∧ (rg = .fqCfg vf → q = { p with fqVec := v / 2 ^ 16 % 2 ^ 16, fqHen := v.testBit 4, fqLog := log })
  ∧ (rg = .fqLost vf → w1c p.fqLost q.fqLost v ∧ q = { p with fqLost := q.fqLost })
  ∧ (rg = .trcBase vf → q = { p with trcBase := v / 64 % 2 ^ 42 * 64 })
  ∧ (rg = .trcCfg vf → q = { p with trcPeriod := v / 2 ^ 16 % 2 ^ 16, trcLog := log, trcTail := p.trcTail % 2 ^ log })
  ∧ (rg = .trcStat vf → w1c p.trcLost q.trcLost (v / 2 ^ 16 % 2 ^ 16) ∧ q = { p with trcLost := q.trcLost })
  ∧ (rg = .digBase vf → q = { p with digBase := v / 64 % 2 ^ 42 * 64, digCount := 0 })
  ∧ (rg = .digCfg vf → w1c p.digOver q.digOver (v / 2 ^ 16 % 2 ^ 16) ∧ q = { p with digLen := v % 2 ^ 16, digOver := q.digOver })
  ∧ (∀ fr, rg = .frameMap vf fr → pf = true → set (v.testBit 0 = true) fr p.frames q.frames ∧ q = { p with frames := q.frames })
  ∧ ∀ fr, rg = .poolMap vf fr → pf = true → set (v.testBit 0 = true) fr p.pool q.pool ∧ q = { p with pool := q.pool }

/-- R132, R186, R191, R202, R223, R228: what a write of an interface's register leaves in it. A SLICE of 0 leaves the slice. -/
def Rule.IfaceRegisters (vf ps : Nat) (pf : Bool) (rg : RegName) (v : Nat) (p q : Iface) : Prop :=
  (rg = .lqBase vf ps → q = { p with lqBase := v / 64 % 2 ^ 49 * 64 })
  ∧ (rg = .lqCfg vf ps → q = { p with lqLog := min (v % 16) 12 })
  ∧ (rg = .ifSched vf ps → pf = true → q = { p with
      slice := if v / 2 ^ 8 % 2 ^ 24 = 0 then p.slice else v / 2 ^ 8 % 2 ^ 24, weight := v / 2 ^ 4 % 16, prio := v % 4 })
  ∧ (rg = .quotaLimit vf ps → pf = true → q = { p with limit := v % 2 ^ 32 })
  ∧ (rg = .quotaUsed vf ps → pf = true → q = { p with used := v % 2 ^ 32 })
  ∧ (rg = .xlRoot vf ps → q = { p with rootFrame := v / 2 ^ 16 % 2 ^ 32, rootClass := v / 2 ^ 5 % 4, rootEn := v.testBit 0 })
  ∧ (rg = .ifPeer vf ps → pf = true → q = { p with
      peerDev := v / 2 ^ 106 % 2 ^ 22, peerLen := v / 2 ^ 64 % 2 ^ 32, peerBase := v / 2 ^ 16 % 2 ^ 39 })

/-- R177, R240, R242: what a write of a voter's counts, of a counter, its selection, or the counters' status leaves. A counter of a running tile takes
what is written after the cycle's events (R242). -/
def Rule.TileRegisters (rg : RegName) (v : Nat) (s u : State) : Prop :=
  (∀ l n, rg = .votCnt l n → State.VoterBecame s u l n fun x y =>
    y = { x with dis0 := v % 2 ^ 10, dis1 := v / 2 ^ 10 % 2 ^ 10, dis2 := v / 2 ^ 20 % 2 ^ 10 })
  ∧ (∀ l t n, rg = .ctrVal l t n → n < 16 → State.TileBecame s u l t fun x y =>
      (x.saved = false → y = { x with wrote := (n, v % 2 ^ 48) :: x.wrote })
        ∧ (x.saved = true → y = { x with ctr := y.ctr } ∧ ∀ k, k < 16 → vget y.ctr k = if k = n then v % 2 ^ 48 else vget x.ctr k))
  ∧ (∀ l t n, rg = .ctrSel l t n → n < 16 → State.TileBecame s u l t fun x y =>
      y = { x with sel := y.sel } ∧ ∀ k, k < 16 → vget y.sel k = if k = n then v % 2 ^ 8 else vget x.sel k)
  ∧ ∀ l t, rg = .ctrStat l t → State.TileBecame s u l t fun x y => y = { x with ien := y.ien, ovf := y.ovf }
      ∧ ∀ k, k < 16 → y.ien.getLsbD k = v.testBit (16 + k) ∧ y.ovf.getLsbD k = (x.ovf.getLsbD k && !v.testBit k)

/-- R130, R132, R177, R186, R191, R202, R205, R209, R223, R225, R228 to R230, R233, R238 to R240, R242: XL_SHOOT is held while BUSY is set; else BUSY is set. It and ATS_INVALIDATION leave no tile a leaf of the range; that an
invalidation acts beside BUSY, with a list of its own, is the model's choice (log 60). SHOOTDOWN_DONE clears BUSY or begins the next held write, and
answers the invalidations that are over. POWER_THROTTLE sets its state. POWER_ON leaves no line, element or group and zero memory (the model's choice,
log 6), keeps the inputs (log 58), and starts the device when no step of the start fails. ATTESTATION_REQUEST appends one report. REGISTER_WRITE: a
register of the physical function ignores a write through another view, a read-only one every write, and each other one takes its fields; another
partition's registers, the lines, the elements and the channels stand; no byte of memory changes but by a tile's counter or vote register, which a saved line keeps in its save area (the model's choice, log 35). -/
def Obligations.TranslationAndBoard : Prop :=
  ∀ (vf ps v nonce : Nat) (on pf : Bool) (o : BootInput) (rg : RegName),
    let still (s u : State) : Prop := u.mem = s.mem ∧ u.fab.elems = s.fab.elems ∧ u.fab.chans = s.fab.chans
    let inTile : Bool := match rg with
      | .votCnt _ _ | .ctrVal _ _ _ | .ctrSel _ _ _ | .ctrStat _ _ => true
      | _ => false
    let readOnly : Prop := rg = .errOwed vf ∨ rg = .fqTail vf ∨ rg = .partAcct vf ∨ rg = .lqAcc vf ps ∨ (∃ l n, rg = .votLast l n ∨ rg = .bellows l n)
      ∨ (∃ l t n, rg = .cntNode l t n) ∨ ∃ n, rg = .weftStat n
    let dropped (u : State) : Prop :=
      ∀ t ∈ u.fab.tiles, vfOf t.line = vf → ∀ e ∈ t.xlat, e.1 = ps → leafInShoot (v / 65536 % 2 ^ 39) (v % 65536) e.2.1 = false
    Happens (.xlShoot vf ps v) hostDue (fun s u => still s u
      ∧ ((getIface s.fab vf ps).busy = true → u.fab = { newAccess s.fab with ifaces := u.fab.ifaces }
          ∧ getIface u.fab vf ps = { getIface s.fab vf ps with heldShoot := (getIface s.fab vf ps).heldShoot ++ [v] })
      ∧ ((getIface s.fab vf ps).busy = false → (getIface u.fab vf ps).busy = true ∧ dropped u))
    ∧ Happens (.atsInvalidation vf ps v) hostDue (fun s u => still s u ∧ dropped u
        ∧ ∃ ids, getIface u.fab vf ps = { getIface s.fab vf ps with ats := (getIface s.fab vf ps).ats ++ [(v, ids)] })
    ∧ Happens (.shootdownDone vf ps) (shootdownDoneDue vf ps) (fun s u => u.mem = s.mem ∧ u.fab.elems = s.fab.elems ∧
        let i := getIface s.fab vf ps
        let left := i.ats.filter fun a => !shootOver s.fab a.2
        let ended : Prop := i.busy = true ∧ shootOver s.fab i.shootAccs = true
        u.fab.answers = s.fab.answers ++ (i.ats.filter fun a => shootOver s.fab a.2).map (fun a => (vf, ps, a.1))
          ∧ (ended → i.heldShoot = [] → getIface u.fab vf ps = { i with busy := false, shootAccs := [], ats := left })
          ∧ (ended → ∀ k r, i.heldShoot = k :: r → (getIface u.fab vf ps).busy = true ∧ (getIface u.fab vf ps).heldShoot = r)
          ∧ (¬ended → getIface u.fab vf ps = { i with ats := left }))
    ∧ Happens (.powerThrottle on) hostDue (fun s u => u.mem = s.mem
        ∧ u.fab = { newAccess s.fab with module_ := { s.fab.module_ with throttle := on } })
    ∧ Happens (.powerOn o) hostDue (fun s u => u.fab.inputs = s.fab.inputs ∧ u.fab.lines = [] ∧ u.fab.elems = [] ∧ u.fab.chans = [] ∧ u.fab.groups = [] ∧ u.fab.accs = []
        ∧ (∀ a, u.byte a = 0)
        ∧ (u.fab.module_.booted = true ↔ ∀ e ∈ u.fab.module_.startRec, e.2.1 ≠ 1))
    ∧ Happens (.attestationRequest nonce) (fun _ f => f.module_.booted) (fun s u => u.mem = s.mem
        ∧ ∃ b, u.fab = { newAccess s.fab with module_ := { s.fab.module_ with reports := s.fab.module_.reports ++ [b] } }
            ∧ ∀ i, i < 32 → b[i]? = some (BitVec.ofNat 8 (nonce / 256 ^ i)))
    ∧ Happens (.registerWrite pf rg v) hostDue (fun s u => (inTile = false → u.mem = s.mem)
        ∧ (supervisor rg = true → pf = false → u.fab = newAccess s.fab)
        ∧ (inTile = false → u.fab.elems = s.fab.elems ∧ u.fab.chans = s.fab.chans ∧ u.fab.lines = s.fab.lines ∧ u.fab.tiles = s.fab.tiles
            ∧ ∀ w, w ≠ regVf rg → getPart u.fab w = getPart s.fab w ∧ ∀ i, getIface u.fab w i = getIface s.fab w i)
        ∧ Rule.PartRegisters vf pf rg v (getPart s.fab vf) (getPart u.fab vf)
        ∧ Rule.IfaceRegisters vf ps pf rg v (getIface s.fab vf ps) (getIface u.fab vf ps)
        ∧ Rule.TileRegisters rg v s u
        ∧ (readOnly → u.fab = newAccess s.fab)
        ∧ (rg = .weftDev → pf = true → u.fab = { newAccess s.fab with module_ := { s.fab.module_ with weftDev := v % 2 ^ 22 } }))

/-! ## The statements made of the rules above -/

/-- Integer sums, products and high products. -/
def Obligations.IntegerArithmetic : Prop := Rule.IntegerSums ∧ Rule.HighProducts

/-- The bitwise words and the shifts. -/
def Obligations.BitsAndShifts : Prop := Rule.BitwiseWords ∧ Rule.Shifts

/-- Integer minima and maxima, and the bit counts. -/
def Obligations.ExtremaAndCounts : Prop := Rule.MinimaMaxima ∧ Rule.BitCounts

/-- Constants, register and lane moves, the main file, NOP. -/
def Obligations.MovesAndConstants : Prop := Rule.ConstantsAndMoves ∧ Rule.LaneMoves ∧ Rule.PutmAndNop

/-- The words that read the line and the tile. -/
def Obligations.StateReads : Prop := Rule.LineReads ∧ Rule.TileReads

/-- The comparisons, and float minima and maxima. -/
def Obligations.ComparesAndFloatExtrema : Prop := Rule.CompareMasks ∧ Rule.FloatMinMax

/-- A word whose conditions do not hold, and a command that may not issue, wait. -/
def Obligations.Waiting : Prop := Rule.WordsWait ∧ Rule.CommandsWait

/-- FENCE, and the room of an address generator. -/
def Obligations.GeneratorQueues : Prop := Rule.FenceIssues ∧ Rule.GeneratorRoom

/-- ADVR and ADVW. -/
def Obligations.ChannelPointers : Prop := Rule.AdvrPops ∧ Rule.AdvwCommits

/-- STEER and MERGE. -/
def Obligations.SteerAndMerge : Prop := Rule.SteerForwards ∧ Rule.MergeChooses

/-- GNEW, GFREE, JOIN and LEAVE. -/
def Obligations.Groups : Prop := Rule.GroupNumbers ∧ Rule.GroupMembership

/-- From the doorbell to a running line. -/
def Obligations.Launches : Prop := Rule.LaunchQueue ∧ Rule.LinesArePlaced

/-- BAR, WAITN, and the tokens of the controller tree. -/
def Obligations.TreeCommands : Prop := Rule.BarriersAndWaits ∧ Rule.EnablesAndDones

/-- The commands to the line: BEAT, MARK, RECFG, RSZ. -/
def Obligations.LineCommands : Prop := Rule.BeatCommands ∧ Rule.ReconfigureAndResize

/-- The first edge, the stall, the resumption, the end-of-stream commit, the trace. -/
def Obligations.BeatsBeginAndStall : Prop := Rule.LinesBegin ∧ Rule.StallsAndResumptions

/-- Loads and atomics return. -/
def Obligations.ReadsReturn : Prop := Rule.LoadsReturn ∧ Rule.AtomicsReturn

/-- The commands to generators and queues. -/
def Obligations.EngineCommands : Prop := Rule.PatternCommands ∧ Rule.QueueCommands

/-! ## The whole machine -/

/-- R56: what a source selector gives. A register gives its value and poison, a constant is not poisoned, an input handle gives its head; an immediate is the signed value
of its five bits in every element of the integer format in integer words, in every lane in offsets, and that value rounded to the float format in float
words. -/
def Obligations.OperandValues : Prop :=
  ∀ (f : Fabric) (e : Elem) (k : ImmKind) (n v : Nat),
    readSrc f e k .lat = e.lat ∧ readSrc f e k (.o n) = vget e.o n ∧ readSrc f e k (.k n) = ⟨vget e.k n, false⟩
    ∧ (∀ t, (inputView f e n).head? = some t → readSrc f e k (.c n) = ⟨t.payload, t.poison⟩)
    ∧ (readSrc f e k (.imm v)).poison = false
    ∧ EachElem (intWidth e.ifmt) (fun l i => elemS ((readSrc f e .int (.imm v)).v.get l) i (intWidth e.ifmt) = (BitVec.ofNat 5 v).toInt)
    ∧ (∀ l, l < 8 → (readSrc f e .offset (.imm v)).v.get l = (BitVec.ofNat 5 v).signExtend 32)
    ∧ EachElem (floatFmt e.ffmt).width (fun l i => elemU ((readSrc f e .float (.imm v)).v.get l) i (floatFmt e.ffmt).width
        = roundFV (floatFmt e.ffmt) e.rnd (.fin (decide ((BitVec.ofNat 5 v).toInt < 0)) (BitVec.ofNat 5 v).toInt.natAbs 0))

/-- R65 to R75, R84 to R87: decoding the word of a well-formed element word or command gives it back, with every operand at every value. -/
def Obligations.DecodeEncode : Prop :=
  ∀ (i : Instr) (w : Nat), i.wf = true → encode i = some w →
    (i.isCommand = false → decodeElem w = .ok i) ∧ (i.isCommand = true → decodeCmd w = .ok i)

/-- R65 to R75, R82, R84 to R87: the decoders accept no other word: what they read of a 32-bit word is well-formed, and its encoding is that word. -/
def Obligations.EncodeDecode : Prop :=
  ∀ (i : Instr) (w : Nat), w < 2 ^ 32 →
    (decodeElem w = .ok i → encode i = some w ∧ i.wf = true ∧ i.isCommand = false)
    ∧ (decodeCmd w = .ok i → encode i = some w ∧ i.wf = true ∧ i.isCommand = true)

/-- Words of the instruction reference's examples, decoded. -/
def Obligations.DecodedWords : Prop :=
  decodeElem 0x080C8640 = .ok (.ctrrd 2 (.o 0) (.k 1)) ∧ decodeElem 0x052CA400 = .ok (.fcvti 1 (.o 2) (.c 0))
  ∧ decodeElem 0x04280419 = .ok (.sub 1 .lat (.c 0) (.k 1)) ∧ decodeElem 0x10B50300 = .ok (.plog 4 2 0 1 8)
  ∧ decodeElem 0x094F0109 = .ok (.emit 2 6 1 (.o 1)) ∧ decodeElem 0x05641500 = .ok (.merge 1 0 1 2 4)
  ∧ decodeCmd 0x00148000 = .ok (.enab .always 1) ∧ decodeCmd 0x0010C080 = .ok (.waitn .always 3 128) ∧ decodeCmd 0x00180000 = .ok (.sigd .always)

/-- R39, R49, R178: one step runs what the agenda names: the decoded word of the firing element's slot, the decoded command of the issuing controller, or the event; the agenda goes on
behind it. A word that does not decode is refused with its cause, an event that is no longer due is passed over; the cycle's end and close have their effect, and with the agenda empty the next cycle is
planned. Where an element or controller of the agenda has gone, nothing happens. -/
def Obligations.StepRunsTheAgenda : Prop :=
  ∀ (s : State) (r : List Todo),
    (∀ l th slot e, s.fab.agenda = .fire l th slot :: r → findElem s.fab l th = some e →
      (∀ i, decodeElem (vget e.slots slot).toNat = .ok i → step s = exec i (s.begin r (.elem l th slot)))
        ∧ ∀ x, decodeElem (vget e.slots slot).toNat = .error x → step s = .refused (.illegalWord x.cause))
    ∧ (∀ l tile ct pos c w, s.fab.agenda = .issue l tile ct pos :: r → findCtl s.fab l tile ct = some c → c.table[pos]? = some w →
        (∀ i, decodeCmd w.toNat = .ok i → step s = exec i (s.begin r (.ctl l tile ct pos)))
          ∧ ∀ x, decodeCmd w.toNat = .error x → step s = .refused (.illegalWord x.cause))
    ∧ (∀ i, s.fab.agenda = .event i :: r →
        (exec i (s.begin r .none) ≠ .fault .eventNotDue → step s = exec i (s.begin r .none))
          ∧ (exec i (s.begin r .none) = .fault .eventNotDue → step s = .next (s.begin r .none)))
    ∧ (∀ l th slot, s.fab.agenda = .fire l th slot :: r → findElem s.fab l th = none → step s = .next (s.begin r (.elem l th slot)))
    ∧ (∀ l tile ct pos, s.fab.agenda = .issue l tile ct pos :: r → findCtl s.fab l tile ct = none → step s = .next (s.begin r (.ctl l tile ct pos)))
    ∧ (s.fab.agenda = .endCycle :: r → step s = .next (State.commit s.mem (endCycle (s.begin r .none).fab)))
    ∧ (s.fab.agenda = .closeCycle :: r → step s = .next (State.commit s.mem (closeCycle (s.begin r .none).fab)))
    ∧ (s.fab.agenda = [] → step s = .next (State.commit s.mem (planCycle s.mem s.fab)))

/-- After reset memory is in canonical form and nothing is posted. -/
def Obligations.ResetIsGood : Prop := State.reset.good

/-- R130, R132, R185, R186, R191, R209, R222: the values after reset: no line, element, channel, launch or fault record; a partition's budget 0x00100000 with nothing owed, its grant empty and its fault queue
disabled; an interface's launch queue disabled, slice 2,000, quota limit all ones, translation off. That memory reads zero is the model's choice (log 6), as is that the device has
booted (log 2). -/
def Obligations.ResetValues : Prop :=
  State.reset.fab.lines = [] ∧ State.reset.fab.elems = [] ∧ State.reset.fab.chans = [] ∧ State.reset.fab.launches = [] ∧ State.reset.fab.recs = []
  ∧ (∀ a, State.reset.byte a = 0) ∧ State.reset.fab.module_.booted = true
  ∧ (∀ vf, (getPart State.reset.fab vf).remain = 0x00100000 ∧ (getPart State.reset.fab vf).owed = 0 ∧ (getPart State.reset.fab vf).grant = 0
      ∧ (getPart State.reset.fab vf).fqLog = 0 ∧ (getPart State.reset.fab vf).muslin = 0)
  ∧ ∀ vf ps, (getIface State.reset.fab vf ps).lqLog = 0 ∧ (getIface State.reset.fab vf ps).slice = 2000
      ∧ (getIface State.reset.fab vf ps).limit = 0xFFFFFFFF ∧ (getIface State.reset.fab vf ps).used = 0 ∧ (getIface State.reset.fab vf ps).rootEn = false

/-- Every step keeps memory in canonical form with nothing posted. -/
def Obligations.StepsKeepGood : Prop := ∀ s t : State, s.good → step s = .next t → t.good

/-- R133, R158, R358: no element word and no controller command changes a byte of memory in the step that runs it: stores, atomics and the engines' writes are performed by
later events. -/
def Obligations.WordsLeaveMemory : Prop :=
  ∀ (i : Instr) (s t : State), s.good → (encode i).isSome = true → exec i s = .next t → t.mem = s.mem
end

