-- ==== Sys2Proof/Laws/Memory.lean ====
section
/-!
SUPPORT. Memory: read after write, other addresses, and that every operation keeps the canonical form.
-/
namespace Sys2Proof.Machine

theorem Memory.wfFrom_mono {lo hi : Nat} (h : lo ≤ hi) : ∀ {m : Memory}, Memory.wfFrom hi m = true → Memory.wfFrom lo m = true
  | [], _ => rfl
  | (a, b) :: r, hm => by
    simp only [Memory.wfFrom, Bool.and_eq_true, decide_eq_true_eq, bne_iff_ne] at hm ⊢
    exact ⟨⟨Nat.le_trans h hm.1.1, hm.1.2⟩, hm.2⟩

/-- An address below every listed one is unlisted. -/
theorem Memory.get_below : ∀ {m : Memory} {lo a : Nat}, Memory.wfFrom lo m = true → a < lo → Memory.get m a = Config.unwritten
  | [], _, _, _, _ => rfl
  | (b, v) :: r, lo, a, hm, h => by
    simp only [Memory.wfFrom, Bool.and_eq_true, decide_eq_true_eq] at hm
    have h1 : a ≠ b := by omega
    have h2 : a < b := by omega
    simp [Memory.get, h1, h2]

/-- A write keeps the canonical form. -/
theorem Memory.wfFrom_set : ∀ {m : Memory} {lo a : Nat} (v : Byte), Memory.wfFrom lo m = true → lo ≤ a →
    Memory.wfFrom lo (Memory.set m a v) = true
  | [], lo, a, v, _, h => by
    by_cases hv : v = Config.unwritten
    · simp [Memory.set, hv, Memory.wfFrom]
    · simp [Memory.set, hv, Memory.wfFrom, h]
  | (b, w) :: r, lo, a, v, hm, h => by
    simp only [Memory.wfFrom, Bool.and_eq_true, decide_eq_true_eq, bne_iff_ne] at hm
    obtain ⟨⟨h1, h2⟩, h3⟩ := hm
    by_cases e : a = b
    · subst e
      by_cases hv : v = Config.unwritten
      · simp only [Memory.set, hv, if_pos]
        exact Memory.wfFrom_mono (by omega) h3
      · simp [Memory.set, hv, Memory.wfFrom, h, h3]
    · by_cases l : a < b
      · by_cases hv : v = Config.unwritten
        · simp [Memory.set, e, l, hv, Memory.wfFrom, h1, h2, h3]
        · have : a + 1 ≤ b := l
          simp [Memory.set, e, l, hv, Memory.wfFrom, h, h2, h3, this]
      · have hb : b + 1 ≤ a := by omega
        simp [Memory.set, e, l, Memory.wfFrom, h1, h2, Memory.wfFrom_set v h3 hb]

theorem Memory.wf_set {m : Memory} (a : Nat) (v : Byte) (h : Memory.wf m = true) : Memory.wf (Memory.set m a v) = true :=
  Memory.wfFrom_set v h (Nat.zero_le a)

/-- What a read finds after a write, at every address. -/
theorem Memory.get_set : ∀ {m : Memory} {lo : Nat} (a x : Nat) (v : Byte), Memory.wfFrom lo m = true →
    Memory.get (Memory.set m a v) x = if x = a then v else Memory.get m x
  | [], lo, a, x, v, _ => by
    by_cases hv : v = Config.unwritten
    · by_cases e : x = a <;> simp [Memory.set, Memory.get, hv, e]
    · by_cases e : x = a <;> simp [Memory.set, Memory.get, hv, e]
  | (b, w) :: r, lo, a, x, v, hm => by
    simp only [Memory.wfFrom, Bool.and_eq_true, decide_eq_true_eq, bne_iff_ne] at hm
    obtain ⟨⟨h1, h2⟩, h3⟩ := hm
    by_cases e : a = b
    · subst e
      by_cases hv : v = Config.unwritten
      · simp only [Memory.set, hv, if_pos]
        by_cases ex : x = a
        · subst ex; simp [Memory.get_below h3 (Nat.lt_succ_self x)]
        · by_cases l : x < a
          · simp [Memory.get, ex, l, Memory.get_below h3 (show x < a + 1 by omega)]
          · simp [Memory.get, ex, l]
      · by_cases ex : x = a
        · subst ex; simp [Memory.set, hv, Memory.get]
        · simp [Memory.set, hv, Memory.get, ex]
    · by_cases l : a < b
      · by_cases hv : v = Config.unwritten
        · simp only [Memory.set, e, l, hv, if_pos, if_false]
          by_cases ex : x = a
          · subst ex; simp [Memory.get, e, l]
          · simp [ex]
        · simp only [Memory.set, e, l, hv, if_pos, if_false]
          by_cases ex : x = a
          · subst ex; simp [Memory.get]
          · by_cases lx : x < a
            · have e' : x ≠ b := by omega
              have l' : x < b := by omega
              simp [Memory.get, ex, lx, e', l']
            · simp [Memory.get, ex, lx]
      · simp only [Memory.set, e, l, if_false]
        by_cases ex : x = b
        · subst ex
          have : x ≠ a := fun h => e h.symm
          simp [Memory.get, this]
        · by_cases lx : x < b
          · have : x ≠ a := by omega
            simp [Memory.get, ex, lx, this]
          · simp [Memory.get, ex, lx, Memory.get_set a x v h3]

theorem Memory.wf_apply {m : Memory} (h : Memory.wf m = true) : ∀ ws, Memory.wf (Memory.apply m ws) = true
  | [] => h
  | w :: ws => Memory.wf_set w.1 w.2 (Memory.wf_apply h ws)

/-- A committed write is what memory then holds; the newest posted byte wins. -/
theorem Memory.get_apply {m : Memory} (h : Memory.wf m = true) (x : Nat) :
    ∀ ws, Memory.get (Memory.apply m ws) x = (postedAt ws x).getD (Memory.get m x)
  | [] => rfl
  | (a, b) :: ws => by
    have := Memory.get_set a x b (lo := 0) (Memory.wf_apply h ws)
    simp only [Memory.apply, List.foldr] at this ⊢
    rw [this]
    by_cases e : x = a
    · simp [postedAt, e]
    · simp only [postedAt, e, if_false]
      exact Memory.get_apply h x ws

@[simp] theorem Memory.apply_nil (m : Memory) : Memory.apply m [] = m := rfl

/-! ## The end of an instruction -/

@[simp] theorem State.commit_posted (m : Memory) (f : Fabric) : (State.commit m f).fab.posted = [] := rfl

/-- The state at the end of an instruction is good, whatever the instruction posted. -/
theorem State.commit_good {m : Memory} (f : Fabric) (h : Memory.wf m = true) : (State.commit m f).good :=
  ⟨Memory.wf_apply h f.posted, rfl⟩

/-- A byte a program reads at the end of an instruction. -/
theorem State.commit_byte {m : Memory} (f : Fabric) (h : Memory.wf m = true) (a : Nat) :
    (State.commit m f).byte a = readByte m f a := by
  simp [State.byte, State.commit, readByte, Memory.get_apply h]

/-- An instruction that posts nothing leaves memory as it is. -/
theorem State.commit_mem {m : Memory} {f : Fabric} (h : f.posted = []) : (State.commit m f).mem = m := by
  simp [State.commit, h]

/-! ## The runs of an access, and the layout of frames -/

/-- The runs of a word are its four bytes. -/
theorem wordParts_sum (va : Nat) : ((wordParts va).map Prod.snd).sum = 4 := by
  unfold wordParts
  split
  · rfl
  · simp only [List.map_cons, List.map_nil, List.sum_cons, List.sum_nil]; omega

/-- Each word of an access has its list of runs. -/
@[simp] theorem takeRuns_length : ∀ (vs : List Nat) (ps : List (Option (Nat × Bool × Nat))), (takeRuns vs ps).length = vs.length
  | [], _ => rfl
  | _ :: r, _ => by simp [takeRuns, takeRuns_length r]

/-- Laying a frame out changes the table of layouts and nothing else. -/
theorem layOut_rest (anew : Bool) (cls fr : Nat) (f : Fabric) :
    layOut anew cls fr f = { f with layouts := (layOut anew cls fr f).layouts } := by
  unfold layOut
  split <;> rfl

end Sys2Proof.Machine
end

