-- ==== Sys2Proof/Laws/State.lean ====
section
/-!
SUPPORT. One lemma per field for each update of a table: the field it changes, and every field it leaves.
-/
namespace Sys2Proof.Machine

/-! ### `updElem` -/

@[simp] theorem updElem_cycle (l th : Nat) (g : Elem → Elem) (f : Fabric) : (updElem l th g f).cycle = f.cycle := rfl
@[simp] theorem updElem_agenda (l th : Nat) (g : Elem → Elem) (f : Fabric) : (updElem l th g f).agenda = f.agenda := rfl
@[simp] theorem updElem_cur (l th : Nat) (g : Elem → Elem) (f : Fabric) : (updElem l th g f).cur = f.cur := rfl
@[simp] theorem updElem_inputs (l th : Nat) (g : Elem → Elem) (f : Fabric) : (updElem l th g f).inputs = f.inputs := rfl
@[simp] theorem updElem_nextId (l th : Nat) (g : Elem → Elem) (f : Fabric) : (updElem l th g f).nextId = f.nextId := rfl
@[simp] theorem updElem_freeCtr (l th : Nat) (g : Elem → Elem) (f : Fabric) : (updElem l th g f).freeCtr = f.freeCtr := rfl
@[simp] theorem updElem_posted (l th : Nat) (g : Elem → Elem) (f : Fabric) : (updElem l th g f).posted = f.posted := rfl
@[simp] theorem updElem_elems (l th : Nat) (g : Elem → Elem) (f : Fabric) : (updElem l th g f).elems = upd (fun e => e.line == l && e.thread == th) g f.elems := rfl
@[simp] theorem updElem_chans (l th : Nat) (g : Elem → Elem) (f : Fabric) : (updElem l th g f).chans = f.chans := rfl
@[simp] theorem updElem_stations (l th : Nat) (g : Elem → Elem) (f : Fabric) : (updElem l th g f).stations = f.stations := rfl
@[simp] theorem updElem_lines (l th : Nat) (g : Elem → Elem) (f : Fabric) : (updElem l th g f).lines = f.lines := rfl
@[simp] theorem updElem_gens (l th : Nat) (g : Elem → Elem) (f : Fabric) : (updElem l th g f).gens = f.gens := rfl
@[simp] theorem updElem_accs (l th : Nat) (g : Elem → Elem) (f : Fabric) : (updElem l th g f).accs = f.accs := rfl
@[simp] theorem updElem_hist (l th : Nat) (g : Elem → Elem) (f : Fabric) : (updElem l th g f).hist = f.hist := rfl
@[simp] theorem updElem_learnt (l th : Nat) (g : Elem → Elem) (f : Fabric) : (updElem l th g f).learnt = f.learnt := rfl
@[simp] theorem updElem_copies (l th : Nat) (g : Elem → Elem) (f : Fabric) : (updElem l th g f).copies = f.copies := rfl
@[simp] theorem updElem_hqs (l th : Nat) (g : Elem → Elem) (f : Fabric) : (updElem l th g f).hqs = f.hqs := rfl
@[simp] theorem updElem_cnts (l th : Nat) (g : Elem → Elem) (f : Fabric) : (updElem l th g f).cnts = f.cnts := rfl
@[simp] theorem updElem_acks (l th : Nat) (g : Elem → Elem) (f : Fabric) : (updElem l th g f).acks = f.acks := rfl
@[simp] theorem updElem_mx (l th : Nat) (g : Elem → Elem) (f : Fabric) : (updElem l th g f).mx = f.mx := rfl
@[simp] theorem updElem_voters (l th : Nat) (g : Elem → Elem) (f : Fabric) : (updElem l th g f).voters = f.voters := rfl
@[simp] theorem updElem_tiles (l th : Nat) (g : Elem → Elem) (f : Fabric) : (updElem l th g f).tiles = f.tiles := rfl
@[simp] theorem updElem_ctls (l th : Nat) (g : Elem → Elem) (f : Fabric) : (updElem l th g f).ctls = f.ctls := rfl
@[simp] theorem updElem_cmds (l th : Nat) (g : Elem → Elem) (f : Fabric) : (updElem l th g f).cmds = f.cmds := rfl
@[simp] theorem updElem_regions (l th : Nat) (g : Elem → Elem) (f : Fabric) : (updElem l th g f).regions = f.regions := rfl
@[simp] theorem updElem_groups (l th : Nat) (g : Elem → Elem) (f : Fabric) : (updElem l th g f).groups = f.groups := rfl
@[simp] theorem updElem_freed (l th : Nat) (g : Elem → Elem) (f : Fabric) : (updElem l th g f).freed = f.freed := rfl
@[simp] theorem updElem_parts (l th : Nat) (g : Elem → Elem) (f : Fabric) : (updElem l th g f).parts = f.parts := rfl
@[simp] theorem updElem_ifaces (l th : Nat) (g : Elem → Elem) (f : Fabric) : (updElem l th g f).ifaces = f.ifaces := rfl
@[simp] theorem updElem_launches (l th : Nat) (g : Elem → Elem) (f : Fabric) : (updElem l th g f).launches = f.launches := rfl
@[simp] theorem updElem_requests (l th : Nat) (g : Elem → Elem) (f : Fabric) : (updElem l th g f).requests = f.requests := rfl
@[simp] theorem updElem_resizes (l th : Nat) (g : Elem → Elem) (f : Fabric) : (updElem l th g f).resizes = f.resizes := rfl
@[simp] theorem updElem_images (l th : Nat) (g : Elem → Elem) (f : Fabric) : (updElem l th g f).images = f.images := rfl
@[simp] theorem updElem_recs (l th : Nat) (g : Elem → Elem) (f : Fabric) : (updElem l th g f).recs = f.recs := rfl
@[simp] theorem updElem_newRecs (l th : Nat) (g : Elem → Elem) (f : Fabric) : (updElem l th g f).newRecs = f.newRecs := rfl
@[simp] theorem updElem_charges (l th : Nat) (g : Elem → Elem) (f : Fabric) : (updElem l th g f).charges = f.charges := rfl
@[simp] theorem updElem_msix (l th : Nat) (g : Elem → Elem) (f : Fabric) : (updElem l th g f).msix = f.msix := rfl
@[simp] theorem updElem_errs (l th : Nat) (g : Elem → Elem) (f : Fabric) : (updElem l th g f).errs = f.errs := rfl
@[simp] theorem updElem_met (l th : Nat) (g : Elem → Elem) (f : Fabric) : (updElem l th g f).met = f.met := rfl
@[simp] theorem updElem_counted (l th : Nat) (g : Elem → Elem) (f : Fabric) : (updElem l th g f).counted = f.counted := rfl
@[simp] theorem updElem_poison (l th : Nat) (g : Elem → Elem) (f : Fabric) : (updElem l th g f).poison = f.poison := rfl
@[simp] theorem updElem_wpoison (l th : Nat) (g : Elem → Elem) (f : Fabric) : (updElem l th g f).wpoison = f.wpoison := rfl
@[simp] theorem updElem_layouts (l th : Nat) (g : Elem → Elem) (f : Fabric) : (updElem l th g f).layouts = f.layouts := rfl
@[simp] theorem updElem_scrub (l th : Nat) (g : Elem → Elem) (f : Fabric) : (updElem l th g f).scrub = f.scrub := rfl
@[simp] theorem updElem_spEntry (l th : Nat) (g : Elem → Elem) (f : Fabric) : (updElem l th g f).spEntry = f.spEntry := rfl
@[simp] theorem updElem_links (l th : Nat) (g : Elem → Elem) (f : Fabric) : (updElem l th g f).links = f.links := rfl
@[simp] theorem updElem_sent (l th : Nat) (g : Elem → Elem) (f : Fabric) : (updElem l th g f).sent = f.sent := rfl
@[simp] theorem updElem_answers (l th : Nat) (g : Elem → Elem) (f : Fabric) : (updElem l th g f).answers = f.answers := rfl
@[simp] theorem updElem_module_ (l th : Nat) (g : Elem → Elem) (f : Fabric) : (updElem l th g f).module_ = f.module_ := rfl

/-! ### `updChan` -/

@[simp] theorem updChan_cycle (l n : Nat) (g : Chan → Chan) (f : Fabric) : (updChan l n g f).cycle = f.cycle := rfl
@[simp] theorem updChan_agenda (l n : Nat) (g : Chan → Chan) (f : Fabric) : (updChan l n g f).agenda = f.agenda := rfl
@[simp] theorem updChan_cur (l n : Nat) (g : Chan → Chan) (f : Fabric) : (updChan l n g f).cur = f.cur := rfl
@[simp] theorem updChan_inputs (l n : Nat) (g : Chan → Chan) (f : Fabric) : (updChan l n g f).inputs = f.inputs := rfl
@[simp] theorem updChan_nextId (l n : Nat) (g : Chan → Chan) (f : Fabric) : (updChan l n g f).nextId = f.nextId := rfl
@[simp] theorem updChan_freeCtr (l n : Nat) (g : Chan → Chan) (f : Fabric) : (updChan l n g f).freeCtr = f.freeCtr := rfl
@[simp] theorem updChan_posted (l n : Nat) (g : Chan → Chan) (f : Fabric) : (updChan l n g f).posted = f.posted := rfl
@[simp] theorem updChan_elems (l n : Nat) (g : Chan → Chan) (f : Fabric) : (updChan l n g f).elems = f.elems := rfl
@[simp] theorem updChan_chans (l n : Nat) (g : Chan → Chan) (f : Fabric) : (updChan l n g f).chans = upd (fun c => c.line == l && c.num == n) g f.chans := rfl
@[simp] theorem updChan_stations (l n : Nat) (g : Chan → Chan) (f : Fabric) : (updChan l n g f).stations = f.stations := rfl
@[simp] theorem updChan_lines (l n : Nat) (g : Chan → Chan) (f : Fabric) : (updChan l n g f).lines = f.lines := rfl
@[simp] theorem updChan_gens (l n : Nat) (g : Chan → Chan) (f : Fabric) : (updChan l n g f).gens = f.gens := rfl
@[simp] theorem updChan_accs (l n : Nat) (g : Chan → Chan) (f : Fabric) : (updChan l n g f).accs = f.accs := rfl
@[simp] theorem updChan_hist (l n : Nat) (g : Chan → Chan) (f : Fabric) : (updChan l n g f).hist = f.hist := rfl
@[simp] theorem updChan_learnt (l n : Nat) (g : Chan → Chan) (f : Fabric) : (updChan l n g f).learnt = f.learnt := rfl
@[simp] theorem updChan_copies (l n : Nat) (g : Chan → Chan) (f : Fabric) : (updChan l n g f).copies = f.copies := rfl
@[simp] theorem updChan_hqs (l n : Nat) (g : Chan → Chan) (f : Fabric) : (updChan l n g f).hqs = f.hqs := rfl
@[simp] theorem updChan_cnts (l n : Nat) (g : Chan → Chan) (f : Fabric) : (updChan l n g f).cnts = f.cnts := rfl
@[simp] theorem updChan_acks (l n : Nat) (g : Chan → Chan) (f : Fabric) : (updChan l n g f).acks = f.acks := rfl
@[simp] theorem updChan_mx (l n : Nat) (g : Chan → Chan) (f : Fabric) : (updChan l n g f).mx = f.mx := rfl
@[simp] theorem updChan_voters (l n : Nat) (g : Chan → Chan) (f : Fabric) : (updChan l n g f).voters = f.voters := rfl
@[simp] theorem updChan_tiles (l n : Nat) (g : Chan → Chan) (f : Fabric) : (updChan l n g f).tiles = f.tiles := rfl
@[simp] theorem updChan_ctls (l n : Nat) (g : Chan → Chan) (f : Fabric) : (updChan l n g f).ctls = f.ctls := rfl
@[simp] theorem updChan_cmds (l n : Nat) (g : Chan → Chan) (f : Fabric) : (updChan l n g f).cmds = f.cmds := rfl
@[simp] theorem updChan_regions (l n : Nat) (g : Chan → Chan) (f : Fabric) : (updChan l n g f).regions = f.regions := rfl
@[simp] theorem updChan_groups (l n : Nat) (g : Chan → Chan) (f : Fabric) : (updChan l n g f).groups = f.groups := rfl
@[simp] theorem updChan_freed (l n : Nat) (g : Chan → Chan) (f : Fabric) : (updChan l n g f).freed = f.freed := rfl
@[simp] theorem updChan_parts (l n : Nat) (g : Chan → Chan) (f : Fabric) : (updChan l n g f).parts = f.parts := rfl
@[simp] theorem updChan_ifaces (l n : Nat) (g : Chan → Chan) (f : Fabric) : (updChan l n g f).ifaces = f.ifaces := rfl
@[simp] theorem updChan_launches (l n : Nat) (g : Chan → Chan) (f : Fabric) : (updChan l n g f).launches = f.launches := rfl
@[simp] theorem updChan_requests (l n : Nat) (g : Chan → Chan) (f : Fabric) : (updChan l n g f).requests = f.requests := rfl
@[simp] theorem updChan_resizes (l n : Nat) (g : Chan → Chan) (f : Fabric) : (updChan l n g f).resizes = f.resizes := rfl
@[simp] theorem updChan_images (l n : Nat) (g : Chan → Chan) (f : Fabric) : (updChan l n g f).images = f.images := rfl
@[simp] theorem updChan_recs (l n : Nat) (g : Chan → Chan) (f : Fabric) : (updChan l n g f).recs = f.recs := rfl
@[simp] theorem updChan_newRecs (l n : Nat) (g : Chan → Chan) (f : Fabric) : (updChan l n g f).newRecs = f.newRecs := rfl
@[simp] theorem updChan_charges (l n : Nat) (g : Chan → Chan) (f : Fabric) : (updChan l n g f).charges = f.charges := rfl
@[simp] theorem updChan_msix (l n : Nat) (g : Chan → Chan) (f : Fabric) : (updChan l n g f).msix = f.msix := rfl
@[simp] theorem updChan_errs (l n : Nat) (g : Chan → Chan) (f : Fabric) : (updChan l n g f).errs = f.errs := rfl
@[simp] theorem updChan_met (l n : Nat) (g : Chan → Chan) (f : Fabric) : (updChan l n g f).met = f.met := rfl
@[simp] theorem updChan_counted (l n : Nat) (g : Chan → Chan) (f : Fabric) : (updChan l n g f).counted = f.counted := rfl
@[simp] theorem updChan_poison (l n : Nat) (g : Chan → Chan) (f : Fabric) : (updChan l n g f).poison = f.poison := rfl
@[simp] theorem updChan_wpoison (l n : Nat) (g : Chan → Chan) (f : Fabric) : (updChan l n g f).wpoison = f.wpoison := rfl
@[simp] theorem updChan_layouts (l n : Nat) (g : Chan → Chan) (f : Fabric) : (updChan l n g f).layouts = f.layouts := rfl
@[simp] theorem updChan_scrub (l n : Nat) (g : Chan → Chan) (f : Fabric) : (updChan l n g f).scrub = f.scrub := rfl
@[simp] theorem updChan_spEntry (l n : Nat) (g : Chan → Chan) (f : Fabric) : (updChan l n g f).spEntry = f.spEntry := rfl
@[simp] theorem updChan_links (l n : Nat) (g : Chan → Chan) (f : Fabric) : (updChan l n g f).links = f.links := rfl
@[simp] theorem updChan_sent (l n : Nat) (g : Chan → Chan) (f : Fabric) : (updChan l n g f).sent = f.sent := rfl
@[simp] theorem updChan_answers (l n : Nat) (g : Chan → Chan) (f : Fabric) : (updChan l n g f).answers = f.answers := rfl
@[simp] theorem updChan_module_ (l n : Nat) (g : Chan → Chan) (f : Fabric) : (updChan l n g f).module_ = f.module_ := rfl

/-! ### `updStation` -/

@[simp] theorem updStation_cycle (l n : Nat) (g : Station → Station) (f : Fabric) : (updStation l n g f).cycle = f.cycle := rfl
@[simp] theorem updStation_agenda (l n : Nat) (g : Station → Station) (f : Fabric) : (updStation l n g f).agenda = f.agenda := rfl
@[simp] theorem updStation_cur (l n : Nat) (g : Station → Station) (f : Fabric) : (updStation l n g f).cur = f.cur := rfl
@[simp] theorem updStation_inputs (l n : Nat) (g : Station → Station) (f : Fabric) : (updStation l n g f).inputs = f.inputs := rfl
@[simp] theorem updStation_nextId (l n : Nat) (g : Station → Station) (f : Fabric) : (updStation l n g f).nextId = f.nextId := rfl
@[simp] theorem updStation_freeCtr (l n : Nat) (g : Station → Station) (f : Fabric) : (updStation l n g f).freeCtr = f.freeCtr := rfl
@[simp] theorem updStation_posted (l n : Nat) (g : Station → Station) (f : Fabric) : (updStation l n g f).posted = f.posted := rfl
@[simp] theorem updStation_elems (l n : Nat) (g : Station → Station) (f : Fabric) : (updStation l n g f).elems = f.elems := rfl
@[simp] theorem updStation_chans (l n : Nat) (g : Station → Station) (f : Fabric) : (updStation l n g f).chans = f.chans := rfl
@[simp] theorem updStation_stations (l n : Nat) (g : Station → Station) (f : Fabric) : (updStation l n g f).stations = upd (fun c => c.line == l && c.num == n) g f.stations := rfl
@[simp] theorem updStation_lines (l n : Nat) (g : Station → Station) (f : Fabric) : (updStation l n g f).lines = f.lines := rfl
@[simp] theorem updStation_gens (l n : Nat) (g : Station → Station) (f : Fabric) : (updStation l n g f).gens = f.gens := rfl
@[simp] theorem updStation_accs (l n : Nat) (g : Station → Station) (f : Fabric) : (updStation l n g f).accs = f.accs := rfl
@[simp] theorem updStation_hist (l n : Nat) (g : Station → Station) (f : Fabric) : (updStation l n g f).hist = f.hist := rfl
@[simp] theorem updStation_learnt (l n : Nat) (g : Station → Station) (f : Fabric) : (updStation l n g f).learnt = f.learnt := rfl
@[simp] theorem updStation_copies (l n : Nat) (g : Station → Station) (f : Fabric) : (updStation l n g f).copies = f.copies := rfl
@[simp] theorem updStation_hqs (l n : Nat) (g : Station → Station) (f : Fabric) : (updStation l n g f).hqs = f.hqs := rfl
@[simp] theorem updStation_cnts (l n : Nat) (g : Station → Station) (f : Fabric) : (updStation l n g f).cnts = f.cnts := rfl
@[simp] theorem updStation_acks (l n : Nat) (g : Station → Station) (f : Fabric) : (updStation l n g f).acks = f.acks := rfl
@[simp] theorem updStation_mx (l n : Nat) (g : Station → Station) (f : Fabric) : (updStation l n g f).mx = f.mx := rfl
@[simp] theorem updStation_voters (l n : Nat) (g : Station → Station) (f : Fabric) : (updStation l n g f).voters = f.voters := rfl
@[simp] theorem updStation_tiles (l n : Nat) (g : Station → Station) (f : Fabric) : (updStation l n g f).tiles = f.tiles := rfl
@[simp] theorem updStation_ctls (l n : Nat) (g : Station → Station) (f : Fabric) : (updStation l n g f).ctls = f.ctls := rfl
@[simp] theorem updStation_cmds (l n : Nat) (g : Station → Station) (f : Fabric) : (updStation l n g f).cmds = f.cmds := rfl
@[simp] theorem updStation_regions (l n : Nat) (g : Station → Station) (f : Fabric) : (updStation l n g f).regions = f.regions := rfl
@[simp] theorem updStation_groups (l n : Nat) (g : Station → Station) (f : Fabric) : (updStation l n g f).groups = f.groups := rfl
@[simp] theorem updStation_freed (l n : Nat) (g : Station → Station) (f : Fabric) : (updStation l n g f).freed = f.freed := rfl
@[simp] theorem updStation_parts (l n : Nat) (g : Station → Station) (f : Fabric) : (updStation l n g f).parts = f.parts := rfl
@[simp] theorem updStation_ifaces (l n : Nat) (g : Station → Station) (f : Fabric) : (updStation l n g f).ifaces = f.ifaces := rfl
@[simp] theorem updStation_launches (l n : Nat) (g : Station → Station) (f : Fabric) : (updStation l n g f).launches = f.launches := rfl
@[simp] theorem updStation_requests (l n : Nat) (g : Station → Station) (f : Fabric) : (updStation l n g f).requests = f.requests := rfl
@[simp] theorem updStation_resizes (l n : Nat) (g : Station → Station) (f : Fabric) : (updStation l n g f).resizes = f.resizes := rfl
@[simp] theorem updStation_images (l n : Nat) (g : Station → Station) (f : Fabric) : (updStation l n g f).images = f.images := rfl
@[simp] theorem updStation_recs (l n : Nat) (g : Station → Station) (f : Fabric) : (updStation l n g f).recs = f.recs := rfl
@[simp] theorem updStation_newRecs (l n : Nat) (g : Station → Station) (f : Fabric) : (updStation l n g f).newRecs = f.newRecs := rfl
@[simp] theorem updStation_charges (l n : Nat) (g : Station → Station) (f : Fabric) : (updStation l n g f).charges = f.charges := rfl
@[simp] theorem updStation_msix (l n : Nat) (g : Station → Station) (f : Fabric) : (updStation l n g f).msix = f.msix := rfl
@[simp] theorem updStation_errs (l n : Nat) (g : Station → Station) (f : Fabric) : (updStation l n g f).errs = f.errs := rfl
@[simp] theorem updStation_met (l n : Nat) (g : Station → Station) (f : Fabric) : (updStation l n g f).met = f.met := rfl
@[simp] theorem updStation_counted (l n : Nat) (g : Station → Station) (f : Fabric) : (updStation l n g f).counted = f.counted := rfl
@[simp] theorem updStation_poison (l n : Nat) (g : Station → Station) (f : Fabric) : (updStation l n g f).poison = f.poison := rfl
@[simp] theorem updStation_wpoison (l n : Nat) (g : Station → Station) (f : Fabric) : (updStation l n g f).wpoison = f.wpoison := rfl
@[simp] theorem updStation_layouts (l n : Nat) (g : Station → Station) (f : Fabric) : (updStation l n g f).layouts = f.layouts := rfl
@[simp] theorem updStation_scrub (l n : Nat) (g : Station → Station) (f : Fabric) : (updStation l n g f).scrub = f.scrub := rfl
@[simp] theorem updStation_spEntry (l n : Nat) (g : Station → Station) (f : Fabric) : (updStation l n g f).spEntry = f.spEntry := rfl
@[simp] theorem updStation_links (l n : Nat) (g : Station → Station) (f : Fabric) : (updStation l n g f).links = f.links := rfl
@[simp] theorem updStation_sent (l n : Nat) (g : Station → Station) (f : Fabric) : (updStation l n g f).sent = f.sent := rfl
@[simp] theorem updStation_answers (l n : Nat) (g : Station → Station) (f : Fabric) : (updStation l n g f).answers = f.answers := rfl
@[simp] theorem updStation_module_ (l n : Nat) (g : Station → Station) (f : Fabric) : (updStation l n g f).module_ = f.module_ := rfl

/-! ### `updLine` -/

@[simp] theorem updLine_cycle (l : Nat) (g : Line → Line) (f : Fabric) : (updLine l g f).cycle = f.cycle := rfl
@[simp] theorem updLine_agenda (l : Nat) (g : Line → Line) (f : Fabric) : (updLine l g f).agenda = f.agenda := rfl
@[simp] theorem updLine_cur (l : Nat) (g : Line → Line) (f : Fabric) : (updLine l g f).cur = f.cur := rfl
@[simp] theorem updLine_inputs (l : Nat) (g : Line → Line) (f : Fabric) : (updLine l g f).inputs = f.inputs := rfl
@[simp] theorem updLine_nextId (l : Nat) (g : Line → Line) (f : Fabric) : (updLine l g f).nextId = f.nextId := rfl
@[simp] theorem updLine_freeCtr (l : Nat) (g : Line → Line) (f : Fabric) : (updLine l g f).freeCtr = f.freeCtr := rfl
@[simp] theorem updLine_posted (l : Nat) (g : Line → Line) (f : Fabric) : (updLine l g f).posted = f.posted := rfl
@[simp] theorem updLine_elems (l : Nat) (g : Line → Line) (f : Fabric) : (updLine l g f).elems = f.elems := rfl
@[simp] theorem updLine_chans (l : Nat) (g : Line → Line) (f : Fabric) : (updLine l g f).chans = f.chans := rfl
@[simp] theorem updLine_stations (l : Nat) (g : Line → Line) (f : Fabric) : (updLine l g f).stations = f.stations := rfl
@[simp] theorem updLine_lines (l : Nat) (g : Line → Line) (f : Fabric) : (updLine l g f).lines = upd (fun c => c.id == l) g f.lines := rfl
@[simp] theorem updLine_gens (l : Nat) (g : Line → Line) (f : Fabric) : (updLine l g f).gens = f.gens := rfl
@[simp] theorem updLine_accs (l : Nat) (g : Line → Line) (f : Fabric) : (updLine l g f).accs = f.accs := rfl
@[simp] theorem updLine_hist (l : Nat) (g : Line → Line) (f : Fabric) : (updLine l g f).hist = f.hist := rfl
@[simp] theorem updLine_learnt (l : Nat) (g : Line → Line) (f : Fabric) : (updLine l g f).learnt = f.learnt := rfl
@[simp] theorem updLine_copies (l : Nat) (g : Line → Line) (f : Fabric) : (updLine l g f).copies = f.copies := rfl
@[simp] theorem updLine_hqs (l : Nat) (g : Line → Line) (f : Fabric) : (updLine l g f).hqs = f.hqs := rfl
@[simp] theorem updLine_cnts (l : Nat) (g : Line → Line) (f : Fabric) : (updLine l g f).cnts = f.cnts := rfl
@[simp] theorem updLine_acks (l : Nat) (g : Line → Line) (f : Fabric) : (updLine l g f).acks = f.acks := rfl
@[simp] theorem updLine_mx (l : Nat) (g : Line → Line) (f : Fabric) : (updLine l g f).mx = f.mx := rfl
@[simp] theorem updLine_voters (l : Nat) (g : Line → Line) (f : Fabric) : (updLine l g f).voters = f.voters := rfl
@[simp] theorem updLine_tiles (l : Nat) (g : Line → Line) (f : Fabric) : (updLine l g f).tiles = f.tiles := rfl
@[simp] theorem updLine_ctls (l : Nat) (g : Line → Line) (f : Fabric) : (updLine l g f).ctls = f.ctls := rfl
@[simp] theorem updLine_cmds (l : Nat) (g : Line → Line) (f : Fabric) : (updLine l g f).cmds = f.cmds := rfl
@[simp] theorem updLine_regions (l : Nat) (g : Line → Line) (f : Fabric) : (updLine l g f).regions = f.regions := rfl
@[simp] theorem updLine_groups (l : Nat) (g : Line → Line) (f : Fabric) : (updLine l g f).groups = f.groups := rfl
@[simp] theorem updLine_freed (l : Nat) (g : Line → Line) (f : Fabric) : (updLine l g f).freed = f.freed := rfl
@[simp] theorem updLine_parts (l : Nat) (g : Line → Line) (f : Fabric) : (updLine l g f).parts = f.parts := rfl
@[simp] theorem updLine_ifaces (l : Nat) (g : Line → Line) (f : Fabric) : (updLine l g f).ifaces = f.ifaces := rfl
@[simp] theorem updLine_launches (l : Nat) (g : Line → Line) (f : Fabric) : (updLine l g f).launches = f.launches := rfl
@[simp] theorem updLine_requests (l : Nat) (g : Line → Line) (f : Fabric) : (updLine l g f).requests = f.requests := rfl
@[simp] theorem updLine_resizes (l : Nat) (g : Line → Line) (f : Fabric) : (updLine l g f).resizes = f.resizes := rfl
@[simp] theorem updLine_images (l : Nat) (g : Line → Line) (f : Fabric) : (updLine l g f).images = f.images := rfl
@[simp] theorem updLine_recs (l : Nat) (g : Line → Line) (f : Fabric) : (updLine l g f).recs = f.recs := rfl
@[simp] theorem updLine_newRecs (l : Nat) (g : Line → Line) (f : Fabric) : (updLine l g f).newRecs = f.newRecs := rfl
@[simp] theorem updLine_charges (l : Nat) (g : Line → Line) (f : Fabric) : (updLine l g f).charges = f.charges := rfl
@[simp] theorem updLine_msix (l : Nat) (g : Line → Line) (f : Fabric) : (updLine l g f).msix = f.msix := rfl
@[simp] theorem updLine_errs (l : Nat) (g : Line → Line) (f : Fabric) : (updLine l g f).errs = f.errs := rfl
@[simp] theorem updLine_met (l : Nat) (g : Line → Line) (f : Fabric) : (updLine l g f).met = f.met := rfl
@[simp] theorem updLine_counted (l : Nat) (g : Line → Line) (f : Fabric) : (updLine l g f).counted = f.counted := rfl
@[simp] theorem updLine_poison (l : Nat) (g : Line → Line) (f : Fabric) : (updLine l g f).poison = f.poison := rfl
@[simp] theorem updLine_wpoison (l : Nat) (g : Line → Line) (f : Fabric) : (updLine l g f).wpoison = f.wpoison := rfl
@[simp] theorem updLine_layouts (l : Nat) (g : Line → Line) (f : Fabric) : (updLine l g f).layouts = f.layouts := rfl
@[simp] theorem updLine_scrub (l : Nat) (g : Line → Line) (f : Fabric) : (updLine l g f).scrub = f.scrub := rfl
@[simp] theorem updLine_spEntry (l : Nat) (g : Line → Line) (f : Fabric) : (updLine l g f).spEntry = f.spEntry := rfl
@[simp] theorem updLine_links (l : Nat) (g : Line → Line) (f : Fabric) : (updLine l g f).links = f.links := rfl
@[simp] theorem updLine_sent (l : Nat) (g : Line → Line) (f : Fabric) : (updLine l g f).sent = f.sent := rfl
@[simp] theorem updLine_answers (l : Nat) (g : Line → Line) (f : Fabric) : (updLine l g f).answers = f.answers := rfl
@[simp] theorem updLine_module_ (l : Nat) (g : Line → Line) (f : Fabric) : (updLine l g f).module_ = f.module_ := rfl

/-! ### `updTile` -/

@[simp] theorem updTile_cycle (l t : Nat) (g : Tile → Tile) (f : Fabric) : (updTile l t g f).cycle = f.cycle := rfl
@[simp] theorem updTile_agenda (l t : Nat) (g : Tile → Tile) (f : Fabric) : (updTile l t g f).agenda = f.agenda := rfl
@[simp] theorem updTile_cur (l t : Nat) (g : Tile → Tile) (f : Fabric) : (updTile l t g f).cur = f.cur := rfl
@[simp] theorem updTile_inputs (l t : Nat) (g : Tile → Tile) (f : Fabric) : (updTile l t g f).inputs = f.inputs := rfl
@[simp] theorem updTile_nextId (l t : Nat) (g : Tile → Tile) (f : Fabric) : (updTile l t g f).nextId = f.nextId := rfl
@[simp] theorem updTile_freeCtr (l t : Nat) (g : Tile → Tile) (f : Fabric) : (updTile l t g f).freeCtr = f.freeCtr := rfl
@[simp] theorem updTile_posted (l t : Nat) (g : Tile → Tile) (f : Fabric) : (updTile l t g f).posted = f.posted := rfl
@[simp] theorem updTile_elems (l t : Nat) (g : Tile → Tile) (f : Fabric) : (updTile l t g f).elems = f.elems := rfl
@[simp] theorem updTile_chans (l t : Nat) (g : Tile → Tile) (f : Fabric) : (updTile l t g f).chans = f.chans := rfl
@[simp] theorem updTile_stations (l t : Nat) (g : Tile → Tile) (f : Fabric) : (updTile l t g f).stations = f.stations := rfl
@[simp] theorem updTile_lines (l t : Nat) (g : Tile → Tile) (f : Fabric) : (updTile l t g f).lines = f.lines := rfl
@[simp] theorem updTile_gens (l t : Nat) (g : Tile → Tile) (f : Fabric) : (updTile l t g f).gens = f.gens := rfl
@[simp] theorem updTile_accs (l t : Nat) (g : Tile → Tile) (f : Fabric) : (updTile l t g f).accs = f.accs := rfl
@[simp] theorem updTile_hist (l t : Nat) (g : Tile → Tile) (f : Fabric) : (updTile l t g f).hist = f.hist := rfl
@[simp] theorem updTile_learnt (l t : Nat) (g : Tile → Tile) (f : Fabric) : (updTile l t g f).learnt = f.learnt := rfl
@[simp] theorem updTile_copies (l t : Nat) (g : Tile → Tile) (f : Fabric) : (updTile l t g f).copies = f.copies := rfl
@[simp] theorem updTile_hqs (l t : Nat) (g : Tile → Tile) (f : Fabric) : (updTile l t g f).hqs = f.hqs := rfl
@[simp] theorem updTile_cnts (l t : Nat) (g : Tile → Tile) (f : Fabric) : (updTile l t g f).cnts = f.cnts := rfl
@[simp] theorem updTile_acks (l t : Nat) (g : Tile → Tile) (f : Fabric) : (updTile l t g f).acks = f.acks := rfl
@[simp] theorem updTile_mx (l t : Nat) (g : Tile → Tile) (f : Fabric) : (updTile l t g f).mx = f.mx := rfl
@[simp] theorem updTile_voters (l t : Nat) (g : Tile → Tile) (f : Fabric) : (updTile l t g f).voters = f.voters := rfl
@[simp] theorem updTile_tiles (l t : Nat) (g : Tile → Tile) (f : Fabric) : (updTile l t g f).tiles = upd (fun c => c.line == l && c.num == t) g f.tiles := rfl
@[simp] theorem updTile_ctls (l t : Nat) (g : Tile → Tile) (f : Fabric) : (updTile l t g f).ctls = f.ctls := rfl
@[simp] theorem updTile_cmds (l t : Nat) (g : Tile → Tile) (f : Fabric) : (updTile l t g f).cmds = f.cmds := rfl
@[simp] theorem updTile_regions (l t : Nat) (g : Tile → Tile) (f : Fabric) : (updTile l t g f).regions = f.regions := rfl
@[simp] theorem updTile_groups (l t : Nat) (g : Tile → Tile) (f : Fabric) : (updTile l t g f).groups = f.groups := rfl
@[simp] theorem updTile_freed (l t : Nat) (g : Tile → Tile) (f : Fabric) : (updTile l t g f).freed = f.freed := rfl
@[simp] theorem updTile_parts (l t : Nat) (g : Tile → Tile) (f : Fabric) : (updTile l t g f).parts = f.parts := rfl
@[simp] theorem updTile_ifaces (l t : Nat) (g : Tile → Tile) (f : Fabric) : (updTile l t g f).ifaces = f.ifaces := rfl
@[simp] theorem updTile_launches (l t : Nat) (g : Tile → Tile) (f : Fabric) : (updTile l t g f).launches = f.launches := rfl
@[simp] theorem updTile_requests (l t : Nat) (g : Tile → Tile) (f : Fabric) : (updTile l t g f).requests = f.requests := rfl
@[simp] theorem updTile_resizes (l t : Nat) (g : Tile → Tile) (f : Fabric) : (updTile l t g f).resizes = f.resizes := rfl
@[simp] theorem updTile_images (l t : Nat) (g : Tile → Tile) (f : Fabric) : (updTile l t g f).images = f.images := rfl
@[simp] theorem updTile_recs (l t : Nat) (g : Tile → Tile) (f : Fabric) : (updTile l t g f).recs = f.recs := rfl
@[simp] theorem updTile_newRecs (l t : Nat) (g : Tile → Tile) (f : Fabric) : (updTile l t g f).newRecs = f.newRecs := rfl
@[simp] theorem updTile_charges (l t : Nat) (g : Tile → Tile) (f : Fabric) : (updTile l t g f).charges = f.charges := rfl
@[simp] theorem updTile_msix (l t : Nat) (g : Tile → Tile) (f : Fabric) : (updTile l t g f).msix = f.msix := rfl
@[simp] theorem updTile_errs (l t : Nat) (g : Tile → Tile) (f : Fabric) : (updTile l t g f).errs = f.errs := rfl
@[simp] theorem updTile_met (l t : Nat) (g : Tile → Tile) (f : Fabric) : (updTile l t g f).met = f.met := rfl
@[simp] theorem updTile_counted (l t : Nat) (g : Tile → Tile) (f : Fabric) : (updTile l t g f).counted = f.counted := rfl
@[simp] theorem updTile_poison (l t : Nat) (g : Tile → Tile) (f : Fabric) : (updTile l t g f).poison = f.poison := rfl
@[simp] theorem updTile_wpoison (l t : Nat) (g : Tile → Tile) (f : Fabric) : (updTile l t g f).wpoison = f.wpoison := rfl
@[simp] theorem updTile_layouts (l t : Nat) (g : Tile → Tile) (f : Fabric) : (updTile l t g f).layouts = f.layouts := rfl
@[simp] theorem updTile_scrub (l t : Nat) (g : Tile → Tile) (f : Fabric) : (updTile l t g f).scrub = f.scrub := rfl
@[simp] theorem updTile_spEntry (l t : Nat) (g : Tile → Tile) (f : Fabric) : (updTile l t g f).spEntry = f.spEntry := rfl
@[simp] theorem updTile_links (l t : Nat) (g : Tile → Tile) (f : Fabric) : (updTile l t g f).links = f.links := rfl
@[simp] theorem updTile_sent (l t : Nat) (g : Tile → Tile) (f : Fabric) : (updTile l t g f).sent = f.sent := rfl
@[simp] theorem updTile_answers (l t : Nat) (g : Tile → Tile) (f : Fabric) : (updTile l t g f).answers = f.answers := rfl
@[simp] theorem updTile_module_ (l t : Nat) (g : Tile → Tile) (f : Fabric) : (updTile l t g f).module_ = f.module_ := rfl

/-! ### `updGen` -/

@[simp] theorem updGen_cycle (l t n : Nat) (g : AGen → AGen) (f : Fabric) : (updGen l t n g f).cycle = f.cycle := rfl
@[simp] theorem updGen_agenda (l t n : Nat) (g : AGen → AGen) (f : Fabric) : (updGen l t n g f).agenda = f.agenda := rfl
@[simp] theorem updGen_cur (l t n : Nat) (g : AGen → AGen) (f : Fabric) : (updGen l t n g f).cur = f.cur := rfl
@[simp] theorem updGen_inputs (l t n : Nat) (g : AGen → AGen) (f : Fabric) : (updGen l t n g f).inputs = f.inputs := rfl
@[simp] theorem updGen_nextId (l t n : Nat) (g : AGen → AGen) (f : Fabric) : (updGen l t n g f).nextId = f.nextId := rfl
@[simp] theorem updGen_freeCtr (l t n : Nat) (g : AGen → AGen) (f : Fabric) : (updGen l t n g f).freeCtr = f.freeCtr := rfl
@[simp] theorem updGen_posted (l t n : Nat) (g : AGen → AGen) (f : Fabric) : (updGen l t n g f).posted = f.posted := rfl
@[simp] theorem updGen_elems (l t n : Nat) (g : AGen → AGen) (f : Fabric) : (updGen l t n g f).elems = f.elems := rfl
@[simp] theorem updGen_chans (l t n : Nat) (g : AGen → AGen) (f : Fabric) : (updGen l t n g f).chans = f.chans := rfl
@[simp] theorem updGen_stations (l t n : Nat) (g : AGen → AGen) (f : Fabric) : (updGen l t n g f).stations = f.stations := rfl
@[simp] theorem updGen_lines (l t n : Nat) (g : AGen → AGen) (f : Fabric) : (updGen l t n g f).lines = f.lines := rfl
@[simp] theorem updGen_gens (l t n : Nat) (g : AGen → AGen) (f : Fabric) : (updGen l t n g f).gens = upd (fun c => c.line == l && c.tile == t && c.num == n) g f.gens := rfl
@[simp] theorem updGen_accs (l t n : Nat) (g : AGen → AGen) (f : Fabric) : (updGen l t n g f).accs = f.accs := rfl
@[simp] theorem updGen_hist (l t n : Nat) (g : AGen → AGen) (f : Fabric) : (updGen l t n g f).hist = f.hist := rfl
@[simp] theorem updGen_learnt (l t n : Nat) (g : AGen → AGen) (f : Fabric) : (updGen l t n g f).learnt = f.learnt := rfl
@[simp] theorem updGen_copies (l t n : Nat) (g : AGen → AGen) (f : Fabric) : (updGen l t n g f).copies = f.copies := rfl
@[simp] theorem updGen_hqs (l t n : Nat) (g : AGen → AGen) (f : Fabric) : (updGen l t n g f).hqs = f.hqs := rfl
@[simp] theorem updGen_cnts (l t n : Nat) (g : AGen → AGen) (f : Fabric) : (updGen l t n g f).cnts = f.cnts := rfl
@[simp] theorem updGen_acks (l t n : Nat) (g : AGen → AGen) (f : Fabric) : (updGen l t n g f).acks = f.acks := rfl
@[simp] theorem updGen_mx (l t n : Nat) (g : AGen → AGen) (f : Fabric) : (updGen l t n g f).mx = f.mx := rfl
@[simp] theorem updGen_voters (l t n : Nat) (g : AGen → AGen) (f : Fabric) : (updGen l t n g f).voters = f.voters := rfl
@[simp] theorem updGen_tiles (l t n : Nat) (g : AGen → AGen) (f : Fabric) : (updGen l t n g f).tiles = f.tiles := rfl
@[simp] theorem updGen_ctls (l t n : Nat) (g : AGen → AGen) (f : Fabric) : (updGen l t n g f).ctls = f.ctls := rfl
@[simp] theorem updGen_cmds (l t n : Nat) (g : AGen → AGen) (f : Fabric) : (updGen l t n g f).cmds = f.cmds := rfl
@[simp] theorem updGen_regions (l t n : Nat) (g : AGen → AGen) (f : Fabric) : (updGen l t n g f).regions = f.regions := rfl
@[simp] theorem updGen_groups (l t n : Nat) (g : AGen → AGen) (f : Fabric) : (updGen l t n g f).groups = f.groups := rfl
@[simp] theorem updGen_freed (l t n : Nat) (g : AGen → AGen) (f : Fabric) : (updGen l t n g f).freed = f.freed := rfl
@[simp] theorem updGen_parts (l t n : Nat) (g : AGen → AGen) (f : Fabric) : (updGen l t n g f).parts = f.parts := rfl
@[simp] theorem updGen_ifaces (l t n : Nat) (g : AGen → AGen) (f : Fabric) : (updGen l t n g f).ifaces = f.ifaces := rfl
@[simp] theorem updGen_launches (l t n : Nat) (g : AGen → AGen) (f : Fabric) : (updGen l t n g f).launches = f.launches := rfl
@[simp] theorem updGen_requests (l t n : Nat) (g : AGen → AGen) (f : Fabric) : (updGen l t n g f).requests = f.requests := rfl
@[simp] theorem updGen_resizes (l t n : Nat) (g : AGen → AGen) (f : Fabric) : (updGen l t n g f).resizes = f.resizes := rfl
@[simp] theorem updGen_images (l t n : Nat) (g : AGen → AGen) (f : Fabric) : (updGen l t n g f).images = f.images := rfl
@[simp] theorem updGen_recs (l t n : Nat) (g : AGen → AGen) (f : Fabric) : (updGen l t n g f).recs = f.recs := rfl
@[simp] theorem updGen_newRecs (l t n : Nat) (g : AGen → AGen) (f : Fabric) : (updGen l t n g f).newRecs = f.newRecs := rfl
@[simp] theorem updGen_charges (l t n : Nat) (g : AGen → AGen) (f : Fabric) : (updGen l t n g f).charges = f.charges := rfl
@[simp] theorem updGen_msix (l t n : Nat) (g : AGen → AGen) (f : Fabric) : (updGen l t n g f).msix = f.msix := rfl
@[simp] theorem updGen_errs (l t n : Nat) (g : AGen → AGen) (f : Fabric) : (updGen l t n g f).errs = f.errs := rfl
@[simp] theorem updGen_met (l t n : Nat) (g : AGen → AGen) (f : Fabric) : (updGen l t n g f).met = f.met := rfl
@[simp] theorem updGen_counted (l t n : Nat) (g : AGen → AGen) (f : Fabric) : (updGen l t n g f).counted = f.counted := rfl
@[simp] theorem updGen_poison (l t n : Nat) (g : AGen → AGen) (f : Fabric) : (updGen l t n g f).poison = f.poison := rfl
@[simp] theorem updGen_wpoison (l t n : Nat) (g : AGen → AGen) (f : Fabric) : (updGen l t n g f).wpoison = f.wpoison := rfl
@[simp] theorem updGen_layouts (l t n : Nat) (g : AGen → AGen) (f : Fabric) : (updGen l t n g f).layouts = f.layouts := rfl
@[simp] theorem updGen_scrub (l t n : Nat) (g : AGen → AGen) (f : Fabric) : (updGen l t n g f).scrub = f.scrub := rfl
@[simp] theorem updGen_spEntry (l t n : Nat) (g : AGen → AGen) (f : Fabric) : (updGen l t n g f).spEntry = f.spEntry := rfl
@[simp] theorem updGen_links (l t n : Nat) (g : AGen → AGen) (f : Fabric) : (updGen l t n g f).links = f.links := rfl
@[simp] theorem updGen_sent (l t n : Nat) (g : AGen → AGen) (f : Fabric) : (updGen l t n g f).sent = f.sent := rfl
@[simp] theorem updGen_answers (l t n : Nat) (g : AGen → AGen) (f : Fabric) : (updGen l t n g f).answers = f.answers := rfl
@[simp] theorem updGen_module_ (l t n : Nat) (g : AGen → AGen) (f : Fabric) : (updGen l t n g f).module_ = f.module_ := rfl

/-! ### `updAcc` -/

@[simp] theorem updAcc_cycle (id : Nat) (g : Acc → Acc) (f : Fabric) : (updAcc id g f).cycle = f.cycle := rfl
@[simp] theorem updAcc_agenda (id : Nat) (g : Acc → Acc) (f : Fabric) : (updAcc id g f).agenda = f.agenda := rfl
@[simp] theorem updAcc_cur (id : Nat) (g : Acc → Acc) (f : Fabric) : (updAcc id g f).cur = f.cur := rfl
@[simp] theorem updAcc_inputs (id : Nat) (g : Acc → Acc) (f : Fabric) : (updAcc id g f).inputs = f.inputs := rfl
@[simp] theorem updAcc_nextId (id : Nat) (g : Acc → Acc) (f : Fabric) : (updAcc id g f).nextId = f.nextId := rfl
@[simp] theorem updAcc_freeCtr (id : Nat) (g : Acc → Acc) (f : Fabric) : (updAcc id g f).freeCtr = f.freeCtr := rfl
@[simp] theorem updAcc_posted (id : Nat) (g : Acc → Acc) (f : Fabric) : (updAcc id g f).posted = f.posted := rfl
@[simp] theorem updAcc_elems (id : Nat) (g : Acc → Acc) (f : Fabric) : (updAcc id g f).elems = f.elems := rfl
@[simp] theorem updAcc_chans (id : Nat) (g : Acc → Acc) (f : Fabric) : (updAcc id g f).chans = f.chans := rfl
@[simp] theorem updAcc_stations (id : Nat) (g : Acc → Acc) (f : Fabric) : (updAcc id g f).stations = f.stations := rfl
@[simp] theorem updAcc_lines (id : Nat) (g : Acc → Acc) (f : Fabric) : (updAcc id g f).lines = f.lines := rfl
@[simp] theorem updAcc_gens (id : Nat) (g : Acc → Acc) (f : Fabric) : (updAcc id g f).gens = f.gens := rfl
@[simp] theorem updAcc_accs (id : Nat) (g : Acc → Acc) (f : Fabric) : (updAcc id g f).accs = upd (fun c => c.id == id) g f.accs := rfl
@[simp] theorem updAcc_hist (id : Nat) (g : Acc → Acc) (f : Fabric) : (updAcc id g f).hist = f.hist := rfl
@[simp] theorem updAcc_learnt (id : Nat) (g : Acc → Acc) (f : Fabric) : (updAcc id g f).learnt = f.learnt := rfl
@[simp] theorem updAcc_copies (id : Nat) (g : Acc → Acc) (f : Fabric) : (updAcc id g f).copies = f.copies := rfl
@[simp] theorem updAcc_hqs (id : Nat) (g : Acc → Acc) (f : Fabric) : (updAcc id g f).hqs = f.hqs := rfl
@[simp] theorem updAcc_cnts (id : Nat) (g : Acc → Acc) (f : Fabric) : (updAcc id g f).cnts = f.cnts := rfl
@[simp] theorem updAcc_acks (id : Nat) (g : Acc → Acc) (f : Fabric) : (updAcc id g f).acks = f.acks := rfl
@[simp] theorem updAcc_mx (id : Nat) (g : Acc → Acc) (f : Fabric) : (updAcc id g f).mx = f.mx := rfl
@[simp] theorem updAcc_voters (id : Nat) (g : Acc → Acc) (f : Fabric) : (updAcc id g f).voters = f.voters := rfl
@[simp] theorem updAcc_tiles (id : Nat) (g : Acc → Acc) (f : Fabric) : (updAcc id g f).tiles = f.tiles := rfl
@[simp] theorem updAcc_ctls (id : Nat) (g : Acc → Acc) (f : Fabric) : (updAcc id g f).ctls = f.ctls := rfl
@[simp] theorem updAcc_cmds (id : Nat) (g : Acc → Acc) (f : Fabric) : (updAcc id g f).cmds = f.cmds := rfl
@[simp] theorem updAcc_regions (id : Nat) (g : Acc → Acc) (f : Fabric) : (updAcc id g f).regions = f.regions := rfl
@[simp] theorem updAcc_groups (id : Nat) (g : Acc → Acc) (f : Fabric) : (updAcc id g f).groups = f.groups := rfl
@[simp] theorem updAcc_freed (id : Nat) (g : Acc → Acc) (f : Fabric) : (updAcc id g f).freed = f.freed := rfl
@[simp] theorem updAcc_parts (id : Nat) (g : Acc → Acc) (f : Fabric) : (updAcc id g f).parts = f.parts := rfl
@[simp] theorem updAcc_ifaces (id : Nat) (g : Acc → Acc) (f : Fabric) : (updAcc id g f).ifaces = f.ifaces := rfl
@[simp] theorem updAcc_launches (id : Nat) (g : Acc → Acc) (f : Fabric) : (updAcc id g f).launches = f.launches := rfl
@[simp] theorem updAcc_requests (id : Nat) (g : Acc → Acc) (f : Fabric) : (updAcc id g f).requests = f.requests := rfl
@[simp] theorem updAcc_resizes (id : Nat) (g : Acc → Acc) (f : Fabric) : (updAcc id g f).resizes = f.resizes := rfl
@[simp] theorem updAcc_images (id : Nat) (g : Acc → Acc) (f : Fabric) : (updAcc id g f).images = f.images := rfl
@[simp] theorem updAcc_recs (id : Nat) (g : Acc → Acc) (f : Fabric) : (updAcc id g f).recs = f.recs := rfl
@[simp] theorem updAcc_newRecs (id : Nat) (g : Acc → Acc) (f : Fabric) : (updAcc id g f).newRecs = f.newRecs := rfl
@[simp] theorem updAcc_charges (id : Nat) (g : Acc → Acc) (f : Fabric) : (updAcc id g f).charges = f.charges := rfl
@[simp] theorem updAcc_msix (id : Nat) (g : Acc → Acc) (f : Fabric) : (updAcc id g f).msix = f.msix := rfl
@[simp] theorem updAcc_errs (id : Nat) (g : Acc → Acc) (f : Fabric) : (updAcc id g f).errs = f.errs := rfl
@[simp] theorem updAcc_met (id : Nat) (g : Acc → Acc) (f : Fabric) : (updAcc id g f).met = f.met := rfl
@[simp] theorem updAcc_counted (id : Nat) (g : Acc → Acc) (f : Fabric) : (updAcc id g f).counted = f.counted := rfl
@[simp] theorem updAcc_poison (id : Nat) (g : Acc → Acc) (f : Fabric) : (updAcc id g f).poison = f.poison := rfl
@[simp] theorem updAcc_wpoison (id : Nat) (g : Acc → Acc) (f : Fabric) : (updAcc id g f).wpoison = f.wpoison := rfl
@[simp] theorem updAcc_layouts (id : Nat) (g : Acc → Acc) (f : Fabric) : (updAcc id g f).layouts = f.layouts := rfl
@[simp] theorem updAcc_scrub (id : Nat) (g : Acc → Acc) (f : Fabric) : (updAcc id g f).scrub = f.scrub := rfl
@[simp] theorem updAcc_spEntry (id : Nat) (g : Acc → Acc) (f : Fabric) : (updAcc id g f).spEntry = f.spEntry := rfl
@[simp] theorem updAcc_links (id : Nat) (g : Acc → Acc) (f : Fabric) : (updAcc id g f).links = f.links := rfl
@[simp] theorem updAcc_sent (id : Nat) (g : Acc → Acc) (f : Fabric) : (updAcc id g f).sent = f.sent := rfl
@[simp] theorem updAcc_answers (id : Nat) (g : Acc → Acc) (f : Fabric) : (updAcc id g f).answers = f.answers := rfl
@[simp] theorem updAcc_module_ (id : Nat) (g : Acc → Acc) (f : Fabric) : (updAcc id g f).module_ = f.module_ := rfl

/-! ### `updCopy` -/

@[simp] theorem updCopy_cycle (l t n : Nat) (g : CopyCh → CopyCh) (f : Fabric) : (updCopy l t n g f).cycle = f.cycle := rfl
@[simp] theorem updCopy_agenda (l t n : Nat) (g : CopyCh → CopyCh) (f : Fabric) : (updCopy l t n g f).agenda = f.agenda := rfl
@[simp] theorem updCopy_cur (l t n : Nat) (g : CopyCh → CopyCh) (f : Fabric) : (updCopy l t n g f).cur = f.cur := rfl
@[simp] theorem updCopy_inputs (l t n : Nat) (g : CopyCh → CopyCh) (f : Fabric) : (updCopy l t n g f).inputs = f.inputs := rfl
@[simp] theorem updCopy_nextId (l t n : Nat) (g : CopyCh → CopyCh) (f : Fabric) : (updCopy l t n g f).nextId = f.nextId := rfl
@[simp] theorem updCopy_freeCtr (l t n : Nat) (g : CopyCh → CopyCh) (f : Fabric) : (updCopy l t n g f).freeCtr = f.freeCtr := rfl
@[simp] theorem updCopy_posted (l t n : Nat) (g : CopyCh → CopyCh) (f : Fabric) : (updCopy l t n g f).posted = f.posted := rfl
@[simp] theorem updCopy_elems (l t n : Nat) (g : CopyCh → CopyCh) (f : Fabric) : (updCopy l t n g f).elems = f.elems := rfl
@[simp] theorem updCopy_chans (l t n : Nat) (g : CopyCh → CopyCh) (f : Fabric) : (updCopy l t n g f).chans = f.chans := rfl
@[simp] theorem updCopy_stations (l t n : Nat) (g : CopyCh → CopyCh) (f : Fabric) : (updCopy l t n g f).stations = f.stations := rfl
@[simp] theorem updCopy_lines (l t n : Nat) (g : CopyCh → CopyCh) (f : Fabric) : (updCopy l t n g f).lines = f.lines := rfl
@[simp] theorem updCopy_gens (l t n : Nat) (g : CopyCh → CopyCh) (f : Fabric) : (updCopy l t n g f).gens = f.gens := rfl
@[simp] theorem updCopy_accs (l t n : Nat) (g : CopyCh → CopyCh) (f : Fabric) : (updCopy l t n g f).accs = f.accs := rfl
@[simp] theorem updCopy_hist (l t n : Nat) (g : CopyCh → CopyCh) (f : Fabric) : (updCopy l t n g f).hist = f.hist := rfl
@[simp] theorem updCopy_learnt (l t n : Nat) (g : CopyCh → CopyCh) (f : Fabric) : (updCopy l t n g f).learnt = f.learnt := rfl
@[simp] theorem updCopy_copies (l t n : Nat) (g : CopyCh → CopyCh) (f : Fabric) : (updCopy l t n g f).copies = upd (fun c => c.line == l && c.tile == t && c.num == n) g f.copies := rfl
@[simp] theorem updCopy_hqs (l t n : Nat) (g : CopyCh → CopyCh) (f : Fabric) : (updCopy l t n g f).hqs = f.hqs := rfl
@[simp] theorem updCopy_cnts (l t n : Nat) (g : CopyCh → CopyCh) (f : Fabric) : (updCopy l t n g f).cnts = f.cnts := rfl
@[simp] theorem updCopy_acks (l t n : Nat) (g : CopyCh → CopyCh) (f : Fabric) : (updCopy l t n g f).acks = f.acks := rfl
@[simp] theorem updCopy_mx (l t n : Nat) (g : CopyCh → CopyCh) (f : Fabric) : (updCopy l t n g f).mx = f.mx := rfl
@[simp] theorem updCopy_voters (l t n : Nat) (g : CopyCh → CopyCh) (f : Fabric) : (updCopy l t n g f).voters = f.voters := rfl
@[simp] theorem updCopy_tiles (l t n : Nat) (g : CopyCh → CopyCh) (f : Fabric) : (updCopy l t n g f).tiles = f.tiles := rfl
@[simp] theorem updCopy_ctls (l t n : Nat) (g : CopyCh → CopyCh) (f : Fabric) : (updCopy l t n g f).ctls = f.ctls := rfl
@[simp] theorem updCopy_cmds (l t n : Nat) (g : CopyCh → CopyCh) (f : Fabric) : (updCopy l t n g f).cmds = f.cmds := rfl
@[simp] theorem updCopy_regions (l t n : Nat) (g : CopyCh → CopyCh) (f : Fabric) : (updCopy l t n g f).regions = f.regions := rfl
@[simp] theorem updCopy_groups (l t n : Nat) (g : CopyCh → CopyCh) (f : Fabric) : (updCopy l t n g f).groups = f.groups := rfl
@[simp] theorem updCopy_freed (l t n : Nat) (g : CopyCh → CopyCh) (f : Fabric) : (updCopy l t n g f).freed = f.freed := rfl
@[simp] theorem updCopy_parts (l t n : Nat) (g : CopyCh → CopyCh) (f : Fabric) : (updCopy l t n g f).parts = f.parts := rfl
@[simp] theorem updCopy_ifaces (l t n : Nat) (g : CopyCh → CopyCh) (f : Fabric) : (updCopy l t n g f).ifaces = f.ifaces := rfl
@[simp] theorem updCopy_launches (l t n : Nat) (g : CopyCh → CopyCh) (f : Fabric) : (updCopy l t n g f).launches = f.launches := rfl
@[simp] theorem updCopy_requests (l t n : Nat) (g : CopyCh → CopyCh) (f : Fabric) : (updCopy l t n g f).requests = f.requests := rfl
@[simp] theorem updCopy_resizes (l t n : Nat) (g : CopyCh → CopyCh) (f : Fabric) : (updCopy l t n g f).resizes = f.resizes := rfl
@[simp] theorem updCopy_images (l t n : Nat) (g : CopyCh → CopyCh) (f : Fabric) : (updCopy l t n g f).images = f.images := rfl
@[simp] theorem updCopy_recs (l t n : Nat) (g : CopyCh → CopyCh) (f : Fabric) : (updCopy l t n g f).recs = f.recs := rfl
@[simp] theorem updCopy_newRecs (l t n : Nat) (g : CopyCh → CopyCh) (f : Fabric) : (updCopy l t n g f).newRecs = f.newRecs := rfl
@[simp] theorem updCopy_charges (l t n : Nat) (g : CopyCh → CopyCh) (f : Fabric) : (updCopy l t n g f).charges = f.charges := rfl
@[simp] theorem updCopy_msix (l t n : Nat) (g : CopyCh → CopyCh) (f : Fabric) : (updCopy l t n g f).msix = f.msix := rfl
@[simp] theorem updCopy_errs (l t n : Nat) (g : CopyCh → CopyCh) (f : Fabric) : (updCopy l t n g f).errs = f.errs := rfl
@[simp] theorem updCopy_met (l t n : Nat) (g : CopyCh → CopyCh) (f : Fabric) : (updCopy l t n g f).met = f.met := rfl
@[simp] theorem updCopy_counted (l t n : Nat) (g : CopyCh → CopyCh) (f : Fabric) : (updCopy l t n g f).counted = f.counted := rfl
@[simp] theorem updCopy_poison (l t n : Nat) (g : CopyCh → CopyCh) (f : Fabric) : (updCopy l t n g f).poison = f.poison := rfl
@[simp] theorem updCopy_wpoison (l t n : Nat) (g : CopyCh → CopyCh) (f : Fabric) : (updCopy l t n g f).wpoison = f.wpoison := rfl
@[simp] theorem updCopy_layouts (l t n : Nat) (g : CopyCh → CopyCh) (f : Fabric) : (updCopy l t n g f).layouts = f.layouts := rfl
@[simp] theorem updCopy_scrub (l t n : Nat) (g : CopyCh → CopyCh) (f : Fabric) : (updCopy l t n g f).scrub = f.scrub := rfl
@[simp] theorem updCopy_spEntry (l t n : Nat) (g : CopyCh → CopyCh) (f : Fabric) : (updCopy l t n g f).spEntry = f.spEntry := rfl
@[simp] theorem updCopy_links (l t n : Nat) (g : CopyCh → CopyCh) (f : Fabric) : (updCopy l t n g f).links = f.links := rfl
@[simp] theorem updCopy_sent (l t n : Nat) (g : CopyCh → CopyCh) (f : Fabric) : (updCopy l t n g f).sent = f.sent := rfl
@[simp] theorem updCopy_answers (l t n : Nat) (g : CopyCh → CopyCh) (f : Fabric) : (updCopy l t n g f).answers = f.answers := rfl
@[simp] theorem updCopy_module_ (l t n : Nat) (g : CopyCh → CopyCh) (f : Fabric) : (updCopy l t n g f).module_ = f.module_ := rfl

/-! ### `updHq` -/

@[simp] theorem updHq_cycle (l t n : Nat) (g : HwQ → HwQ) (f : Fabric) : (updHq l t n g f).cycle = f.cycle := rfl
@[simp] theorem updHq_agenda (l t n : Nat) (g : HwQ → HwQ) (f : Fabric) : (updHq l t n g f).agenda = f.agenda := rfl
@[simp] theorem updHq_cur (l t n : Nat) (g : HwQ → HwQ) (f : Fabric) : (updHq l t n g f).cur = f.cur := rfl
@[simp] theorem updHq_inputs (l t n : Nat) (g : HwQ → HwQ) (f : Fabric) : (updHq l t n g f).inputs = f.inputs := rfl
@[simp] theorem updHq_nextId (l t n : Nat) (g : HwQ → HwQ) (f : Fabric) : (updHq l t n g f).nextId = f.nextId := rfl
@[simp] theorem updHq_freeCtr (l t n : Nat) (g : HwQ → HwQ) (f : Fabric) : (updHq l t n g f).freeCtr = f.freeCtr := rfl
@[simp] theorem updHq_posted (l t n : Nat) (g : HwQ → HwQ) (f : Fabric) : (updHq l t n g f).posted = f.posted := rfl
@[simp] theorem updHq_elems (l t n : Nat) (g : HwQ → HwQ) (f : Fabric) : (updHq l t n g f).elems = f.elems := rfl
@[simp] theorem updHq_chans (l t n : Nat) (g : HwQ → HwQ) (f : Fabric) : (updHq l t n g f).chans = f.chans := rfl
@[simp] theorem updHq_stations (l t n : Nat) (g : HwQ → HwQ) (f : Fabric) : (updHq l t n g f).stations = f.stations := rfl
@[simp] theorem updHq_lines (l t n : Nat) (g : HwQ → HwQ) (f : Fabric) : (updHq l t n g f).lines = f.lines := rfl
@[simp] theorem updHq_gens (l t n : Nat) (g : HwQ → HwQ) (f : Fabric) : (updHq l t n g f).gens = f.gens := rfl
@[simp] theorem updHq_accs (l t n : Nat) (g : HwQ → HwQ) (f : Fabric) : (updHq l t n g f).accs = f.accs := rfl
@[simp] theorem updHq_hist (l t n : Nat) (g : HwQ → HwQ) (f : Fabric) : (updHq l t n g f).hist = f.hist := rfl
@[simp] theorem updHq_learnt (l t n : Nat) (g : HwQ → HwQ) (f : Fabric) : (updHq l t n g f).learnt = f.learnt := rfl
@[simp] theorem updHq_copies (l t n : Nat) (g : HwQ → HwQ) (f : Fabric) : (updHq l t n g f).copies = f.copies := rfl
@[simp] theorem updHq_hqs (l t n : Nat) (g : HwQ → HwQ) (f : Fabric) : (updHq l t n g f).hqs = upd (fun c => c.line == l && c.tile == t && c.num == n) g f.hqs := rfl
@[simp] theorem updHq_cnts (l t n : Nat) (g : HwQ → HwQ) (f : Fabric) : (updHq l t n g f).cnts = f.cnts := rfl
@[simp] theorem updHq_acks (l t n : Nat) (g : HwQ → HwQ) (f : Fabric) : (updHq l t n g f).acks = f.acks := rfl
@[simp] theorem updHq_mx (l t n : Nat) (g : HwQ → HwQ) (f : Fabric) : (updHq l t n g f).mx = f.mx := rfl
@[simp] theorem updHq_voters (l t n : Nat) (g : HwQ → HwQ) (f : Fabric) : (updHq l t n g f).voters = f.voters := rfl
@[simp] theorem updHq_tiles (l t n : Nat) (g : HwQ → HwQ) (f : Fabric) : (updHq l t n g f).tiles = f.tiles := rfl
@[simp] theorem updHq_ctls (l t n : Nat) (g : HwQ → HwQ) (f : Fabric) : (updHq l t n g f).ctls = f.ctls := rfl
@[simp] theorem updHq_cmds (l t n : Nat) (g : HwQ → HwQ) (f : Fabric) : (updHq l t n g f).cmds = f.cmds := rfl
@[simp] theorem updHq_regions (l t n : Nat) (g : HwQ → HwQ) (f : Fabric) : (updHq l t n g f).regions = f.regions := rfl
@[simp] theorem updHq_groups (l t n : Nat) (g : HwQ → HwQ) (f : Fabric) : (updHq l t n g f).groups = f.groups := rfl
@[simp] theorem updHq_freed (l t n : Nat) (g : HwQ → HwQ) (f : Fabric) : (updHq l t n g f).freed = f.freed := rfl
@[simp] theorem updHq_parts (l t n : Nat) (g : HwQ → HwQ) (f : Fabric) : (updHq l t n g f).parts = f.parts := rfl
@[simp] theorem updHq_ifaces (l t n : Nat) (g : HwQ → HwQ) (f : Fabric) : (updHq l t n g f).ifaces = f.ifaces := rfl
@[simp] theorem updHq_launches (l t n : Nat) (g : HwQ → HwQ) (f : Fabric) : (updHq l t n g f).launches = f.launches := rfl
@[simp] theorem updHq_requests (l t n : Nat) (g : HwQ → HwQ) (f : Fabric) : (updHq l t n g f).requests = f.requests := rfl
@[simp] theorem updHq_resizes (l t n : Nat) (g : HwQ → HwQ) (f : Fabric) : (updHq l t n g f).resizes = f.resizes := rfl
@[simp] theorem updHq_images (l t n : Nat) (g : HwQ → HwQ) (f : Fabric) : (updHq l t n g f).images = f.images := rfl
@[simp] theorem updHq_recs (l t n : Nat) (g : HwQ → HwQ) (f : Fabric) : (updHq l t n g f).recs = f.recs := rfl
@[simp] theorem updHq_newRecs (l t n : Nat) (g : HwQ → HwQ) (f : Fabric) : (updHq l t n g f).newRecs = f.newRecs := rfl
@[simp] theorem updHq_charges (l t n : Nat) (g : HwQ → HwQ) (f : Fabric) : (updHq l t n g f).charges = f.charges := rfl
@[simp] theorem updHq_msix (l t n : Nat) (g : HwQ → HwQ) (f : Fabric) : (updHq l t n g f).msix = f.msix := rfl
@[simp] theorem updHq_errs (l t n : Nat) (g : HwQ → HwQ) (f : Fabric) : (updHq l t n g f).errs = f.errs := rfl
@[simp] theorem updHq_met (l t n : Nat) (g : HwQ → HwQ) (f : Fabric) : (updHq l t n g f).met = f.met := rfl
@[simp] theorem updHq_counted (l t n : Nat) (g : HwQ → HwQ) (f : Fabric) : (updHq l t n g f).counted = f.counted := rfl
@[simp] theorem updHq_poison (l t n : Nat) (g : HwQ → HwQ) (f : Fabric) : (updHq l t n g f).poison = f.poison := rfl
@[simp] theorem updHq_wpoison (l t n : Nat) (g : HwQ → HwQ) (f : Fabric) : (updHq l t n g f).wpoison = f.wpoison := rfl
@[simp] theorem updHq_layouts (l t n : Nat) (g : HwQ → HwQ) (f : Fabric) : (updHq l t n g f).layouts = f.layouts := rfl
@[simp] theorem updHq_scrub (l t n : Nat) (g : HwQ → HwQ) (f : Fabric) : (updHq l t n g f).scrub = f.scrub := rfl
@[simp] theorem updHq_spEntry (l t n : Nat) (g : HwQ → HwQ) (f : Fabric) : (updHq l t n g f).spEntry = f.spEntry := rfl
@[simp] theorem updHq_links (l t n : Nat) (g : HwQ → HwQ) (f : Fabric) : (updHq l t n g f).links = f.links := rfl
@[simp] theorem updHq_sent (l t n : Nat) (g : HwQ → HwQ) (f : Fabric) : (updHq l t n g f).sent = f.sent := rfl
@[simp] theorem updHq_answers (l t n : Nat) (g : HwQ → HwQ) (f : Fabric) : (updHq l t n g f).answers = f.answers := rfl
@[simp] theorem updHq_module_ (l t n : Nat) (g : HwQ → HwQ) (f : Fabric) : (updHq l t n g f).module_ = f.module_ := rfl

/-! ### `updCnt` -/

@[simp] theorem updCnt_cycle (l t n : Nat) (g : Cnt → Cnt) (f : Fabric) : (updCnt l t n g f).cycle = f.cycle := rfl
@[simp] theorem updCnt_agenda (l t n : Nat) (g : Cnt → Cnt) (f : Fabric) : (updCnt l t n g f).agenda = f.agenda := rfl
@[simp] theorem updCnt_cur (l t n : Nat) (g : Cnt → Cnt) (f : Fabric) : (updCnt l t n g f).cur = f.cur := rfl
@[simp] theorem updCnt_inputs (l t n : Nat) (g : Cnt → Cnt) (f : Fabric) : (updCnt l t n g f).inputs = f.inputs := rfl
@[simp] theorem updCnt_nextId (l t n : Nat) (g : Cnt → Cnt) (f : Fabric) : (updCnt l t n g f).nextId = f.nextId := rfl
@[simp] theorem updCnt_freeCtr (l t n : Nat) (g : Cnt → Cnt) (f : Fabric) : (updCnt l t n g f).freeCtr = f.freeCtr := rfl
@[simp] theorem updCnt_posted (l t n : Nat) (g : Cnt → Cnt) (f : Fabric) : (updCnt l t n g f).posted = f.posted := rfl
@[simp] theorem updCnt_elems (l t n : Nat) (g : Cnt → Cnt) (f : Fabric) : (updCnt l t n g f).elems = f.elems := rfl
@[simp] theorem updCnt_chans (l t n : Nat) (g : Cnt → Cnt) (f : Fabric) : (updCnt l t n g f).chans = f.chans := rfl
@[simp] theorem updCnt_stations (l t n : Nat) (g : Cnt → Cnt) (f : Fabric) : (updCnt l t n g f).stations = f.stations := rfl
@[simp] theorem updCnt_lines (l t n : Nat) (g : Cnt → Cnt) (f : Fabric) : (updCnt l t n g f).lines = f.lines := rfl
@[simp] theorem updCnt_gens (l t n : Nat) (g : Cnt → Cnt) (f : Fabric) : (updCnt l t n g f).gens = f.gens := rfl
@[simp] theorem updCnt_accs (l t n : Nat) (g : Cnt → Cnt) (f : Fabric) : (updCnt l t n g f).accs = f.accs := rfl
@[simp] theorem updCnt_hist (l t n : Nat) (g : Cnt → Cnt) (f : Fabric) : (updCnt l t n g f).hist = f.hist := rfl
@[simp] theorem updCnt_learnt (l t n : Nat) (g : Cnt → Cnt) (f : Fabric) : (updCnt l t n g f).learnt = f.learnt := rfl
@[simp] theorem updCnt_copies (l t n : Nat) (g : Cnt → Cnt) (f : Fabric) : (updCnt l t n g f).copies = f.copies := rfl
@[simp] theorem updCnt_hqs (l t n : Nat) (g : Cnt → Cnt) (f : Fabric) : (updCnt l t n g f).hqs = f.hqs := rfl
@[simp] theorem updCnt_cnts (l t n : Nat) (g : Cnt → Cnt) (f : Fabric) : (updCnt l t n g f).cnts = upd (fun c => c.line == l && c.tile == t && c.num == n) g f.cnts := rfl
@[simp] theorem updCnt_acks (l t n : Nat) (g : Cnt → Cnt) (f : Fabric) : (updCnt l t n g f).acks = f.acks := rfl
@[simp] theorem updCnt_mx (l t n : Nat) (g : Cnt → Cnt) (f : Fabric) : (updCnt l t n g f).mx = f.mx := rfl
@[simp] theorem updCnt_voters (l t n : Nat) (g : Cnt → Cnt) (f : Fabric) : (updCnt l t n g f).voters = f.voters := rfl
@[simp] theorem updCnt_tiles (l t n : Nat) (g : Cnt → Cnt) (f : Fabric) : (updCnt l t n g f).tiles = f.tiles := rfl
@[simp] theorem updCnt_ctls (l t n : Nat) (g : Cnt → Cnt) (f : Fabric) : (updCnt l t n g f).ctls = f.ctls := rfl
@[simp] theorem updCnt_cmds (l t n : Nat) (g : Cnt → Cnt) (f : Fabric) : (updCnt l t n g f).cmds = f.cmds := rfl
@[simp] theorem updCnt_regions (l t n : Nat) (g : Cnt → Cnt) (f : Fabric) : (updCnt l t n g f).regions = f.regions := rfl
@[simp] theorem updCnt_groups (l t n : Nat) (g : Cnt → Cnt) (f : Fabric) : (updCnt l t n g f).groups = f.groups := rfl
@[simp] theorem updCnt_freed (l t n : Nat) (g : Cnt → Cnt) (f : Fabric) : (updCnt l t n g f).freed = f.freed := rfl
@[simp] theorem updCnt_parts (l t n : Nat) (g : Cnt → Cnt) (f : Fabric) : (updCnt l t n g f).parts = f.parts := rfl
@[simp] theorem updCnt_ifaces (l t n : Nat) (g : Cnt → Cnt) (f : Fabric) : (updCnt l t n g f).ifaces = f.ifaces := rfl
@[simp] theorem updCnt_launches (l t n : Nat) (g : Cnt → Cnt) (f : Fabric) : (updCnt l t n g f).launches = f.launches := rfl
@[simp] theorem updCnt_requests (l t n : Nat) (g : Cnt → Cnt) (f : Fabric) : (updCnt l t n g f).requests = f.requests := rfl
@[simp] theorem updCnt_resizes (l t n : Nat) (g : Cnt → Cnt) (f : Fabric) : (updCnt l t n g f).resizes = f.resizes := rfl
@[simp] theorem updCnt_images (l t n : Nat) (g : Cnt → Cnt) (f : Fabric) : (updCnt l t n g f).images = f.images := rfl
@[simp] theorem updCnt_recs (l t n : Nat) (g : Cnt → Cnt) (f : Fabric) : (updCnt l t n g f).recs = f.recs := rfl
@[simp] theorem updCnt_newRecs (l t n : Nat) (g : Cnt → Cnt) (f : Fabric) : (updCnt l t n g f).newRecs = f.newRecs := rfl
@[simp] theorem updCnt_charges (l t n : Nat) (g : Cnt → Cnt) (f : Fabric) : (updCnt l t n g f).charges = f.charges := rfl
@[simp] theorem updCnt_msix (l t n : Nat) (g : Cnt → Cnt) (f : Fabric) : (updCnt l t n g f).msix = f.msix := rfl
@[simp] theorem updCnt_errs (l t n : Nat) (g : Cnt → Cnt) (f : Fabric) : (updCnt l t n g f).errs = f.errs := rfl
@[simp] theorem updCnt_met (l t n : Nat) (g : Cnt → Cnt) (f : Fabric) : (updCnt l t n g f).met = f.met := rfl
@[simp] theorem updCnt_counted (l t n : Nat) (g : Cnt → Cnt) (f : Fabric) : (updCnt l t n g f).counted = f.counted := rfl
@[simp] theorem updCnt_poison (l t n : Nat) (g : Cnt → Cnt) (f : Fabric) : (updCnt l t n g f).poison = f.poison := rfl
@[simp] theorem updCnt_wpoison (l t n : Nat) (g : Cnt → Cnt) (f : Fabric) : (updCnt l t n g f).wpoison = f.wpoison := rfl
@[simp] theorem updCnt_layouts (l t n : Nat) (g : Cnt → Cnt) (f : Fabric) : (updCnt l t n g f).layouts = f.layouts := rfl
@[simp] theorem updCnt_scrub (l t n : Nat) (g : Cnt → Cnt) (f : Fabric) : (updCnt l t n g f).scrub = f.scrub := rfl
@[simp] theorem updCnt_spEntry (l t n : Nat) (g : Cnt → Cnt) (f : Fabric) : (updCnt l t n g f).spEntry = f.spEntry := rfl
@[simp] theorem updCnt_links (l t n : Nat) (g : Cnt → Cnt) (f : Fabric) : (updCnt l t n g f).links = f.links := rfl
@[simp] theorem updCnt_sent (l t n : Nat) (g : Cnt → Cnt) (f : Fabric) : (updCnt l t n g f).sent = f.sent := rfl
@[simp] theorem updCnt_answers (l t n : Nat) (g : Cnt → Cnt) (f : Fabric) : (updCnt l t n g f).answers = f.answers := rfl
@[simp] theorem updCnt_module_ (l t n : Nat) (g : Cnt → Cnt) (f : Fabric) : (updCnt l t n g f).module_ = f.module_ := rfl

/-! ### `updMx` -/

@[simp] theorem updMx_cycle (l b : Nat) (g : MxBolt → MxBolt) (f : Fabric) : (updMx l b g f).cycle = f.cycle := rfl
@[simp] theorem updMx_agenda (l b : Nat) (g : MxBolt → MxBolt) (f : Fabric) : (updMx l b g f).agenda = f.agenda := rfl
@[simp] theorem updMx_cur (l b : Nat) (g : MxBolt → MxBolt) (f : Fabric) : (updMx l b g f).cur = f.cur := rfl
@[simp] theorem updMx_inputs (l b : Nat) (g : MxBolt → MxBolt) (f : Fabric) : (updMx l b g f).inputs = f.inputs := rfl
@[simp] theorem updMx_nextId (l b : Nat) (g : MxBolt → MxBolt) (f : Fabric) : (updMx l b g f).nextId = f.nextId := rfl
@[simp] theorem updMx_freeCtr (l b : Nat) (g : MxBolt → MxBolt) (f : Fabric) : (updMx l b g f).freeCtr = f.freeCtr := rfl
@[simp] theorem updMx_posted (l b : Nat) (g : MxBolt → MxBolt) (f : Fabric) : (updMx l b g f).posted = f.posted := rfl
@[simp] theorem updMx_elems (l b : Nat) (g : MxBolt → MxBolt) (f : Fabric) : (updMx l b g f).elems = f.elems := rfl
@[simp] theorem updMx_chans (l b : Nat) (g : MxBolt → MxBolt) (f : Fabric) : (updMx l b g f).chans = f.chans := rfl
@[simp] theorem updMx_stations (l b : Nat) (g : MxBolt → MxBolt) (f : Fabric) : (updMx l b g f).stations = f.stations := rfl
@[simp] theorem updMx_lines (l b : Nat) (g : MxBolt → MxBolt) (f : Fabric) : (updMx l b g f).lines = f.lines := rfl
@[simp] theorem updMx_gens (l b : Nat) (g : MxBolt → MxBolt) (f : Fabric) : (updMx l b g f).gens = f.gens := rfl
@[simp] theorem updMx_accs (l b : Nat) (g : MxBolt → MxBolt) (f : Fabric) : (updMx l b g f).accs = f.accs := rfl
@[simp] theorem updMx_hist (l b : Nat) (g : MxBolt → MxBolt) (f : Fabric) : (updMx l b g f).hist = f.hist := rfl
@[simp] theorem updMx_learnt (l b : Nat) (g : MxBolt → MxBolt) (f : Fabric) : (updMx l b g f).learnt = f.learnt := rfl
@[simp] theorem updMx_copies (l b : Nat) (g : MxBolt → MxBolt) (f : Fabric) : (updMx l b g f).copies = f.copies := rfl
@[simp] theorem updMx_hqs (l b : Nat) (g : MxBolt → MxBolt) (f : Fabric) : (updMx l b g f).hqs = f.hqs := rfl
@[simp] theorem updMx_cnts (l b : Nat) (g : MxBolt → MxBolt) (f : Fabric) : (updMx l b g f).cnts = f.cnts := rfl
@[simp] theorem updMx_acks (l b : Nat) (g : MxBolt → MxBolt) (f : Fabric) : (updMx l b g f).acks = f.acks := rfl
@[simp] theorem updMx_mx (l b : Nat) (g : MxBolt → MxBolt) (f : Fabric) : (updMx l b g f).mx = upd (fun c => c.line == l && c.bolt == b) g f.mx := rfl
@[simp] theorem updMx_voters (l b : Nat) (g : MxBolt → MxBolt) (f : Fabric) : (updMx l b g f).voters = f.voters := rfl
@[simp] theorem updMx_tiles (l b : Nat) (g : MxBolt → MxBolt) (f : Fabric) : (updMx l b g f).tiles = f.tiles := rfl
@[simp] theorem updMx_ctls (l b : Nat) (g : MxBolt → MxBolt) (f : Fabric) : (updMx l b g f).ctls = f.ctls := rfl
@[simp] theorem updMx_cmds (l b : Nat) (g : MxBolt → MxBolt) (f : Fabric) : (updMx l b g f).cmds = f.cmds := rfl
@[simp] theorem updMx_regions (l b : Nat) (g : MxBolt → MxBolt) (f : Fabric) : (updMx l b g f).regions = f.regions := rfl
@[simp] theorem updMx_groups (l b : Nat) (g : MxBolt → MxBolt) (f : Fabric) : (updMx l b g f).groups = f.groups := rfl
@[simp] theorem updMx_freed (l b : Nat) (g : MxBolt → MxBolt) (f : Fabric) : (updMx l b g f).freed = f.freed := rfl
@[simp] theorem updMx_parts (l b : Nat) (g : MxBolt → MxBolt) (f : Fabric) : (updMx l b g f).parts = f.parts := rfl
@[simp] theorem updMx_ifaces (l b : Nat) (g : MxBolt → MxBolt) (f : Fabric) : (updMx l b g f).ifaces = f.ifaces := rfl
@[simp] theorem updMx_launches (l b : Nat) (g : MxBolt → MxBolt) (f : Fabric) : (updMx l b g f).launches = f.launches := rfl
@[simp] theorem updMx_requests (l b : Nat) (g : MxBolt → MxBolt) (f : Fabric) : (updMx l b g f).requests = f.requests := rfl
@[simp] theorem updMx_resizes (l b : Nat) (g : MxBolt → MxBolt) (f : Fabric) : (updMx l b g f).resizes = f.resizes := rfl
@[simp] theorem updMx_images (l b : Nat) (g : MxBolt → MxBolt) (f : Fabric) : (updMx l b g f).images = f.images := rfl
@[simp] theorem updMx_recs (l b : Nat) (g : MxBolt → MxBolt) (f : Fabric) : (updMx l b g f).recs = f.recs := rfl
@[simp] theorem updMx_newRecs (l b : Nat) (g : MxBolt → MxBolt) (f : Fabric) : (updMx l b g f).newRecs = f.newRecs := rfl
@[simp] theorem updMx_charges (l b : Nat) (g : MxBolt → MxBolt) (f : Fabric) : (updMx l b g f).charges = f.charges := rfl
@[simp] theorem updMx_msix (l b : Nat) (g : MxBolt → MxBolt) (f : Fabric) : (updMx l b g f).msix = f.msix := rfl
@[simp] theorem updMx_errs (l b : Nat) (g : MxBolt → MxBolt) (f : Fabric) : (updMx l b g f).errs = f.errs := rfl
@[simp] theorem updMx_met (l b : Nat) (g : MxBolt → MxBolt) (f : Fabric) : (updMx l b g f).met = f.met := rfl
@[simp] theorem updMx_counted (l b : Nat) (g : MxBolt → MxBolt) (f : Fabric) : (updMx l b g f).counted = f.counted := rfl
@[simp] theorem updMx_poison (l b : Nat) (g : MxBolt → MxBolt) (f : Fabric) : (updMx l b g f).poison = f.poison := rfl
@[simp] theorem updMx_wpoison (l b : Nat) (g : MxBolt → MxBolt) (f : Fabric) : (updMx l b g f).wpoison = f.wpoison := rfl
@[simp] theorem updMx_layouts (l b : Nat) (g : MxBolt → MxBolt) (f : Fabric) : (updMx l b g f).layouts = f.layouts := rfl
@[simp] theorem updMx_scrub (l b : Nat) (g : MxBolt → MxBolt) (f : Fabric) : (updMx l b g f).scrub = f.scrub := rfl
@[simp] theorem updMx_spEntry (l b : Nat) (g : MxBolt → MxBolt) (f : Fabric) : (updMx l b g f).spEntry = f.spEntry := rfl
@[simp] theorem updMx_links (l b : Nat) (g : MxBolt → MxBolt) (f : Fabric) : (updMx l b g f).links = f.links := rfl
@[simp] theorem updMx_sent (l b : Nat) (g : MxBolt → MxBolt) (f : Fabric) : (updMx l b g f).sent = f.sent := rfl
@[simp] theorem updMx_answers (l b : Nat) (g : MxBolt → MxBolt) (f : Fabric) : (updMx l b g f).answers = f.answers := rfl
@[simp] theorem updMx_module_ (l b : Nat) (g : MxBolt → MxBolt) (f : Fabric) : (updMx l b g f).module_ = f.module_ := rfl

/-! ### `updVoter` -/

@[simp] theorem updVoter_cycle (l v : Nat) (g : Voter → Voter) (f : Fabric) : (updVoter l v g f).cycle = f.cycle := rfl
@[simp] theorem updVoter_agenda (l v : Nat) (g : Voter → Voter) (f : Fabric) : (updVoter l v g f).agenda = f.agenda := rfl
@[simp] theorem updVoter_cur (l v : Nat) (g : Voter → Voter) (f : Fabric) : (updVoter l v g f).cur = f.cur := rfl
@[simp] theorem updVoter_inputs (l v : Nat) (g : Voter → Voter) (f : Fabric) : (updVoter l v g f).inputs = f.inputs := rfl
@[simp] theorem updVoter_nextId (l v : Nat) (g : Voter → Voter) (f : Fabric) : (updVoter l v g f).nextId = f.nextId := rfl
@[simp] theorem updVoter_freeCtr (l v : Nat) (g : Voter → Voter) (f : Fabric) : (updVoter l v g f).freeCtr = f.freeCtr := rfl
@[simp] theorem updVoter_posted (l v : Nat) (g : Voter → Voter) (f : Fabric) : (updVoter l v g f).posted = f.posted := rfl
@[simp] theorem updVoter_elems (l v : Nat) (g : Voter → Voter) (f : Fabric) : (updVoter l v g f).elems = f.elems := rfl
@[simp] theorem updVoter_chans (l v : Nat) (g : Voter → Voter) (f : Fabric) : (updVoter l v g f).chans = f.chans := rfl
@[simp] theorem updVoter_stations (l v : Nat) (g : Voter → Voter) (f : Fabric) : (updVoter l v g f).stations = f.stations := rfl
@[simp] theorem updVoter_lines (l v : Nat) (g : Voter → Voter) (f : Fabric) : (updVoter l v g f).lines = f.lines := rfl
@[simp] theorem updVoter_gens (l v : Nat) (g : Voter → Voter) (f : Fabric) : (updVoter l v g f).gens = f.gens := rfl
@[simp] theorem updVoter_accs (l v : Nat) (g : Voter → Voter) (f : Fabric) : (updVoter l v g f).accs = f.accs := rfl
@[simp] theorem updVoter_hist (l v : Nat) (g : Voter → Voter) (f : Fabric) : (updVoter l v g f).hist = f.hist := rfl
@[simp] theorem updVoter_learnt (l v : Nat) (g : Voter → Voter) (f : Fabric) : (updVoter l v g f).learnt = f.learnt := rfl
@[simp] theorem updVoter_copies (l v : Nat) (g : Voter → Voter) (f : Fabric) : (updVoter l v g f).copies = f.copies := rfl
@[simp] theorem updVoter_hqs (l v : Nat) (g : Voter → Voter) (f : Fabric) : (updVoter l v g f).hqs = f.hqs := rfl
@[simp] theorem updVoter_cnts (l v : Nat) (g : Voter → Voter) (f : Fabric) : (updVoter l v g f).cnts = f.cnts := rfl
@[simp] theorem updVoter_acks (l v : Nat) (g : Voter → Voter) (f : Fabric) : (updVoter l v g f).acks = f.acks := rfl
@[simp] theorem updVoter_mx (l v : Nat) (g : Voter → Voter) (f : Fabric) : (updVoter l v g f).mx = f.mx := rfl
@[simp] theorem updVoter_voters (l v : Nat) (g : Voter → Voter) (f : Fabric) : (updVoter l v g f).voters = upd (fun c => c.line == l && c.num == v) g f.voters := rfl
@[simp] theorem updVoter_tiles (l v : Nat) (g : Voter → Voter) (f : Fabric) : (updVoter l v g f).tiles = f.tiles := rfl
@[simp] theorem updVoter_ctls (l v : Nat) (g : Voter → Voter) (f : Fabric) : (updVoter l v g f).ctls = f.ctls := rfl
@[simp] theorem updVoter_cmds (l v : Nat) (g : Voter → Voter) (f : Fabric) : (updVoter l v g f).cmds = f.cmds := rfl
@[simp] theorem updVoter_regions (l v : Nat) (g : Voter → Voter) (f : Fabric) : (updVoter l v g f).regions = f.regions := rfl
@[simp] theorem updVoter_groups (l v : Nat) (g : Voter → Voter) (f : Fabric) : (updVoter l v g f).groups = f.groups := rfl
@[simp] theorem updVoter_freed (l v : Nat) (g : Voter → Voter) (f : Fabric) : (updVoter l v g f).freed = f.freed := rfl
@[simp] theorem updVoter_parts (l v : Nat) (g : Voter → Voter) (f : Fabric) : (updVoter l v g f).parts = f.parts := rfl
@[simp] theorem updVoter_ifaces (l v : Nat) (g : Voter → Voter) (f : Fabric) : (updVoter l v g f).ifaces = f.ifaces := rfl
@[simp] theorem updVoter_launches (l v : Nat) (g : Voter → Voter) (f : Fabric) : (updVoter l v g f).launches = f.launches := rfl
@[simp] theorem updVoter_requests (l v : Nat) (g : Voter → Voter) (f : Fabric) : (updVoter l v g f).requests = f.requests := rfl
@[simp] theorem updVoter_resizes (l v : Nat) (g : Voter → Voter) (f : Fabric) : (updVoter l v g f).resizes = f.resizes := rfl
@[simp] theorem updVoter_images (l v : Nat) (g : Voter → Voter) (f : Fabric) : (updVoter l v g f).images = f.images := rfl
@[simp] theorem updVoter_recs (l v : Nat) (g : Voter → Voter) (f : Fabric) : (updVoter l v g f).recs = f.recs := rfl
@[simp] theorem updVoter_newRecs (l v : Nat) (g : Voter → Voter) (f : Fabric) : (updVoter l v g f).newRecs = f.newRecs := rfl
@[simp] theorem updVoter_charges (l v : Nat) (g : Voter → Voter) (f : Fabric) : (updVoter l v g f).charges = f.charges := rfl
@[simp] theorem updVoter_msix (l v : Nat) (g : Voter → Voter) (f : Fabric) : (updVoter l v g f).msix = f.msix := rfl
@[simp] theorem updVoter_errs (l v : Nat) (g : Voter → Voter) (f : Fabric) : (updVoter l v g f).errs = f.errs := rfl
@[simp] theorem updVoter_met (l v : Nat) (g : Voter → Voter) (f : Fabric) : (updVoter l v g f).met = f.met := rfl
@[simp] theorem updVoter_counted (l v : Nat) (g : Voter → Voter) (f : Fabric) : (updVoter l v g f).counted = f.counted := rfl
@[simp] theorem updVoter_poison (l v : Nat) (g : Voter → Voter) (f : Fabric) : (updVoter l v g f).poison = f.poison := rfl
@[simp] theorem updVoter_wpoison (l v : Nat) (g : Voter → Voter) (f : Fabric) : (updVoter l v g f).wpoison = f.wpoison := rfl
@[simp] theorem updVoter_layouts (l v : Nat) (g : Voter → Voter) (f : Fabric) : (updVoter l v g f).layouts = f.layouts := rfl
@[simp] theorem updVoter_scrub (l v : Nat) (g : Voter → Voter) (f : Fabric) : (updVoter l v g f).scrub = f.scrub := rfl
@[simp] theorem updVoter_spEntry (l v : Nat) (g : Voter → Voter) (f : Fabric) : (updVoter l v g f).spEntry = f.spEntry := rfl
@[simp] theorem updVoter_links (l v : Nat) (g : Voter → Voter) (f : Fabric) : (updVoter l v g f).links = f.links := rfl
@[simp] theorem updVoter_sent (l v : Nat) (g : Voter → Voter) (f : Fabric) : (updVoter l v g f).sent = f.sent := rfl
@[simp] theorem updVoter_answers (l v : Nat) (g : Voter → Voter) (f : Fabric) : (updVoter l v g f).answers = f.answers := rfl
@[simp] theorem updVoter_module_ (l v : Nat) (g : Voter → Voter) (f : Fabric) : (updVoter l v g f).module_ = f.module_ := rfl

/-! ### `updCtl` -/

@[simp] theorem updCtl_cycle (l t n : Nat) (g : Ctl → Ctl) (f : Fabric) : (updCtl l t n g f).cycle = f.cycle := rfl
@[simp] theorem updCtl_agenda (l t n : Nat) (g : Ctl → Ctl) (f : Fabric) : (updCtl l t n g f).agenda = f.agenda := rfl
@[simp] theorem updCtl_cur (l t n : Nat) (g : Ctl → Ctl) (f : Fabric) : (updCtl l t n g f).cur = f.cur := rfl
@[simp] theorem updCtl_inputs (l t n : Nat) (g : Ctl → Ctl) (f : Fabric) : (updCtl l t n g f).inputs = f.inputs := rfl
@[simp] theorem updCtl_nextId (l t n : Nat) (g : Ctl → Ctl) (f : Fabric) : (updCtl l t n g f).nextId = f.nextId := rfl
@[simp] theorem updCtl_freeCtr (l t n : Nat) (g : Ctl → Ctl) (f : Fabric) : (updCtl l t n g f).freeCtr = f.freeCtr := rfl
@[simp] theorem updCtl_posted (l t n : Nat) (g : Ctl → Ctl) (f : Fabric) : (updCtl l t n g f).posted = f.posted := rfl
@[simp] theorem updCtl_elems (l t n : Nat) (g : Ctl → Ctl) (f : Fabric) : (updCtl l t n g f).elems = f.elems := rfl
@[simp] theorem updCtl_chans (l t n : Nat) (g : Ctl → Ctl) (f : Fabric) : (updCtl l t n g f).chans = f.chans := rfl
@[simp] theorem updCtl_stations (l t n : Nat) (g : Ctl → Ctl) (f : Fabric) : (updCtl l t n g f).stations = f.stations := rfl
@[simp] theorem updCtl_lines (l t n : Nat) (g : Ctl → Ctl) (f : Fabric) : (updCtl l t n g f).lines = f.lines := rfl
@[simp] theorem updCtl_gens (l t n : Nat) (g : Ctl → Ctl) (f : Fabric) : (updCtl l t n g f).gens = f.gens := rfl
@[simp] theorem updCtl_accs (l t n : Nat) (g : Ctl → Ctl) (f : Fabric) : (updCtl l t n g f).accs = f.accs := rfl
@[simp] theorem updCtl_hist (l t n : Nat) (g : Ctl → Ctl) (f : Fabric) : (updCtl l t n g f).hist = f.hist := rfl
@[simp] theorem updCtl_learnt (l t n : Nat) (g : Ctl → Ctl) (f : Fabric) : (updCtl l t n g f).learnt = f.learnt := rfl
@[simp] theorem updCtl_copies (l t n : Nat) (g : Ctl → Ctl) (f : Fabric) : (updCtl l t n g f).copies = f.copies := rfl
@[simp] theorem updCtl_hqs (l t n : Nat) (g : Ctl → Ctl) (f : Fabric) : (updCtl l t n g f).hqs = f.hqs := rfl
@[simp] theorem updCtl_cnts (l t n : Nat) (g : Ctl → Ctl) (f : Fabric) : (updCtl l t n g f).cnts = f.cnts := rfl
@[simp] theorem updCtl_acks (l t n : Nat) (g : Ctl → Ctl) (f : Fabric) : (updCtl l t n g f).acks = f.acks := rfl
@[simp] theorem updCtl_mx (l t n : Nat) (g : Ctl → Ctl) (f : Fabric) : (updCtl l t n g f).mx = f.mx := rfl
@[simp] theorem updCtl_voters (l t n : Nat) (g : Ctl → Ctl) (f : Fabric) : (updCtl l t n g f).voters = f.voters := rfl
@[simp] theorem updCtl_tiles (l t n : Nat) (g : Ctl → Ctl) (f : Fabric) : (updCtl l t n g f).tiles = f.tiles := rfl
@[simp] theorem updCtl_ctls (l t n : Nat) (g : Ctl → Ctl) (f : Fabric) : (updCtl l t n g f).ctls = upd (fun c => c.line == l && c.tile == t && c.num == n) g f.ctls := rfl
@[simp] theorem updCtl_cmds (l t n : Nat) (g : Ctl → Ctl) (f : Fabric) : (updCtl l t n g f).cmds = f.cmds := rfl
@[simp] theorem updCtl_regions (l t n : Nat) (g : Ctl → Ctl) (f : Fabric) : (updCtl l t n g f).regions = f.regions := rfl
@[simp] theorem updCtl_groups (l t n : Nat) (g : Ctl → Ctl) (f : Fabric) : (updCtl l t n g f).groups = f.groups := rfl
@[simp] theorem updCtl_freed (l t n : Nat) (g : Ctl → Ctl) (f : Fabric) : (updCtl l t n g f).freed = f.freed := rfl
@[simp] theorem updCtl_parts (l t n : Nat) (g : Ctl → Ctl) (f : Fabric) : (updCtl l t n g f).parts = f.parts := rfl
@[simp] theorem updCtl_ifaces (l t n : Nat) (g : Ctl → Ctl) (f : Fabric) : (updCtl l t n g f).ifaces = f.ifaces := rfl
@[simp] theorem updCtl_launches (l t n : Nat) (g : Ctl → Ctl) (f : Fabric) : (updCtl l t n g f).launches = f.launches := rfl
@[simp] theorem updCtl_requests (l t n : Nat) (g : Ctl → Ctl) (f : Fabric) : (updCtl l t n g f).requests = f.requests := rfl
@[simp] theorem updCtl_resizes (l t n : Nat) (g : Ctl → Ctl) (f : Fabric) : (updCtl l t n g f).resizes = f.resizes := rfl
@[simp] theorem updCtl_images (l t n : Nat) (g : Ctl → Ctl) (f : Fabric) : (updCtl l t n g f).images = f.images := rfl
@[simp] theorem updCtl_recs (l t n : Nat) (g : Ctl → Ctl) (f : Fabric) : (updCtl l t n g f).recs = f.recs := rfl
@[simp] theorem updCtl_newRecs (l t n : Nat) (g : Ctl → Ctl) (f : Fabric) : (updCtl l t n g f).newRecs = f.newRecs := rfl
@[simp] theorem updCtl_charges (l t n : Nat) (g : Ctl → Ctl) (f : Fabric) : (updCtl l t n g f).charges = f.charges := rfl
@[simp] theorem updCtl_msix (l t n : Nat) (g : Ctl → Ctl) (f : Fabric) : (updCtl l t n g f).msix = f.msix := rfl
@[simp] theorem updCtl_errs (l t n : Nat) (g : Ctl → Ctl) (f : Fabric) : (updCtl l t n g f).errs = f.errs := rfl
@[simp] theorem updCtl_met (l t n : Nat) (g : Ctl → Ctl) (f : Fabric) : (updCtl l t n g f).met = f.met := rfl
@[simp] theorem updCtl_counted (l t n : Nat) (g : Ctl → Ctl) (f : Fabric) : (updCtl l t n g f).counted = f.counted := rfl
@[simp] theorem updCtl_poison (l t n : Nat) (g : Ctl → Ctl) (f : Fabric) : (updCtl l t n g f).poison = f.poison := rfl
@[simp] theorem updCtl_wpoison (l t n : Nat) (g : Ctl → Ctl) (f : Fabric) : (updCtl l t n g f).wpoison = f.wpoison := rfl
@[simp] theorem updCtl_layouts (l t n : Nat) (g : Ctl → Ctl) (f : Fabric) : (updCtl l t n g f).layouts = f.layouts := rfl
@[simp] theorem updCtl_scrub (l t n : Nat) (g : Ctl → Ctl) (f : Fabric) : (updCtl l t n g f).scrub = f.scrub := rfl
@[simp] theorem updCtl_spEntry (l t n : Nat) (g : Ctl → Ctl) (f : Fabric) : (updCtl l t n g f).spEntry = f.spEntry := rfl
@[simp] theorem updCtl_links (l t n : Nat) (g : Ctl → Ctl) (f : Fabric) : (updCtl l t n g f).links = f.links := rfl
@[simp] theorem updCtl_sent (l t n : Nat) (g : Ctl → Ctl) (f : Fabric) : (updCtl l t n g f).sent = f.sent := rfl
@[simp] theorem updCtl_answers (l t n : Nat) (g : Ctl → Ctl) (f : Fabric) : (updCtl l t n g f).answers = f.answers := rfl
@[simp] theorem updCtl_module_ (l t n : Nat) (g : Ctl → Ctl) (f : Fabric) : (updCtl l t n g f).module_ = f.module_ := rfl

/-! ### `updRegion` -/

@[simp] theorem updRegion_cycle (l n : Nat) (g : Region → Region) (f : Fabric) : (updRegion l n g f).cycle = f.cycle := rfl
@[simp] theorem updRegion_agenda (l n : Nat) (g : Region → Region) (f : Fabric) : (updRegion l n g f).agenda = f.agenda := rfl
@[simp] theorem updRegion_cur (l n : Nat) (g : Region → Region) (f : Fabric) : (updRegion l n g f).cur = f.cur := rfl
@[simp] theorem updRegion_inputs (l n : Nat) (g : Region → Region) (f : Fabric) : (updRegion l n g f).inputs = f.inputs := rfl
@[simp] theorem updRegion_nextId (l n : Nat) (g : Region → Region) (f : Fabric) : (updRegion l n g f).nextId = f.nextId := rfl
@[simp] theorem updRegion_freeCtr (l n : Nat) (g : Region → Region) (f : Fabric) : (updRegion l n g f).freeCtr = f.freeCtr := rfl
@[simp] theorem updRegion_posted (l n : Nat) (g : Region → Region) (f : Fabric) : (updRegion l n g f).posted = f.posted := rfl
@[simp] theorem updRegion_elems (l n : Nat) (g : Region → Region) (f : Fabric) : (updRegion l n g f).elems = f.elems := rfl
@[simp] theorem updRegion_chans (l n : Nat) (g : Region → Region) (f : Fabric) : (updRegion l n g f).chans = f.chans := rfl
@[simp] theorem updRegion_stations (l n : Nat) (g : Region → Region) (f : Fabric) : (updRegion l n g f).stations = f.stations := rfl
@[simp] theorem updRegion_lines (l n : Nat) (g : Region → Region) (f : Fabric) : (updRegion l n g f).lines = f.lines := rfl
@[simp] theorem updRegion_gens (l n : Nat) (g : Region → Region) (f : Fabric) : (updRegion l n g f).gens = f.gens := rfl
@[simp] theorem updRegion_accs (l n : Nat) (g : Region → Region) (f : Fabric) : (updRegion l n g f).accs = f.accs := rfl
@[simp] theorem updRegion_hist (l n : Nat) (g : Region → Region) (f : Fabric) : (updRegion l n g f).hist = f.hist := rfl
@[simp] theorem updRegion_learnt (l n : Nat) (g : Region → Region) (f : Fabric) : (updRegion l n g f).learnt = f.learnt := rfl
@[simp] theorem updRegion_copies (l n : Nat) (g : Region → Region) (f : Fabric) : (updRegion l n g f).copies = f.copies := rfl
@[simp] theorem updRegion_hqs (l n : Nat) (g : Region → Region) (f : Fabric) : (updRegion l n g f).hqs = f.hqs := rfl
@[simp] theorem updRegion_cnts (l n : Nat) (g : Region → Region) (f : Fabric) : (updRegion l n g f).cnts = f.cnts := rfl
@[simp] theorem updRegion_acks (l n : Nat) (g : Region → Region) (f : Fabric) : (updRegion l n g f).acks = f.acks := rfl
@[simp] theorem updRegion_mx (l n : Nat) (g : Region → Region) (f : Fabric) : (updRegion l n g f).mx = f.mx := rfl
@[simp] theorem updRegion_voters (l n : Nat) (g : Region → Region) (f : Fabric) : (updRegion l n g f).voters = f.voters := rfl
@[simp] theorem updRegion_tiles (l n : Nat) (g : Region → Region) (f : Fabric) : (updRegion l n g f).tiles = f.tiles := rfl
@[simp] theorem updRegion_ctls (l n : Nat) (g : Region → Region) (f : Fabric) : (updRegion l n g f).ctls = f.ctls := rfl
@[simp] theorem updRegion_cmds (l n : Nat) (g : Region → Region) (f : Fabric) : (updRegion l n g f).cmds = f.cmds := rfl
@[simp] theorem updRegion_regions (l n : Nat) (g : Region → Region) (f : Fabric) : (updRegion l n g f).regions = upd (fun c => c.line == l && c.num == n) g f.regions := rfl
@[simp] theorem updRegion_groups (l n : Nat) (g : Region → Region) (f : Fabric) : (updRegion l n g f).groups = f.groups := rfl
@[simp] theorem updRegion_freed (l n : Nat) (g : Region → Region) (f : Fabric) : (updRegion l n g f).freed = f.freed := rfl
@[simp] theorem updRegion_parts (l n : Nat) (g : Region → Region) (f : Fabric) : (updRegion l n g f).parts = f.parts := rfl
@[simp] theorem updRegion_ifaces (l n : Nat) (g : Region → Region) (f : Fabric) : (updRegion l n g f).ifaces = f.ifaces := rfl
@[simp] theorem updRegion_launches (l n : Nat) (g : Region → Region) (f : Fabric) : (updRegion l n g f).launches = f.launches := rfl
@[simp] theorem updRegion_requests (l n : Nat) (g : Region → Region) (f : Fabric) : (updRegion l n g f).requests = f.requests := rfl
@[simp] theorem updRegion_resizes (l n : Nat) (g : Region → Region) (f : Fabric) : (updRegion l n g f).resizes = f.resizes := rfl
@[simp] theorem updRegion_images (l n : Nat) (g : Region → Region) (f : Fabric) : (updRegion l n g f).images = f.images := rfl
@[simp] theorem updRegion_recs (l n : Nat) (g : Region → Region) (f : Fabric) : (updRegion l n g f).recs = f.recs := rfl
@[simp] theorem updRegion_newRecs (l n : Nat) (g : Region → Region) (f : Fabric) : (updRegion l n g f).newRecs = f.newRecs := rfl
@[simp] theorem updRegion_charges (l n : Nat) (g : Region → Region) (f : Fabric) : (updRegion l n g f).charges = f.charges := rfl
@[simp] theorem updRegion_msix (l n : Nat) (g : Region → Region) (f : Fabric) : (updRegion l n g f).msix = f.msix := rfl
@[simp] theorem updRegion_errs (l n : Nat) (g : Region → Region) (f : Fabric) : (updRegion l n g f).errs = f.errs := rfl
@[simp] theorem updRegion_met (l n : Nat) (g : Region → Region) (f : Fabric) : (updRegion l n g f).met = f.met := rfl
@[simp] theorem updRegion_counted (l n : Nat) (g : Region → Region) (f : Fabric) : (updRegion l n g f).counted = f.counted := rfl
@[simp] theorem updRegion_poison (l n : Nat) (g : Region → Region) (f : Fabric) : (updRegion l n g f).poison = f.poison := rfl
@[simp] theorem updRegion_wpoison (l n : Nat) (g : Region → Region) (f : Fabric) : (updRegion l n g f).wpoison = f.wpoison := rfl
@[simp] theorem updRegion_layouts (l n : Nat) (g : Region → Region) (f : Fabric) : (updRegion l n g f).layouts = f.layouts := rfl
@[simp] theorem updRegion_scrub (l n : Nat) (g : Region → Region) (f : Fabric) : (updRegion l n g f).scrub = f.scrub := rfl
@[simp] theorem updRegion_spEntry (l n : Nat) (g : Region → Region) (f : Fabric) : (updRegion l n g f).spEntry = f.spEntry := rfl
@[simp] theorem updRegion_links (l n : Nat) (g : Region → Region) (f : Fabric) : (updRegion l n g f).links = f.links := rfl
@[simp] theorem updRegion_sent (l n : Nat) (g : Region → Region) (f : Fabric) : (updRegion l n g f).sent = f.sent := rfl
@[simp] theorem updRegion_answers (l n : Nat) (g : Region → Region) (f : Fabric) : (updRegion l n g f).answers = f.answers := rfl
@[simp] theorem updRegion_module_ (l n : Nat) (g : Region → Region) (f : Fabric) : (updRegion l n g f).module_ = f.module_ := rfl

/-! ### `updGroup` -/

@[simp] theorem updGroup_cycle (vf n : Nat) (g : Group → Group) (f : Fabric) : (updGroup vf n g f).cycle = f.cycle := rfl
@[simp] theorem updGroup_agenda (vf n : Nat) (g : Group → Group) (f : Fabric) : (updGroup vf n g f).agenda = f.agenda := rfl
@[simp] theorem updGroup_cur (vf n : Nat) (g : Group → Group) (f : Fabric) : (updGroup vf n g f).cur = f.cur := rfl
@[simp] theorem updGroup_inputs (vf n : Nat) (g : Group → Group) (f : Fabric) : (updGroup vf n g f).inputs = f.inputs := rfl
@[simp] theorem updGroup_nextId (vf n : Nat) (g : Group → Group) (f : Fabric) : (updGroup vf n g f).nextId = f.nextId := rfl
@[simp] theorem updGroup_freeCtr (vf n : Nat) (g : Group → Group) (f : Fabric) : (updGroup vf n g f).freeCtr = f.freeCtr := rfl
@[simp] theorem updGroup_posted (vf n : Nat) (g : Group → Group) (f : Fabric) : (updGroup vf n g f).posted = f.posted := rfl
@[simp] theorem updGroup_elems (vf n : Nat) (g : Group → Group) (f : Fabric) : (updGroup vf n g f).elems = f.elems := rfl
@[simp] theorem updGroup_chans (vf n : Nat) (g : Group → Group) (f : Fabric) : (updGroup vf n g f).chans = f.chans := rfl
@[simp] theorem updGroup_stations (vf n : Nat) (g : Group → Group) (f : Fabric) : (updGroup vf n g f).stations = f.stations := rfl
@[simp] theorem updGroup_lines (vf n : Nat) (g : Group → Group) (f : Fabric) : (updGroup vf n g f).lines = f.lines := rfl
@[simp] theorem updGroup_gens (vf n : Nat) (g : Group → Group) (f : Fabric) : (updGroup vf n g f).gens = f.gens := rfl
@[simp] theorem updGroup_accs (vf n : Nat) (g : Group → Group) (f : Fabric) : (updGroup vf n g f).accs = f.accs := rfl
@[simp] theorem updGroup_hist (vf n : Nat) (g : Group → Group) (f : Fabric) : (updGroup vf n g f).hist = f.hist := rfl
@[simp] theorem updGroup_learnt (vf n : Nat) (g : Group → Group) (f : Fabric) : (updGroup vf n g f).learnt = f.learnt := rfl
@[simp] theorem updGroup_copies (vf n : Nat) (g : Group → Group) (f : Fabric) : (updGroup vf n g f).copies = f.copies := rfl
@[simp] theorem updGroup_hqs (vf n : Nat) (g : Group → Group) (f : Fabric) : (updGroup vf n g f).hqs = f.hqs := rfl
@[simp] theorem updGroup_cnts (vf n : Nat) (g : Group → Group) (f : Fabric) : (updGroup vf n g f).cnts = f.cnts := rfl
@[simp] theorem updGroup_acks (vf n : Nat) (g : Group → Group) (f : Fabric) : (updGroup vf n g f).acks = f.acks := rfl
@[simp] theorem updGroup_mx (vf n : Nat) (g : Group → Group) (f : Fabric) : (updGroup vf n g f).mx = f.mx := rfl
@[simp] theorem updGroup_voters (vf n : Nat) (g : Group → Group) (f : Fabric) : (updGroup vf n g f).voters = f.voters := rfl
@[simp] theorem updGroup_tiles (vf n : Nat) (g : Group → Group) (f : Fabric) : (updGroup vf n g f).tiles = f.tiles := rfl
@[simp] theorem updGroup_ctls (vf n : Nat) (g : Group → Group) (f : Fabric) : (updGroup vf n g f).ctls = f.ctls := rfl
@[simp] theorem updGroup_cmds (vf n : Nat) (g : Group → Group) (f : Fabric) : (updGroup vf n g f).cmds = f.cmds := rfl
@[simp] theorem updGroup_regions (vf n : Nat) (g : Group → Group) (f : Fabric) : (updGroup vf n g f).regions = f.regions := rfl
@[simp] theorem updGroup_groups (vf n : Nat) (g : Group → Group) (f : Fabric) : (updGroup vf n g f).groups = upd (fun c => c.vf == vf && c.num == n) g f.groups := rfl
@[simp] theorem updGroup_freed (vf n : Nat) (g : Group → Group) (f : Fabric) : (updGroup vf n g f).freed = f.freed := rfl
@[simp] theorem updGroup_parts (vf n : Nat) (g : Group → Group) (f : Fabric) : (updGroup vf n g f).parts = f.parts := rfl
@[simp] theorem updGroup_ifaces (vf n : Nat) (g : Group → Group) (f : Fabric) : (updGroup vf n g f).ifaces = f.ifaces := rfl
@[simp] theorem updGroup_launches (vf n : Nat) (g : Group → Group) (f : Fabric) : (updGroup vf n g f).launches = f.launches := rfl
@[simp] theorem updGroup_requests (vf n : Nat) (g : Group → Group) (f : Fabric) : (updGroup vf n g f).requests = f.requests := rfl
@[simp] theorem updGroup_resizes (vf n : Nat) (g : Group → Group) (f : Fabric) : (updGroup vf n g f).resizes = f.resizes := rfl
@[simp] theorem updGroup_images (vf n : Nat) (g : Group → Group) (f : Fabric) : (updGroup vf n g f).images = f.images := rfl
@[simp] theorem updGroup_recs (vf n : Nat) (g : Group → Group) (f : Fabric) : (updGroup vf n g f).recs = f.recs := rfl
@[simp] theorem updGroup_newRecs (vf n : Nat) (g : Group → Group) (f : Fabric) : (updGroup vf n g f).newRecs = f.newRecs := rfl
@[simp] theorem updGroup_charges (vf n : Nat) (g : Group → Group) (f : Fabric) : (updGroup vf n g f).charges = f.charges := rfl
@[simp] theorem updGroup_msix (vf n : Nat) (g : Group → Group) (f : Fabric) : (updGroup vf n g f).msix = f.msix := rfl
@[simp] theorem updGroup_errs (vf n : Nat) (g : Group → Group) (f : Fabric) : (updGroup vf n g f).errs = f.errs := rfl
@[simp] theorem updGroup_met (vf n : Nat) (g : Group → Group) (f : Fabric) : (updGroup vf n g f).met = f.met := rfl
@[simp] theorem updGroup_counted (vf n : Nat) (g : Group → Group) (f : Fabric) : (updGroup vf n g f).counted = f.counted := rfl
@[simp] theorem updGroup_poison (vf n : Nat) (g : Group → Group) (f : Fabric) : (updGroup vf n g f).poison = f.poison := rfl
@[simp] theorem updGroup_wpoison (vf n : Nat) (g : Group → Group) (f : Fabric) : (updGroup vf n g f).wpoison = f.wpoison := rfl
@[simp] theorem updGroup_layouts (vf n : Nat) (g : Group → Group) (f : Fabric) : (updGroup vf n g f).layouts = f.layouts := rfl
@[simp] theorem updGroup_scrub (vf n : Nat) (g : Group → Group) (f : Fabric) : (updGroup vf n g f).scrub = f.scrub := rfl
@[simp] theorem updGroup_spEntry (vf n : Nat) (g : Group → Group) (f : Fabric) : (updGroup vf n g f).spEntry = f.spEntry := rfl
@[simp] theorem updGroup_links (vf n : Nat) (g : Group → Group) (f : Fabric) : (updGroup vf n g f).links = f.links := rfl
@[simp] theorem updGroup_sent (vf n : Nat) (g : Group → Group) (f : Fabric) : (updGroup vf n g f).sent = f.sent := rfl
@[simp] theorem updGroup_answers (vf n : Nat) (g : Group → Group) (f : Fabric) : (updGroup vf n g f).answers = f.answers := rfl
@[simp] theorem updGroup_module_ (vf n : Nat) (g : Group → Group) (f : Fabric) : (updGroup vf n g f).module_ = f.module_ := rfl

end Sys2Proof.Machine
end

