-- ==== Sys2Proof/Laws/Firing.lean ====
section
/-!
SUPPORT. What a firing, a command and an event can do, each said once; what a result leaves; and that all of them keep a
good state.
-/
namespace Sys2Proof.Machine

/-! ## Reading does not depend on what has been acquired -/

@[simp] theorem Elem.acquire_line (f : Fabric) (e : Elem) (n : Nat) (i : Instr) : (e.acquire f n i).line = e.line := rfl
@[simp] theorem Elem.acquire_thread (f : Fabric) (e : Elem) (n : Nat) (i : Instr) : (e.acquire f n i).thread = e.thread := rfl
@[simp] theorem Elem.acquire_station (f : Fabric) (e : Elem) (n : Nat) (i : Instr) : (e.acquire f n i).station = e.station := rfl
@[simp] theorem Elem.acquire_lat (f : Fabric) (e : Elem) (n : Nat) (i : Instr) : (e.acquire f n i).lat = e.lat := rfl
@[simp] theorem Elem.acquire_o (f : Fabric) (e : Elem) (n : Nat) (i : Instr) : (e.acquire f n i).o = e.o := rfl
@[simp] theorem Elem.acquire_m (f : Fabric) (e : Elem) (n : Nat) (i : Instr) : (e.acquire f n i).m = e.m := rfl
@[simp] theorem Elem.acquire_k (f : Fabric) (e : Elem) (n : Nat) (i : Instr) : (e.acquire f n i).k = e.k := rfl
@[simp] theorem Elem.acquire_h (f : Fabric) (e : Elem) (n : Nat) (i : Instr) : (e.acquire f n i).h = e.h := rfl
@[simp] theorem Elem.acquire_w (f : Fabric) (e : Elem) (n : Nat) (i : Instr) : (e.acquire f n i).w = e.w := rfl
@[simp] theorem Elem.acquire_slots (f : Fabric) (e : Elem) (n : Nat) (i : Instr) : (e.acquire f n i).slots = e.slots := rfl
@[simp] theorem Elem.acquire_guards (f : Fabric) (e : Elem) (n : Nat) (i : Instr) : (e.acquire f n i).guards = e.guards := rfl
@[simp] theorem Elem.acquire_nodes (f : Fabric) (e : Elem) (n : Nat) (i : Instr) : (e.acquire f n i).nodes = e.nodes := rfl
@[simp] theorem Elem.acquire_preds (f : Fabric) (e : Elem) (n : Nat) (i : Instr) : (e.acquire f n i).preds = e.preds := rfl
@[simp] theorem Elem.acquire_ifmt (f : Fabric) (e : Elem) (n : Nat) (i : Instr) : (e.acquire f n i).ifmt = e.ifmt := rfl
@[simp] theorem Elem.acquire_ffmt (f : Fabric) (e : Elem) (n : Nat) (i : Instr) : (e.acquire f n i).ffmt = e.ffmt := rfl
@[simp] theorem Elem.acquire_rnd (f : Fabric) (e : Elem) (n : Nat) (i : Instr) : (e.acquire f n i).rnd = e.rnd := rfl
@[simp] theorem Elem.acquire_sat (f : Fabric) (e : Elem) (n : Nat) (i : Instr) : (e.acquire f n i).sat = e.sat := rfl

@[simp] theorem inputView_acquire (g f : Fabric) (e : Elem) (n : Nat) (i : Instr) (h : Nat) :
    inputView g (e.acquire f n i) h = inputView g e h := rfl

@[simp] theorem readSrc_acquire (g f : Fabric) (e : Elem) (n : Nat) (i : Instr) (k : ImmKind) (a : Src) :
    readSrc g (e.acquire f n i) k a = readSrc g e k a := by
  cases a <;> simp [readSrc, immLanes]

@[simp] theorem readDst_acquire (f : Fabric) (e : Elem) (n : Nat) (i : Instr) (d : Dst) :
    readDst (e.acquire f n i) d = readDst e d := by cases d <;> rfl

@[simp] theorem isResuming_acquire (g f : Fabric) (e : Elem) (n : Nat) (i : Instr) :
    isResuming g (e.acquire f n i) = isResuming g e := rfl

@[simp] theorem predVal_acquire (g f : Fabric) (e : Elem) (n : Nat) (i : Instr) (p : Nat) :
    predVal g (e.acquire f n i) p = predVal g e p := rfl

/-! ## A firing -/

/-- A word that waits leaves the state as it is (R50). -/
theorem fireWord_waits {s : State} {l th slot : Nat} {e : Elem} {i : Instr} {eff : Memory → Elem → Nat → Fabric → Effect}
    (hc : s.fab.cur = .elem l th slot) (hf : findElem s.fab l th = some e) (hr : ready s.fab e i = false) :
    fireWord i eff s = .next s := by simp [fireWord, hc, hf, hr]

/-- A word that fires has its effect. -/
theorem fireWord_ok {s : State} {l th slot : Nat} {e : Elem} {i : Instr} {eff : Memory → Elem → Nat → Fabric → Effect}
    {f : Fabric} (h : s.Fires l th slot e i) (he : eff s.mem (e.acquire s.fab slot i) slot s.fab = .ok f) :
    fireWord i eff s = .next (s.fired e slot i f) := by
  simp only [Elem.acquire] at he
  simp [fireWord, h.cur, h.found, h.ready, he, State.fired, Elem.acquire]

/-- A word that faults has no other effect (R64). -/
theorem fireWord_error {s : State} {l th slot : Nat} {e : Elem} {i : Instr} {eff : Memory → Elem → Nat → Fabric → Effect}
    {x : Nat × Nat} (h : s.Fires l th slot e i) (he : eff s.mem (e.acquire s.fab slot i) slot s.fab = .error x) :
    fireWord i eff s = .next (s.faulted e slot i x.1 x.2) := by
  simp only [Elem.acquire] at he
  simp [fireWord, h.cur, h.found, h.ready, he, State.faulted, Elem.acquire]

/-- Everything a firing can answer. -/
theorem fireWord_next {s t : State} {i : Instr} {eff : Memory → Elem → Nat → Fabric → Effect} (h : fireWord i eff s = .next t) :
    t = s ∨ ∃ l th slot e, s.Fires l th slot e i ∧
      ((∃ f, eff s.mem (e.acquire s.fab slot i) slot s.fab = .ok f ∧ t = s.fired e slot i f) ∨
       (∃ x, eff s.mem (e.acquire s.fab slot i) slot s.fab = .error x ∧ t = s.faulted e slot i x.1 x.2)) := by
  cases hc : s.fab.cur with
  | none => exact .inl (by simpa [fireWord, hc] using h.symm)
  | ctl a b c d => exact .inl (by simpa [fireWord, hc] using h.symm)
  | elem l th slot =>
    cases hf : findElem s.fab l th with
    | none => exact .inl (by simpa [fireWord, hc, hf] using h.symm)
    | some e =>
      by_cases hr : ready s.fab e i = true
      · refine .inr ⟨l, th, slot, e, ⟨hc, hf, hr⟩, ?_⟩
        cases he : eff s.mem (e.acquire s.fab slot i) slot s.fab with
        | ok f =>
          rw [fireWord_ok ⟨hc, hf, hr⟩ he] at h
          exact .inl ⟨f, rfl, by simpa using h.symm⟩
        | error x =>
          rw [fireWord_error ⟨hc, hf, hr⟩ he] at h
          exact .inr ⟨x, rfl, by simpa using h.symm⟩
      · rw [fireWord_waits hc hf (by simpa using hr)] at h
        exact .inl (by simpa using h.symm)

theorem State.fired_good {s : State} (e : Elem) (slot : Nat) (i : Instr) (f : Fabric) (h : s.good) : (s.fired e slot i f).good :=
  State.commit_good _ h.1

theorem State.faulted_good {s : State} (e : Elem) (slot : Nat) (i : Instr) (c d : Nat) (h : s.good) :
    (s.faulted e slot i c d).good := State.commit_good _ h.1

theorem fireWord_good {s t : State} {i : Instr} {eff : Memory → Elem → Nat → Fabric → Effect} (h : s.good)
    (hs : fireWord i eff s = .next t) : t.good := by
  obtain rfl | ⟨l, th, slot, e, -, ⟨f, -, rfl⟩ | ⟨x, -, rfl⟩⟩ := fireWord_next hs
  · exact h
  · exact State.fired_good e slot i f h
  · exact State.faulted_good e slot i x.1 x.2 h

/-! ## A command and an event -/

theorem runEvent_due {s : State} {due : Memory → Fabric → Bool} {eff : Memory → Fabric → Fabric}
    (h : due s.mem s.fab = true) : runEvent due eff s = .next (State.commit s.mem (eff s.mem (newAccess s.fab))) := by
  simp [runEvent, h]

theorem runEvent_next {s t : State} {due : Memory → Fabric → Bool} {eff : Memory → Fabric → Fabric}
    (h : runEvent due eff s = .next t) : due s.mem s.fab = true ∧ t = State.commit s.mem (eff s.mem (newAccess s.fab)) := by
  by_cases hd : due s.mem s.fab = true
  · rw [runEvent_due hd] at h
    exact ⟨hd, by simpa using h.symm⟩
  · simp [runEvent, hd] at h

theorem runEvent_good {s t : State} {due : Memory → Fabric → Bool} {eff : Memory → Fabric → Fabric} (h : s.good)
    (hs : runEvent due eff s = .next t) : t.good := by
  obtain ⟨-, rfl⟩ := runEvent_next hs
  exact State.commit_good _ h.1

/-- Everything a command can answer: it waits, or what it has done is committed. -/
theorem issueCmd_next {s t : State} {cd : Cond} {may : Memory → Fabric → Ctl → Bool}
    {eff : Memory → Nat → Nat → Ctl → Fabric → Fabric × Bool × Nat} (h : issueCmd cd may eff s = .next t) :
    t = s ∨ ∃ f, t = State.commit s.mem f := by
  cases hc : s.fab.cur with
  | none => exact .inl (by simpa [issueCmd, hc] using h.symm)
  | elem a b c => exact .inl (by simpa [issueCmd, hc] using h.symm)
  | ctl l tile ct pos =>
    cases hf : findCtl s.fab l tile ct with
    | none => exact .inl (by simpa [issueCmd, hc, hf] using h.symm)
    | some c =>
      by_cases hm : (mayIssue s.fab c pos cd && may s.mem s.fab c) = true
      · simp only [issueCmd, hc, hf, hm, if_true] at h
        exact .inr ⟨_, by simpa using h.symm⟩
      · simp only [issueCmd, hc, hf, hm] at h
        exact .inl (by simpa using h.symm)

theorem issueCmd_good {s t : State} {cd : Cond} {may : Memory → Fabric → Ctl → Bool}
    {eff : Memory → Nat → Nat → Ctl → Fabric → Fabric × Bool × Nat} (h : s.good) (hs : issueCmd cd may eff s = .next t) :
    t.good := by
  obtain rfl | ⟨f, rfl⟩ := issueCmd_next hs
  · exact h
  · exact State.commit_good f h.1

/-! ## Tables -/

theorem find?_upd {α : Type} (p : α → Bool) (g : α → α) (hg : ∀ x, p x = true → p (g x) = true) :
    ∀ l : List α, (upd p g l).find? p = (l.find? p).map g
  | [] => rfl
  | x :: r => by
    have ih := find?_upd p g hg r
    by_cases hx : p x = true
    · simp [upd, List.find?, hx, hg x hx]
    · simp only [upd, List.map, List.find?, hx] at ih ⊢
      simpa [hx, upd] using ih

theorem find?_upd_ne {α : Type} (p q : α → Bool) (g : α → α) (hg : ∀ x, p x = true → q x = false ∧ q (g x) = false) :
    ∀ l : List α, (upd p g l).find? q = l.find? q
  | [] => rfl
  | x :: r => by
    have ih := find?_upd_ne p q g hg r
    by_cases hx : p x = true
    · obtain ⟨h1, h2⟩ := hg x hx
      simp only [upd, List.map, List.find?, hx, if_true, h1, h2] at ih ⊢
      exact ih
    · have hx' : p x = false := by simpa using hx
      simp only [upd] at ih
      cases hq : q x <;> simp only [upd, List.map_cons, List.find?_cons, hx', Bool.false_eq_true, if_false, hq]
      exact ih

theorem findChan_upd {f : Fabric} {l n : Nat} {g : Chan → Chan} (hg : ∀ x, (g x).line = x.line ∧ (g x).num = x.num) :
    findChan (updChan l n g f) l n = (findChan f l n).map g := by
  simp only [findChan, updChan]
  exact find?_upd _ g (fun x hx => by simpa [(hg x).1, (hg x).2] using hx) f.chans

theorem findChan_upd_ne {f : Fabric} {l n l' n' : Nat} {g : Chan → Chan}
    (hg : ∀ x, (g x).line = x.line ∧ (g x).num = x.num) (h : ¬(l' = l ∧ n' = n)) :
    findChan (updChan l n g f) l' n' = findChan f l' n' := by
  simp only [findChan, updChan]
  refine find?_upd_ne _ _ g (fun x hx => ?_) f.chans
  simp only [Bool.and_eq_true, beq_iff_eq] at hx
  have : ¬(l = l' ∧ n = n') := fun ⟨a, b⟩ => h ⟨a.symm, b.symm⟩
  simp only [hg, hx, Bool.and_eq_false_iff, beq_eq_false_iff_ne]
  constructor <;> (by_cases a : l = l' <;> simp_all)

theorem findStation_upd {f : Fabric} {l n : Nat} {g : Station → Station} (hg : ∀ x, (g x).line = x.line ∧ (g x).num = x.num) :
    findStation (updStation l n g f) l n = (findStation f l n).map g := by
  simp only [findStation, updStation]
  exact find?_upd _ g (fun x hx => by simpa [(hg x).1, (hg x).2] using hx) f.stations

theorem findStation_upd_ne {f : Fabric} {l n l' n' : Nat} {g : Station → Station}
    (hg : ∀ x, (g x).line = x.line ∧ (g x).num = x.num) (h : ¬(l' = l ∧ n' = n)) :
    findStation (updStation l n g f) l' n' = findStation f l' n' := by
  simp only [findStation, updStation]
  refine find?_upd_ne _ _ g (fun x hx => ?_) f.stations
  simp only [Bool.and_eq_true, beq_iff_eq] at hx
  have : ¬(l = l' ∧ n = n') := fun ⟨a, b⟩ => h ⟨a.symm, b.symm⟩
  simp only [hg, hx, Bool.and_eq_false_iff, beq_eq_false_iff_ne]
  constructor <;> (by_cases a : l = l' <;> simp_all)

theorem putOutbox_key (t : Token) (x : Station) : (putOutbox t x).line = x.line ∧ (putOutbox t x).num = x.num := by
  simp only [putOutbox]
  split
  · split <;> exact ⟨rfl, rfl⟩
  · split
    · split <;> exact ⟨rfl, rfl⟩
    · exact ⟨rfl, rfl⟩

theorem drainStaged_key (rel : List Nat) (f : Fabric) (k : Nat) (y : Chan) :
    (drainStaged rel f k y).line = y.line ∧ (drainStaged rel f k y).num = y.num := by
  induction k generalizing y with
  | zero => exact ⟨rfl, rfl⟩
  | succ k ih =>
    simp only [drainStaged]
    split
    · split
      · refine ⟨(ih _).1.trans ?_, (ih _).2.trans ?_⟩ <;> (simp only [commitTok]; split <;> rfl)
      · exact ⟨rfl, rfl⟩
    · exact ⟨rfl, rfl⟩

/-- The element found is the one named. -/
theorem findElem_key {f : Fabric} {l th : Nat} {e : Elem} (h : findElem f l th = some e) : e.line = l ∧ e.thread = th := by
  have := List.find?_some h
  simpa using this

theorem findElem_upd {f : Fabric} {l th : Nat} {g : Elem → Elem} (hg : ∀ x, (g x).line = x.line ∧ (g x).thread = x.thread) :
    findElem (updElem l th g f) l th = (findElem f l th).map g := by
  simp only [findElem, updElem]
  exact find?_upd _ g (fun x hx => by simpa [(hg x).1, (hg x).2] using hx) f.elems

theorem findElem_upd_ne {f : Fabric} {l th l' th' : Nat} {g : Elem → Elem}
    (hg : ∀ x, (g x).line = x.line ∧ (g x).thread = x.thread) (h : ¬(l' = l ∧ th' = th)) :
    findElem (updElem l th g f) l' th' = findElem f l' th' := by
  simp only [findElem, updElem]
  refine find?_upd_ne _ _ g (fun x hx => ?_) f.elems
  simp only [Bool.and_eq_true, beq_iff_eq] at hx
  have : ¬(l = l' ∧ th = th') := fun ⟨a, b⟩ => h ⟨a.symm, b.symm⟩
  simp only [hg, hx, Bool.and_eq_false_iff, beq_eq_false_iff_ne]
  constructor <;> (by_cases a : l = l' <;> simp_all)

/-! ## A result -/

/-- What a word that writes a result changes: its element, and a channel or a station where the destination is a handle. -/
theorem writeResult_units (e : Elem) (slot : Nat) (d : Dst) (r : Reg) (f : Fabric) :
    Fabric.sameUnits f (writeResult e slot d r f) ∧ (writeResult e slot d r f).posted = f.posted
      ∧ (writeResult e slot d r f).lines = f.lines ∧ (writeResult e slot d r f).tiles = f.tiles := by
  cases d with
  | lat => exact ⟨by constructor <;> rfl, rfl, rfl, rfl⟩
  | o n => exact ⟨by constructor <;> rfl, rfl, rfl, rfl⟩
  | c h =>
    simp only [writeResult, stageTok]
    cases vget e.h h <;> exact ⟨by constructor <;> rfl, rfl, rfl, rfl⟩

theorem writeResult_elems (e : Elem) (slot : Nat) (d : Dst) (r : Reg) (f : Fabric) :
    (writeResult e slot d r f).elems = (updElem e.line e.thread (fun x => x.setResult d r) f).elems := by
  cases d with
  | lat => rfl
  | o n => rfl
  | c h =>
    simp only [writeResult, stageTok]
    cases vget e.h h <;> rfl

end Sys2Proof.Machine
end

