-- ==== Sys2Proof/Laws/Lanes.lean ====
section
/-!
SUPPORT. Elements of packed lanes, lanes built by a function, and the signed and wrapped readings of a pattern (R90, R91).
-/
namespace Sys2Proof.Machine

@[simp] theorem Lanes.get_ofFn (g : Nat → Word) (i : Nat) : (Lanes.ofFn g).get i = g (i % 8) := by
  have h : i % 8 < 8 := Nat.mod_lt _ (by omega)
  simp only [Lanes.get, Lanes.ofFn]
  generalize i % 8 = k at h
  interval_cases k <;> rfl

@[simp] theorem Lanes.get_rep (w : Word) (i : Nat) : (Lanes.rep w).get i = w := Lanes.get_ofFn (fun _ => w) i

/-- The widths a lane format has. -/
theorem intWidth_cases (m : Nat) : intWidth m = 8 ∨ intWidth m = 16 ∨ intWidth m = 32 := by
  simp only [intWidth]
  split
  · simp
  · split <;> simp

theorem floatFmt_cases (m : Nat) :
    floatFmt m = fp32 ∨ floatFmt m = bf16 ∨ floatFmt m = fp16 ∨ floatFmt m = fe4m3 ∨ floatFmt m = fe5m2 := by
  simp only [floatFmt]
  repeat' split
  all_goals simp

theorem floatWidth_cases (m : Nat) : (floatFmt m).width = 8 ∨ (floatFmt m).width = 16 ∨ (floatFmt m).width = 32 := by
  rcases floatFmt_cases m with h | h | h | h | h <;> rw [h] <;> decide

theorem elemU_lt (x : Word) (n w : Nat) : elemU x n w < 2 ^ w := Nat.mod_lt _ (Nat.two_pow_pos w)

/-- The element of a packed lane is the one packed, modulo its width. -/
theorem elemU_packElems {w n : Nat} (g : Nat → Nat) (hw : w = 8 ∨ w = 16 ∨ w = 32) (hn : n < 32 / w) :
    elemU (packElems w g) n w = g n % 2 ^ w := by
  rcases hw with rfl | rfl | rfl
  · have : n = 0 ∨ n = 1 ∨ n = 2 ∨ n = 3 := by omega
    rcases this with rfl | rfl | rfl | rfl <;> simp [elemU, packElems] <;> omega
  · have : n = 0 ∨ n = 1 := by omega
    rcases this with rfl | rfl <;> simp [elemU, packElems] <;> omega
  · have : n = 0 := by omega
    subst this
    simp [elemU, packElems]

theorem wrapU_lt (w : Nat) (v : Int) : wrapU w v < 2 ^ w := by
  have h : (0 : Int) < 2 ^ w := by positivity
  have h1 := Int.emod_lt_of_pos v h
  have h0 := Int.emod_nonneg v (ne_of_gt h)
  have : ((wrapU w v : Nat) : Int) < ((2 ^ w : Nat) : Int) := by
    simp only [wrapU, Int.toNat_of_nonneg h0]
    push_cast
    exact h1
  exact_mod_cast this

@[simp] theorem wrapU_mod (w : Nat) (v : Int) : wrapU w v % 2 ^ w = wrapU w v := Nat.mod_eq_of_lt (wrapU_lt w v)

theorem wrapU_cast (w : Nat) (v : Int) : ((wrapU w v : Nat) : Int) = v % 2 ^ w := by
  have h : (0 : Int) < 2 ^ w := by positivity
  simp only [wrapU, Int.toNat_of_nonneg (Int.emod_nonneg v (ne_of_gt h))]

/-- A signed reading lies in the signed range and keeps the pattern. -/
theorem toS_range {w v : Nat} (hw : 0 < w) (hv : v < 2 ^ w) :
    -(2 ^ (w - 1) : Int) ≤ toS w v ∧ toS w v < 2 ^ (w - 1) ∧ toS w v % 2 ^ w = v := by
  have h2 : (2 : Nat) ^ w = 2 * 2 ^ (w - 1) := by
    rw [← Nat.pow_succ']; congr 1; omega
  have hz : (2 : Int) ^ w = 2 * 2 ^ (w - 1) := by exact_mod_cast h2
  have hvz : (v : Int) < 2 ^ w := by exact_mod_cast hv
  have hp : (0 : Int) < 2 ^ (w - 1) := by positivity
  simp only [toS]
  split
  · rename_i h
    have h' : (v : Int) < 2 ^ (w - 1) := by exact_mod_cast h
    exact ⟨by omega, h', Int.emod_eq_of_lt (by omega) hvz⟩
  · rename_i h
    have h' : (2 : Int) ^ (w - 1) ≤ v := by exact_mod_cast Nat.le_of_not_lt h
    refine ⟨by omega, by omega, ?_⟩
    rw [Int.sub_emod_right]
    exact Int.emod_eq_of_lt (by omega) hvz

/-- The governed result, read signed, is the governed value (R91). -/
theorem satW_governed {w : Nat} (hw : 0 < w) (sat : Bool) (v : Int) : Governed sat w v (toS w (satW sat w v)) := by
  have h2 : (2 : Int) ^ w = 2 * 2 ^ (w - 1) := by
    rw [← pow_succ']; congr 1; omega
  have hp : (0 : Int) < 2 ^ (w - 1) := by positivity
  have hr := toS_range hw (wrapU_lt w (if sat then clampS w v else v))
  simp only [Governed, satW]
  cases sat with
  | true =>
    simp only [if_true] at hr ⊢
    set c := clampS w v with hc
    have hb : -(2 ^ (w - 1) : Int) ≤ c ∧ c < 2 ^ (w - 1) := by
      rw [hc, clampS]
      constructor
      · exact le_max_left _ _
      · exact max_lt (by omega) (lt_of_le_of_lt (min_le_right _ _) (by omega))
    have he := hr.2.2
    rw [wrapU_cast] at he
    have : toS w (wrapU w c) = c := by
      have h1 := Int.emod_emod_of_dvd (toS w (wrapU w c)) (dvd_refl ((2 : Int) ^ w))
      have : (toS w (wrapU w c) - c) % 2 ^ w = 0 := Int.emod_eq_emod_iff_emod_sub_eq_zero.mp he
      obtain ⟨k, hk⟩ := Int.dvd_of_emod_eq_zero this
      have : k = 0 := by
        by_contra hne
        rcases lt_or_gt_of_ne hne with h | h
        · nlinarith
        · nlinarith
      subst this; linarith
    rw [this, hc, clampS]
  | false =>
    simp only [Bool.false_eq_true, if_false] at hr ⊢
    exact ⟨hr.1, hr.2.1, by rw [hr.2.2, wrapU_cast]⟩

end Sys2Proof.Machine
end

