-- ==== Sys2Proof/Laws/PerInstr.lean ====
section
/-!
SUPPORT. Per-instruction families. `WordCount`: a well-formed instruction that has a word has one below 2^32 (R65, R75): its
fields do not run over.
-/
namespace Sys2Proof.Laws

theorem encSrc_lt {a : Src} (h : a.wf = true) : encSrc a < 64 := by
  cases a <;> simp [Src.wf] at h <;> simp [encSrc] <;> omega

theorem encDst_lt {d : Dst} (h : d.wf = true) : encDst d < 64 := by
  cases d <;> simp [Dst.wf] at h <;> simp [encDst] <;> omega

theorem encDst_isReg_lt {d : Dst} (h : d.isReg = true) : encDst d < 64 := by
  cases d <;> simp [Dst.isReg] at h <;> simp [encDst] <;> omega

theorem encCond_lt {c : Cond} (h : c.wf = true) : encCond c < 64 := by
  cases c <;> simp [Cond.wf] at h <;> simp [encCond] <;> omega

theorem b2n_le (q : Bool) : b2n q ≤ 1 := by cases q <;> decide

/-- Fields below their limits make a word below 2^32. -/
theorem word_lt {t op f : Nat} (ht : t < 64) (ho : op < 256) (hf : f < 262144) : word t op f < 2 ^ (32 * 1) := by
  unfold word; omega

namespace WordCount

set_option linter.unusedSimpArgs false
set_option linter.unusedVariables false
set_option Elab.async false

/-- The family: the word of a well-formed instruction fits the words it takes. -/
def Statement (i : Instr) : Prop := i.wf = true → ∀ w, encode i = some w → w < 2 ^ (32 * wordsOf i)

theorem nop (t : Nat) : Statement (.nop t) := by
  intro h w e
  simp only [Instr.wf, isIn, isOut, Bool.and_eq_true, decide_eq_true_eq, bne_iff_ne, ne_eq] at h
  cases e
  apply word_lt <;> omega
theorem trap (t : Nat) (c : Nat) : Statement (.trap t c) := by
  intro h w e
  simp only [Instr.wf, isIn, isOut, Bool.and_eq_true, decide_eq_true_eq, bne_iff_ne, ne_eq] at h
  cases e
  apply word_lt <;> omega
theorem brk (t : Nat) (c : Nat) : Statement (.brk t c) := by
  intro h w e
  simp only [Instr.wf, isIn, isOut, Bool.and_eq_true, decide_eq_true_eq, bne_iff_ne, ne_eq] at h
  cases e
  apply word_lt <;> omega
theorem ctrrd (t : Nat) (d : Dst) (a : Src) : Statement (.ctrrd t d a) := by
  intro h w e
  simp only [Instr.wf, isIn, isOut, Bool.and_eq_true, decide_eq_true_eq, bne_iff_ne, ne_eq] at h
  cases e
  have := encDst_lt (d := d) (by simp [h])
  have := encSrc_lt (a := a) (by simp [h])
  apply word_lt <;> omega
theorem ebrd (t : Nat) (d : Dst) : Statement (.ebrd t d) := by
  intro h w e
  simp only [Instr.wf, isIn, isOut, Bool.and_eq_true, decide_eq_true_eq, bne_iff_ne, ne_eq] at h
  cases e
  have := encDst_lt (d := d) (by simp [h])
  apply word_lt <;> omega
theorem add (t : Nat) (d : Dst) (a : Src) (b : Src) : Statement (.add t d a b) := by
  intro h w e
  simp only [Instr.wf, isIn, isOut, Bool.and_eq_true, decide_eq_true_eq, bne_iff_ne, ne_eq] at h
  cases e
  have := encDst_lt (d := d) (by simp [h])
  have := encSrc_lt (a := a) (by simp [h])
  have := encSrc_lt (a := b) (by simp [h])
  apply word_lt <;> omega
theorem addi (t : Nat) (d : Dst) (i : Nat) : Statement (.addi t d i) := by
  intro h w e
  simp only [Instr.wf, isIn, isOut, Bool.and_eq_true, decide_eq_true_eq, bne_iff_ne, ne_eq] at h
  cases e
  have := encDst_isReg_lt (d := d) (by simp [h])
  apply word_lt <;> omega
theorem sub (t : Nat) (d : Dst) (a : Src) (b : Src) : Statement (.sub t d a b) := by
  intro h w e
  simp only [Instr.wf, isIn, isOut, Bool.and_eq_true, decide_eq_true_eq, bne_iff_ne, ne_eq] at h
  cases e
  have := encDst_lt (d := d) (by simp [h])
  have := encSrc_lt (a := a) (by simp [h])
  have := encSrc_lt (a := b) (by simp [h])
  apply word_lt <;> omega
theorem mul (t : Nat) (d : Dst) (a : Src) (b : Src) : Statement (.mul t d a b) := by
  intro h w e
  simp only [Instr.wf, isIn, isOut, Bool.and_eq_true, decide_eq_true_eq, bne_iff_ne, ne_eq] at h
  cases e
  have := encDst_lt (d := d) (by simp [h])
  have := encSrc_lt (a := a) (by simp [h])
  have := encSrc_lt (a := b) (by simp [h])
  apply word_lt <;> omega
theorem mulh (t : Nat) (d : Dst) (a : Src) (b : Src) : Statement (.mulh t d a b) := by
  intro h w e
  simp only [Instr.wf, isIn, isOut, Bool.and_eq_true, decide_eq_true_eq, bne_iff_ne, ne_eq] at h
  cases e
  have := encDst_lt (d := d) (by simp [h])
  have := encSrc_lt (a := a) (by simp [h])
  have := encSrc_lt (a := b) (by simp [h])
  apply word_lt <;> omega
theorem mulhu (t : Nat) (d : Dst) (a : Src) (b : Src) : Statement (.mulhu t d a b) := by
  intro h w e
  simp only [Instr.wf, isIn, isOut, Bool.and_eq_true, decide_eq_true_eq, bne_iff_ne, ne_eq] at h
  cases e
  have := encDst_lt (d := d) (by simp [h])
  have := encSrc_lt (a := a) (by simp [h])
  have := encSrc_lt (a := b) (by simp [h])
  apply word_lt <;> omega
theorem mad (t : Nat) (d : Dst) (a : Src) (b : Src) : Statement (.mad t d a b) := by
  intro h w e
  simp only [Instr.wf, isIn, isOut, Bool.and_eq_true, decide_eq_true_eq, bne_iff_ne, ne_eq] at h
  cases e
  have := encDst_isReg_lt (d := d) (by simp [h])
  have := encSrc_lt (a := a) (by simp [h])
  have := encSrc_lt (a := b) (by simp [h])
  apply word_lt <;> omega
theorem abs (t : Nat) (d : Dst) (a : Src) : Statement (.abs t d a) := by
  intro h w e
  simp only [Instr.wf, isIn, isOut, Bool.and_eq_true, decide_eq_true_eq, bne_iff_ne, ne_eq] at h
  cases e
  have := encDst_lt (d := d) (by simp [h])
  have := encSrc_lt (a := a) (by simp [h])
  apply word_lt <;> omega
theorem and (t : Nat) (d : Dst) (a : Src) (b : Src) : Statement (.and t d a b) := by
  intro h w e
  simp only [Instr.wf, isIn, isOut, Bool.and_eq_true, decide_eq_true_eq, bne_iff_ne, ne_eq] at h
  cases e
  have := encDst_lt (d := d) (by simp [h])
  have := encSrc_lt (a := a) (by simp [h])
  have := encSrc_lt (a := b) (by simp [h])
  apply word_lt <;> omega
theorem or (t : Nat) (d : Dst) (a : Src) (b : Src) : Statement (.or t d a b) := by
  intro h w e
  simp only [Instr.wf, isIn, isOut, Bool.and_eq_true, decide_eq_true_eq, bne_iff_ne, ne_eq] at h
  cases e
  have := encDst_lt (d := d) (by simp [h])
  have := encSrc_lt (a := a) (by simp [h])
  have := encSrc_lt (a := b) (by simp [h])
  apply word_lt <;> omega
theorem xor (t : Nat) (d : Dst) (a : Src) (b : Src) : Statement (.xor t d a b) := by
  intro h w e
  simp only [Instr.wf, isIn, isOut, Bool.and_eq_true, decide_eq_true_eq, bne_iff_ne, ne_eq] at h
  cases e
  have := encDst_lt (d := d) (by simp [h])
  have := encSrc_lt (a := a) (by simp [h])
  have := encSrc_lt (a := b) (by simp [h])
  apply word_lt <;> omega
theorem andn (t : Nat) (d : Dst) (a : Src) (b : Src) : Statement (.andn t d a b) := by
  intro h w e
  simp only [Instr.wf, isIn, isOut, Bool.and_eq_true, decide_eq_true_eq, bne_iff_ne, ne_eq] at h
  cases e
  have := encDst_lt (d := d) (by simp [h])
  have := encSrc_lt (a := a) (by simp [h])
  have := encSrc_lt (a := b) (by simp [h])
  apply word_lt <;> omega
theorem shl (t : Nat) (d : Dst) (a : Src) (b : Src) : Statement (.shl t d a b) := by
  intro h w e
  simp only [Instr.wf, isIn, isOut, Bool.and_eq_true, decide_eq_true_eq, bne_iff_ne, ne_eq] at h
  cases e
  have := encDst_lt (d := d) (by simp [h])
  have := encSrc_lt (a := a) (by simp [h])
  have := encSrc_lt (a := b) (by simp [h])
  apply word_lt <;> omega
theorem shr (t : Nat) (d : Dst) (a : Src) (b : Src) : Statement (.shr t d a b) := by
  intro h w e
  simp only [Instr.wf, isIn, isOut, Bool.and_eq_true, decide_eq_true_eq, bne_iff_ne, ne_eq] at h
  cases e
  have := encDst_lt (d := d) (by simp [h])
  have := encSrc_lt (a := a) (by simp [h])
  have := encSrc_lt (a := b) (by simp [h])
  apply word_lt <;> omega
theorem sra (t : Nat) (d : Dst) (a : Src) (b : Src) : Statement (.sra t d a b) := by
  intro h w e
  simp only [Instr.wf, isIn, isOut, Bool.and_eq_true, decide_eq_true_eq, bne_iff_ne, ne_eq] at h
  cases e
  have := encDst_lt (d := d) (by simp [h])
  have := encSrc_lt (a := a) (by simp [h])
  have := encSrc_lt (a := b) (by simp [h])
  apply word_lt <;> omega
theorem rot (t : Nat) (d : Dst) (a : Src) (b : Src) : Statement (.rot t d a b) := by
  intro h w e
  simp only [Instr.wf, isIn, isOut, Bool.and_eq_true, decide_eq_true_eq, bne_iff_ne, ne_eq] at h
  cases e
  have := encDst_lt (d := d) (by simp [h])
  have := encSrc_lt (a := a) (by simp [h])
  have := encSrc_lt (a := b) (by simp [h])
  apply word_lt <;> omega
theorem min (t : Nat) (d : Dst) (a : Src) (b : Src) : Statement (.min t d a b) := by
  intro h w e
  simp only [Instr.wf, isIn, isOut, Bool.and_eq_true, decide_eq_true_eq, bne_iff_ne, ne_eq] at h
  cases e
  have := encDst_lt (d := d) (by simp [h])
  have := encSrc_lt (a := a) (by simp [h])
  have := encSrc_lt (a := b) (by simp [h])
  apply word_lt <;> omega
theorem max (t : Nat) (d : Dst) (a : Src) (b : Src) : Statement (.max t d a b) := by
  intro h w e
  simp only [Instr.wf, isIn, isOut, Bool.and_eq_true, decide_eq_true_eq, bne_iff_ne, ne_eq] at h
  cases e
  have := encDst_lt (d := d) (by simp [h])
  have := encSrc_lt (a := a) (by simp [h])
  have := encSrc_lt (a := b) (by simp [h])
  apply word_lt <;> omega
theorem minu (t : Nat) (d : Dst) (a : Src) (b : Src) : Statement (.minu t d a b) := by
  intro h w e
  simp only [Instr.wf, isIn, isOut, Bool.and_eq_true, decide_eq_true_eq, bne_iff_ne, ne_eq] at h
  cases e
  have := encDst_lt (d := d) (by simp [h])
  have := encSrc_lt (a := a) (by simp [h])
  have := encSrc_lt (a := b) (by simp [h])
  apply word_lt <;> omega
theorem maxu (t : Nat) (d : Dst) (a : Src) (b : Src) : Statement (.maxu t d a b) := by
  intro h w e
  simp only [Instr.wf, isIn, isOut, Bool.and_eq_true, decide_eq_true_eq, bne_iff_ne, ne_eq] at h
  cases e
  have := encDst_lt (d := d) (by simp [h])
  have := encSrc_lt (a := a) (by simp [h])
  have := encSrc_lt (a := b) (by simp [h])
  apply word_lt <;> omega
theorem clz (t : Nat) (d : Dst) (a : Src) : Statement (.clz t d a) := by
  intro h w e
  simp only [Instr.wf, isIn, isOut, Bool.and_eq_true, decide_eq_true_eq, bne_iff_ne, ne_eq] at h
  cases e
  have := encDst_lt (d := d) (by simp [h])
  have := encSrc_lt (a := a) (by simp [h])
  apply word_lt <;> omega
theorem popc (t : Nat) (d : Dst) (a : Src) : Statement (.popc t d a) := by
  intro h w e
  simp only [Instr.wf, isIn, isOut, Bool.and_eq_true, decide_eq_true_eq, bne_iff_ne, ne_eq] at h
  cases e
  have := encDst_lt (d := d) (by simp [h])
  have := encSrc_lt (a := a) (by simp [h])
  apply word_lt <;> omega
theorem bfx (t : Nat) (d : Dst) (a : Src) (b : Src) : Statement (.bfx t d a b) := by
  intro h w e
  simp only [Instr.wf, isIn, isOut, Bool.and_eq_true, decide_eq_true_eq, bne_iff_ne, ne_eq] at h
  cases e
  have := encDst_lt (d := d) (by simp [h])
  have := encSrc_lt (a := a) (by simp [h])
  have := encSrc_lt (a := b) (by simp [h])
  apply word_lt <;> omega
theorem bfi (t : Nat) (d : Dst) (a : Src) (b : Src) : Statement (.bfi t d a b) := by
  intro h w e
  simp only [Instr.wf, isIn, isOut, Bool.and_eq_true, decide_eq_true_eq, bne_iff_ne, ne_eq] at h
  cases e
  have := encDst_isReg_lt (d := d) (by simp [h])
  have := encSrc_lt (a := a) (by simp [h])
  have := encSrc_lt (a := b) (by simp [h])
  apply word_lt <;> omega
theorem cmp (t : Nat) (v : Nat) (d : Dst) (a : Src) (b : Src) : Statement (.cmp t v d a b) := by
  intro h w e
  simp only [Instr.wf, isIn, isOut, Bool.and_eq_true, decide_eq_true_eq, bne_iff_ne, ne_eq] at h
  cases e
  have := encDst_lt (d := d) (by simp [h])
  have := encSrc_lt (a := a) (by simp [h])
  have := encSrc_lt (a := b) (by simp [h])
  apply word_lt <;> omega
theorem bsel (t : Nat) (d : Dst) (a : Src) (b : Src) : Statement (.bsel t d a b) := by
  intro h w e
  simp only [Instr.wf, isIn, isOut, Bool.and_eq_true, decide_eq_true_eq, bne_iff_ne, ne_eq] at h
  cases e
  have := encDst_lt (d := d) (by simp [h])
  have := encSrc_lt (a := a) (by simp [h])
  have := encSrc_lt (a := b) (by simp [h])
  apply word_lt <;> omega
theorem getm (t : Nat) (d : Dst) (m : Nat) : Statement (.getm t d m) := by
  intro h w e
  simp only [Instr.wf, isIn, isOut, Bool.and_eq_true, decide_eq_true_eq, bne_iff_ne, ne_eq] at h
  cases e
  have := encDst_isReg_lt (d := d) (by simp [h])
  apply word_lt <;> omega
theorem putm (t : Nat) (a : Src) (m : Nat) : Statement (.putm t a m) := by
  intro h w e
  simp only [Instr.wf, isIn, isOut, Bool.and_eq_true, decide_eq_true_eq, bne_iff_ne, ne_eq] at h
  cases e
  have := encSrc_lt (a := a) (by simp [h])
  apply word_lt <;> omega
theorem mov (t : Nat) (d : Dst) (a : Src) : Statement (.mov t d a) := by
  intro h w e
  simp only [Instr.wf, isIn, isOut, Bool.and_eq_true, decide_eq_true_eq, bne_iff_ne, ne_eq] at h
  cases e
  have := encDst_lt (d := d) (by simp [h])
  have := encSrc_lt (a := a) (by simp [h])
  apply word_lt <;> omega
theorem pset (t : Nat) (p : Nat) (v : Bool) : Statement (.pset t p v) := by
  intro h w e
  simp only [Instr.wf, isIn, isOut, Bool.and_eq_true, decide_eq_true_eq, bne_iff_ne, ne_eq] at h
  cases e
  have : (if v then 480 else 0) ≤ 480 := by split <;> decide
  apply word_lt <;> omega
theorem plog (t : Nat) (p : Nat) (pa : Nat) (pb : Nat) (tt : Nat) : Statement (.plog t p pa pb tt) := by
  intro h w e
  simp only [Instr.wf, isIn, isOut, Bool.and_eq_true, decide_eq_true_eq, bne_iff_ne, ne_eq] at h
  cases e
  apply word_lt <;> omega
theorem pany (t : Nat) (p : Nat) : Statement (.pany t p) := by
  intro h w e
  simp only [Instr.wf, isIn, isOut, Bool.and_eq_true, decide_eq_true_eq, bne_iff_ne, ne_eq] at h
  cases e
  apply word_lt <;> omega
theorem pall (t : Nat) (p : Nat) : Statement (.pall t p) := by
  intro h w e
  simp only [Instr.wf, isIn, isOut, Bool.and_eq_true, decide_eq_true_eq, bne_iff_ne, ne_eq] at h
  cases e
  apply word_lt <;> omega
theorem li (t : Nat) (d : Dst) (i : Nat) : Statement (.li t d i) := by
  intro h w e
  simp only [Instr.wf, isIn, isOut, Bool.and_eq_true, decide_eq_true_eq, bne_iff_ne, ne_eq] at h
  cases e
  have := encDst_isReg_lt (d := d) (by simp [h])
  apply word_lt <;> omega
theorem lih (t : Nat) (d : Dst) (i : Nat) : Statement (.lih t d i) := by
  intro h w e
  simp only [Instr.wf, isIn, isOut, Bool.and_eq_true, decide_eq_true_eq, bne_iff_ne, ne_eq] at h
  cases e
  have := encDst_isReg_lt (d := d) (by simp [h])
  apply word_lt <;> omega
theorem lbc (t : Nat) (d : Dst) (a : Src) (b : Src) : Statement (.lbc t d a b) := by
  intro h w e
  simp only [Instr.wf, isIn, isOut, Bool.and_eq_true, decide_eq_true_eq, bne_iff_ne, ne_eq] at h
  cases e
  have := encDst_lt (d := d) (by simp [h])
  have := encSrc_lt (a := a) (by simp [h])
  have := encSrc_lt (a := b) (by simp [h])
  apply word_lt <;> omega
theorem lshf (t : Nat) (d : Dst) (a : Src) (b : Src) : Statement (.lshf t d a b) := by
  intro h w e
  simp only [Instr.wf, isIn, isOut, Bool.and_eq_true, decide_eq_true_eq, bne_iff_ne, ne_eq] at h
  cases e
  have := encDst_lt (d := d) (by simp [h])
  have := encSrc_lt (a := a) (by simp [h])
  have := encSrc_lt (a := b) (by simp [h])
  apply word_lt <;> omega
theorem lred (t : Nat) (v : Nat) (d : Dst) (a : Src) : Statement (.lred t v d a) := by
  intro h w e
  simp only [Instr.wf, isIn, isOut, Bool.and_eq_true, decide_eq_true_eq, bne_iff_ne, ne_eq] at h
  cases e
  have := encDst_lt (d := d) (by simp [h])
  have := encSrc_lt (a := a) (by simp [h])
  apply word_lt <;> omega
theorem lscan (t : Nat) (v : Nat) (d : Dst) (a : Src) : Statement (.lscan t v d a) := by
  intro h w e
  simp only [Instr.wf, isIn, isOut, Bool.and_eq_true, decide_eq_true_eq, bne_iff_ne, ne_eq] at h
  cases e
  have := encDst_lt (d := d) (by simp [h])
  have := encSrc_lt (a := a) (by simp [h])
  apply word_lt <;> omega
theorem fadd (t : Nat) (d : Dst) (a : Src) (b : Src) : Statement (.fadd t d a b) := by
  intro h w e
  simp only [Instr.wf, isIn, isOut, Bool.and_eq_true, decide_eq_true_eq, bne_iff_ne, ne_eq] at h
  cases e
  have := encDst_lt (d := d) (by simp [h])
  have := encSrc_lt (a := a) (by simp [h])
  have := encSrc_lt (a := b) (by simp [h])
  apply word_lt <;> omega
theorem fsub (t : Nat) (d : Dst) (a : Src) (b : Src) : Statement (.fsub t d a b) := by
  intro h w e
  simp only [Instr.wf, isIn, isOut, Bool.and_eq_true, decide_eq_true_eq, bne_iff_ne, ne_eq] at h
  cases e
  have := encDst_lt (d := d) (by simp [h])
  have := encSrc_lt (a := a) (by simp [h])
  have := encSrc_lt (a := b) (by simp [h])
  apply word_lt <;> omega
theorem fmul (t : Nat) (d : Dst) (a : Src) (b : Src) : Statement (.fmul t d a b) := by
  intro h w e
  simp only [Instr.wf, isIn, isOut, Bool.and_eq_true, decide_eq_true_eq, bne_iff_ne, ne_eq] at h
  cases e
  have := encDst_lt (d := d) (by simp [h])
  have := encSrc_lt (a := a) (by simp [h])
  have := encSrc_lt (a := b) (by simp [h])
  apply word_lt <;> omega
theorem fma (t : Nat) (d : Dst) (a : Src) (b : Src) : Statement (.fma t d a b) := by
  intro h w e
  simp only [Instr.wf, isIn, isOut, Bool.and_eq_true, decide_eq_true_eq, bne_iff_ne, ne_eq] at h
  cases e
  have := encDst_isReg_lt (d := d) (by simp [h])
  have := encSrc_lt (a := a) (by simp [h])
  have := encSrc_lt (a := b) (by simp [h])
  apply word_lt <;> omega
theorem fmin (t : Nat) (d : Dst) (a : Src) (b : Src) : Statement (.fmin t d a b) := by
  intro h w e
  simp only [Instr.wf, isIn, isOut, Bool.and_eq_true, decide_eq_true_eq, bne_iff_ne, ne_eq] at h
  cases e
  have := encDst_lt (d := d) (by simp [h])
  have := encSrc_lt (a := a) (by simp [h])
  have := encSrc_lt (a := b) (by simp [h])
  apply word_lt <;> omega
theorem fmax (t : Nat) (d : Dst) (a : Src) (b : Src) : Statement (.fmax t d a b) := by
  intro h w e
  simp only [Instr.wf, isIn, isOut, Bool.and_eq_true, decide_eq_true_eq, bne_iff_ne, ne_eq] at h
  cases e
  have := encDst_lt (d := d) (by simp [h])
  have := encSrc_lt (a := a) (by simp [h])
  have := encSrc_lt (a := b) (by simp [h])
  apply word_lt <;> omega
theorem frcp (t : Nat) (d : Dst) (a : Src) : Statement (.frcp t d a) := by
  intro h w e
  simp only [Instr.wf, isIn, isOut, Bool.and_eq_true, decide_eq_true_eq, bne_iff_ne, ne_eq] at h
  cases e
  have := encDst_lt (d := d) (by simp [h])
  have := encSrc_lt (a := a) (by simp [h])
  apply word_lt <;> omega
theorem frsq (t : Nat) (d : Dst) (a : Src) : Statement (.frsq t d a) := by
  intro h w e
  simp only [Instr.wf, isIn, isOut, Bool.and_eq_true, decide_eq_true_eq, bne_iff_ne, ne_eq] at h
  cases e
  have := encDst_lt (d := d) (by simp [h])
  have := encSrc_lt (a := a) (by simp [h])
  apply word_lt <;> omega
theorem fexp2 (t : Nat) (d : Dst) (a : Src) : Statement (.fexp2 t d a) := by
  intro h w e
  simp only [Instr.wf, isIn, isOut, Bool.and_eq_true, decide_eq_true_eq, bne_iff_ne, ne_eq] at h
  cases e
  have := encDst_lt (d := d) (by simp [h])
  have := encSrc_lt (a := a) (by simp [h])
  apply word_lt <;> omega
theorem flog2 (t : Nat) (d : Dst) (a : Src) : Statement (.flog2 t d a) := by
  intro h w e
  simp only [Instr.wf, isIn, isOut, Bool.and_eq_true, decide_eq_true_eq, bne_iff_ne, ne_eq] at h
  cases e
  have := encDst_lt (d := d) (by simp [h])
  have := encSrc_lt (a := a) (by simp [h])
  apply word_lt <;> omega
theorem ftanh (t : Nat) (d : Dst) (a : Src) : Statement (.ftanh t d a) := by
  intro h w e
  simp only [Instr.wf, isIn, isOut, Bool.and_eq_true, decide_eq_true_eq, bne_iff_ne, ne_eq] at h
  cases e
  have := encDst_lt (d := d) (by simp [h])
  have := encSrc_lt (a := a) (by simp [h])
  apply word_lt <;> omega
theorem fcvti (t : Nat) (d : Dst) (a : Src) : Statement (.fcvti t d a) := by
  intro h w e
  simp only [Instr.wf, isIn, isOut, Bool.and_eq_true, decide_eq_true_eq, bne_iff_ne, ne_eq] at h
  cases e
  have := encDst_lt (d := d) (by simp [h])
  have := encSrc_lt (a := a) (by simp [h])
  apply word_lt <;> omega
theorem fcvtf (t : Nat) (d : Dst) (a : Src) : Statement (.fcvtf t d a) := by
  intro h w e
  simp only [Instr.wf, isIn, isOut, Bool.and_eq_true, decide_eq_true_eq, bne_iff_ne, ne_eq] at h
  cases e
  have := encDst_lt (d := d) (by simp [h])
  have := encSrc_lt (a := a) (by simp [h])
  apply word_lt <;> omega
theorem frnd (t : Nat) (d : Dst) (a : Src) : Statement (.frnd t d a) := by
  intro h w e
  simp only [Instr.wf, isIn, isOut, Bool.and_eq_true, decide_eq_true_eq, bne_iff_ne, ne_eq] at h
  cases e
  have := encDst_lt (d := d) (by simp [h])
  have := encSrc_lt (a := a) (by simp [h])
  apply word_lt <;> omega
theorem fscl (t : Nat) (d : Dst) (a : Src) (b : Src) : Statement (.fscl t d a b) := by
  intro h w e
  simp only [Instr.wf, isIn, isOut, Bool.and_eq_true, decide_eq_true_eq, bne_iff_ne, ne_eq] at h
  cases e
  have := encDst_lt (d := d) (by simp [h])
  have := encSrc_lt (a := a) (by simp [h])
  have := encSrc_lt (a := b) (by simp [h])
  apply word_lt <;> omega
theorem advr (t : Nat) (h : Nat) (n : Nat) : Statement (.advr t h n) := by
  intro h w e
  simp only [Instr.wf, isIn, isOut, Bool.and_eq_true, decide_eq_true_eq, bne_iff_ne, ne_eq] at h
  cases e
  apply word_lt <;> omega
theorem advw (t : Nat) (h : Nat) (n : Nat) : Statement (.advw t h n) := by
  intro h w e
  simp only [Instr.wf, isIn, isOut, Bool.and_eq_true, decide_eq_true_eq, bne_iff_ne, ne_eq] at h
  cases e
  apply word_lt <;> omega
theorem peek (t : Nat) (h : Nat) (k : Nat) (d : Dst) : Statement (.peek t h k d) := by
  intro h w e
  simp only [Instr.wf, isIn, isOut, Bool.and_eq_true, decide_eq_true_eq, bne_iff_ne, ne_eq] at h
  cases e
  have := encDst_isReg_lt (d := d) (by simp [h])
  apply word_lt <;> omega
theorem emit (t : Nat) (h : Nat) (g : Nat) (a : Src) : Statement (.emit t h g a) := by
  intro h w e
  simp only [Instr.wf, isIn, isOut, Bool.and_eq_true, decide_eq_true_eq, bne_iff_ne, ne_eq] at h
  cases e
  have := encSrc_lt (a := a) (by simp [h])
  apply word_lt <;> omega
theorem eos (t : Nat) (h : Nat) (g : Nat) : Statement (.eos t h g) := by
  intro h w e
  simp only [Instr.wf, isIn, isOut, Bool.and_eq_true, decide_eq_true_eq, bne_iff_ne, ne_eq] at h
  cases e
  apply word_lt <;> omega
theorem chq (t : Nat) (h : Nat) (d : Dst) : Statement (.chq t h d) := by
  intro h w e
  simp only [Instr.wf, isIn, isOut, Bool.and_eq_true, decide_eq_true_eq, bne_iff_ne, ne_eq] at h
  cases e
  have := encDst_isReg_lt (d := d) (by simp [h])
  apply word_lt <;> omega
theorem steer (t : Nat) (i : Nat) (x : Nat) (y : Nat) (p : Nat) : Statement (.steer t i x y p) := by
  intro h w e
  simp only [Instr.wf, isIn, isOut, Bool.and_eq_true, decide_eq_true_eq, bne_iff_ne, ne_eq] at h
  cases e
  apply word_lt <;> omega
theorem merge (t : Nat) (c : Nat) (a : Nat) (b : Nat) (o : Nat) : Statement (.merge t c a b o) := by
  intro h w e
  simp only [Instr.wf, isIn, isOut, Bool.and_eq_true, decide_eq_true_eq, bne_iff_ne, ne_eq] at h
  cases e
  apply word_lt <;> omega
theorem ld (t : Nat) (d : Dst) (o : Src) (w : Nat) (q : Bool) (e : Nat) : Statement (.ld t d o w q e) := by
  intro h w e
  simp only [Instr.wf, isIn, isOut, Bool.and_eq_true, decide_eq_true_eq, bne_iff_ne, ne_eq] at h
  cases e
  have := encDst_lt (d := d) (by simp [h])
  have := encSrc_lt (a := o) (by simp [h])
  have := b2n_le q
  apply word_lt <;> omega
theorem ldv (t : Nat) (d : Dst) (o : Src) (w : Nat) (q : Bool) (e : Nat) : Statement (.ldv t d o w q e) := by
  intro h w e
  simp only [Instr.wf, isIn, isOut, Bool.and_eq_true, decide_eq_true_eq, bne_iff_ne, ne_eq] at h
  cases e
  have := encDst_lt (d := d) (by simp [h])
  have := encSrc_lt (a := o) (by simp [h])
  have := b2n_le q
  apply word_lt <;> omega
theorem st (t : Nat) (a : Src) (o : Src) (w : Nat) (q : Bool) (e : Nat) : Statement (.st t a o w q e) := by
  intro h w e
  simp only [Instr.wf, isIn, isOut, Bool.and_eq_true, decide_eq_true_eq, bne_iff_ne, ne_eq] at h
  cases e
  have := encSrc_lt (a := a) (by simp [h])
  have := encSrc_lt (a := o) (by simp [h])
  have := b2n_le q
  apply word_lt <;> omega
theorem stv (t : Nat) (a : Src) (o : Src) (w : Nat) (q : Bool) (e : Nat) : Statement (.stv t a o w q e) := by
  intro h w e
  simp only [Instr.wf, isIn, isOut, Bool.and_eq_true, decide_eq_true_eq, bne_iff_ne, ne_eq] at h
  cases e
  have := encSrc_lt (a := a) (by simp [h])
  have := encSrc_lt (a := o) (by simp [h])
  have := b2n_le q
  apply word_lt <;> omega
theorem atomAdd (t : Nat) (a : Src) (o : Src) (w : Nat) (q : Bool) (e : Nat) : Statement (.atomAdd t a o w q e) := by
  intro h w e
  simp only [Instr.wf, isIn, isOut, Bool.and_eq_true, decide_eq_true_eq, bne_iff_ne, ne_eq] at h
  cases e
  have := encSrc_lt (a := a) (by simp [h])
  have := encSrc_lt (a := o) (by simp [h])
  have := b2n_le q
  apply word_lt <;> omega
theorem atomMin (t : Nat) (a : Src) (o : Src) (w : Nat) (q : Bool) (e : Nat) : Statement (.atomMin t a o w q e) := by
  intro h w e
  simp only [Instr.wf, isIn, isOut, Bool.and_eq_true, decide_eq_true_eq, bne_iff_ne, ne_eq] at h
  cases e
  have := encSrc_lt (a := a) (by simp [h])
  have := encSrc_lt (a := o) (by simp [h])
  have := b2n_le q
  apply word_lt <;> omega
theorem atomMax (t : Nat) (a : Src) (o : Src) (w : Nat) (q : Bool) (e : Nat) : Statement (.atomMax t a o w q e) := by
  intro h w e
  simp only [Instr.wf, isIn, isOut, Bool.and_eq_true, decide_eq_true_eq, bne_iff_ne, ne_eq] at h
  cases e
  have := encSrc_lt (a := a) (by simp [h])
  have := encSrc_lt (a := o) (by simp [h])
  have := b2n_le q
  apply word_lt <;> omega
theorem atomAnd (t : Nat) (a : Src) (o : Src) (w : Nat) (q : Bool) (e : Nat) : Statement (.atomAnd t a o w q e) := by
  intro h w e
  simp only [Instr.wf, isIn, isOut, Bool.and_eq_true, decide_eq_true_eq, bne_iff_ne, ne_eq] at h
  cases e
  have := encSrc_lt (a := a) (by simp [h])
  have := encSrc_lt (a := o) (by simp [h])
  have := b2n_le q
  apply word_lt <;> omega
theorem atomOr (t : Nat) (a : Src) (o : Src) (w : Nat) (q : Bool) (e : Nat) : Statement (.atomOr t a o w q e) := by
  intro h w e
  simp only [Instr.wf, isIn, isOut, Bool.and_eq_true, decide_eq_true_eq, bne_iff_ne, ne_eq] at h
  cases e
  have := encSrc_lt (a := a) (by simp [h])
  have := encSrc_lt (a := o) (by simp [h])
  have := b2n_le q
  apply word_lt <;> omega
theorem atomXor (t : Nat) (a : Src) (o : Src) (w : Nat) (q : Bool) (e : Nat) : Statement (.atomXor t a o w q e) := by
  intro h w e
  simp only [Instr.wf, isIn, isOut, Bool.and_eq_true, decide_eq_true_eq, bne_iff_ne, ne_eq] at h
  cases e
  have := encSrc_lt (a := a) (by simp [h])
  have := encSrc_lt (a := o) (by simp [h])
  have := b2n_le q
  apply word_lt <;> omega
theorem atomXchg (t : Nat) (a : Src) (o : Src) (w : Nat) (q : Bool) (e : Nat) : Statement (.atomXchg t a o w q e) := by
  intro h w e
  simp only [Instr.wf, isIn, isOut, Bool.and_eq_true, decide_eq_true_eq, bne_iff_ne, ne_eq] at h
  cases e
  have := encSrc_lt (a := a) (by simp [h])
  have := encSrc_lt (a := o) (by simp [h])
  have := b2n_le q
  apply word_lt <;> omega
theorem atomFadd (t : Nat) (a : Src) (o : Src) (w : Nat) (q : Bool) (e : Nat) : Statement (.atomFadd t a o w q e) := by
  intro h w e
  simp only [Instr.wf, isIn, isOut, Bool.and_eq_true, decide_eq_true_eq, bne_iff_ne, ne_eq] at h
  cases e
  have := encSrc_lt (a := a) (by simp [h])
  have := encSrc_lt (a := o) (by simp [h])
  have := b2n_le q
  apply word_lt <;> omega
theorem cas (t : Nat) (a : Src) (o : Src) (w : Nat) (q : Bool) (e : Nat) : Statement (.cas t a o w q e) := by
  intro h w e
  simp only [Instr.wf, isIn, isOut, Bool.and_eq_true, decide_eq_true_eq, bne_iff_ne, ne_eq] at h
  cases e
  have := encSrc_lt (a := a) (by simp [h])
  have := encSrc_lt (a := o) (by simp [h])
  have := b2n_le q
  apply word_lt <;> omega
theorem fence (t : Nat) (w : Nat) (q : Bool) (e : Nat) : Statement (.fence t w q e) := by
  intro h w e
  simp only [Instr.wf, isIn, isOut, Bool.and_eq_true, decide_eq_true_eq, bne_iff_ne, ne_eq] at h
  cases e
  have := b2n_le q
  apply word_lt <;> omega
theorem gnew (t : Nat) (d : Dst) : Statement (.gnew t d) := by
  intro h w e
  simp only [Instr.wf, isIn, isOut, Bool.and_eq_true, decide_eq_true_eq, bne_iff_ne, ne_eq] at h
  cases e
  have := encDst_lt (d := d) (by simp [h])
  apply word_lt <;> omega
theorem gfree (t : Nat) (a : Src) : Statement (.gfree t a) := by
  intro h w e
  simp only [Instr.wf, isIn, isOut, Bool.and_eq_true, decide_eq_true_eq, bne_iff_ne, ne_eq] at h
  cases e
  have := encSrc_lt (a := a) (by simp [h])
  apply word_lt <;> omega
theorem join (t : Nat) (a : Src) : Statement (.join t a) := by
  intro h w e
  simp only [Instr.wf, isIn, isOut, Bool.and_eq_true, decide_eq_true_eq, bne_iff_ne, ne_eq] at h
  cases e
  have := encSrc_lt (a := a) (by simp [h])
  apply word_lt <;> omega
theorem leave (t : Nat) (a : Src) : Statement (.leave t a) := by
  intro h w e
  simp only [Instr.wf, isIn, isOut, Bool.and_eq_true, decide_eq_true_eq, bne_iff_ne, ne_eq] at h
  cases e
  have := encSrc_lt (a := a) (by simp [h])
  apply word_lt <;> omega
theorem step (t : Nat) (a : Src) : Statement (.step t a) := by
  intro h w e
  simp only [Instr.wf, isIn, isOut, Bool.and_eq_true, decide_eq_true_eq, bne_iff_ne, ne_eq] at h
  cases e
  have := encSrc_lt (a := a) (by simp [h])
  apply word_lt <;> omega
theorem fcmp (t : Nat) (v : Nat) (d : Dst) (a : Src) (b : Src) : Statement (.fcmp t v d a b) := by
  intro h w e
  simp only [Instr.wf, isIn, isOut, Bool.and_eq_true, decide_eq_true_eq, bne_iff_ne, ne_eq] at h
  cases e
  have := encDst_lt (d := d) (by simp [h])
  have := encSrc_lt (a := a) (by simp [h])
  have := encSrc_lt (a := b) (by simp [h])
  apply word_lt <;> omega
theorem done (t : Nat) : Statement (.done t) := by
  intro h w e
  simp only [Instr.wf, isIn, isOut, Bool.and_eq_true, decide_eq_true_eq, bne_iff_ne, ne_eq] at h
  cases e
  apply word_lt <;> omega
theorem beatq (t : Nat) (d : Dst) (i : Nat) : Statement (.beatq t d i) := by
  intro h w e
  simp only [Instr.wf, isIn, isOut, Bool.and_eq_true, decide_eq_true_eq, bne_iff_ne, ne_eq] at h
  cases e
  have := encDst_isReg_lt (d := d) (by simp [h])
  apply word_lt <;> omega
theorem seq (t : Nat) (d : Dst) : Statement (.seq t d) := by
  intro h w e
  simp only [Instr.wf, isIn, isOut, Bool.and_eq_true, decide_eq_true_eq, bne_iff_ne, ne_eq] at h
  cases e
  have := encDst_lt (d := d) (by simp [h])
  apply word_lt <;> omega
theorem range (t : Nat) (d : Dst) (a : Src) : Statement (.range t d a) := by
  intro h w e
  simp only [Instr.wf, isIn, isOut, Bool.and_eq_true, decide_eq_true_eq, bne_iff_ne, ne_eq] at h
  cases e
  have := encDst_lt (d := d) (by simp [h])
  have := encSrc_lt (a := a) (by simp [h])
  apply word_lt <;> omega
theorem spawn (t : Nat) (d : Dst) (a : Src) : Statement (.spawn t d a) := by
  intro h w e
  simp only [Instr.wf, isIn, isOut, Bool.and_eq_true, decide_eq_true_eq, bne_iff_ne, ne_eq] at h
  cases e
  have := encDst_lt (d := d) (by simp [h])
  have := encSrc_lt (a := a) (by simp [h])
  apply word_lt <;> omega
theorem mxq (t : Nat) (d : Dst) (o : Src) (w : Nat) : Statement (.mxq t d o w) := by
  intro h w e
  simp only [Instr.wf, isIn, isOut, Bool.and_eq_true, decide_eq_true_eq, bne_iff_ne, ne_eq] at h
  cases e
  have := encDst_lt (d := d) (by simp [h])
  have := encSrc_lt (a := o) (by simp [h])
  apply word_lt <;> omega
theorem wpr (t : Nat) (d : Dst) (a : Src) : Statement (.wpr t d a) := by
  intro h w e
  simp only [Instr.wf, isIn, isOut, Bool.and_eq_true, decide_eq_true_eq, bne_iff_ne, ne_eq] at h
  cases e
  have := encDst_lt (d := d) (by simp [h])
  have := encSrc_lt (a := a) (by simp [h])
  apply word_lt <;> omega
theorem bind (c : Cond) (g : Nat) (p : Nat) (r : Nat) : Statement (.bind c g p r) := by
  intro h w e
  simp only [Instr.wf, isIn, isOut, Bool.and_eq_true, decide_eq_true_eq, bne_iff_ne, ne_eq] at h
  cases e
  have := encCond_lt (c := c) (by simp [h])
  apply word_lt <;> omega
theorem go (c : Cond) (g : Nat) : Statement (.go c g) := by
  intro h w e
  simp only [Instr.wf, isIn, isOut, Bool.and_eq_true, decide_eq_true_eq, bne_iff_ne, ne_eq] at h
  cases e
  have := encCond_lt (c := c) (by simp [h])
  apply word_lt <;> omega
theorem bar (c : Cond) : Statement (.bar c) := by
  intro h w e
  simp only [Instr.wf, isIn, isOut, Bool.and_eq_true, decide_eq_true_eq, bne_iff_ne, ne_eq] at h
  cases e
  have := encCond_lt (c := c) (by simp [h])
  apply word_lt <;> omega
theorem waitn (c : Cond) (n : Nat) (v : Nat) : Statement (.waitn c n v) := by
  intro h w e
  simp only [Instr.wf, isIn, isOut, Bool.and_eq_true, decide_eq_true_eq, bne_iff_ne, ne_eq] at h
  cases e
  have := encCond_lt (c := c) (by simp [h])
  apply word_lt <;> omega
theorem waitnArg (c : Cond) (n : Nat) (j : Nat) : Statement (.waitnArg c n j) := by
  intro h w e
  simp only [Instr.wf, isIn, isOut, Bool.and_eq_true, decide_eq_true_eq, bne_iff_ne, ne_eq] at h
  cases e
  have := encCond_lt (c := c) (by simp [h])
  apply word_lt <;> omega
theorem enab (c : Cond) (n : Nat) : Statement (.enab c n) := by
  intro h w e
  simp only [Instr.wf, isIn, isOut, Bool.and_eq_true, decide_eq_true_eq, bne_iff_ne, ne_eq] at h
  cases e
  have := encCond_lt (c := c) (by simp [h])
  apply word_lt <;> omega
theorem sigd (c : Cond) : Statement (.sigd c) := by
  intro h w e
  simp only [Instr.wf, isIn, isOut, Bool.and_eq_true, decide_eq_true_eq, bne_iff_ne, ne_eq] at h
  cases e
  have := encCond_lt (c := c) (by simp [h])
  apply word_lt <;> omega
theorem cntw (c : Cond) (n : Nat) (e : Nat) (d : Nat) : Statement (.cntw c n e d) := by
  intro h w e
  simp only [Instr.wf, isIn, isOut, Bool.and_eq_true, decide_eq_true_eq, bne_iff_ne, ne_eq] at h
  cases e
  have := encCond_lt (c := c) (by simp [h])
  apply word_lt <;> omega
theorem loop (c : Cond) (n : Nat) (k : Nat) : Statement (.loop c n k) := by
  intro h w e
  simp only [Instr.wf, isIn, isOut, Bool.and_eq_true, decide_eq_true_eq, bne_iff_ne, ne_eq] at h
  cases e
  have := encCond_lt (c := c) (by simp [h])
  apply word_lt <;> omega
theorem loopArg (c : Cond) (n : Nat) (j : Nat) : Statement (.loopArg c n j) := by
  intro h w e
  simp only [Instr.wf, isIn, isOut, Bool.and_eq_true, decide_eq_true_eq, bne_iff_ne, ne_eq] at h
  cases e
  have := encCond_lt (c := c) (by simp [h])
  apply word_lt <;> omega
theorem arm (c : Cond) (q : Nat) (j : Nat) : Statement (.arm c q j) := by
  intro h w e
  simp only [Instr.wf, isIn, isOut, Bool.and_eq_true, decide_eq_true_eq, bne_iff_ne, ne_eq] at h
  cases e
  have := encCond_lt (c := c) (by simp [h])
  apply word_lt <;> omega
theorem disarm (c : Cond) (q : Nat) : Statement (.disarm c q) := by
  intro h w e
  simp only [Instr.wf, isIn, isOut, Bool.and_eq_true, decide_eq_true_eq, bne_iff_ne, ne_eq] at h
  cases e
  have := encCond_lt (c := c) (by simp [h])
  apply word_lt <;> omega
theorem qfen (c : Cond) (m : Nat) : Statement (.qfen c m) := by
  intro h w e
  simp only [Instr.wf, isIn, isOut, Bool.and_eq_true, decide_eq_true_eq, bne_iff_ne, ne_eq] at h
  cases e
  have := encCond_lt (c := c) (by simp [h])
  apply word_lt <;> omega
theorem beatPolicy (c : Cond) (j : Nat) : Statement (.beatPolicy c j) := by
  intro h w e
  simp only [Instr.wf, isIn, isOut, Bool.and_eq_true, decide_eq_true_eq, bne_iff_ne, ne_eq] at h
  cases e
  have := encCond_lt (c := c) (by simp [h])
  apply word_lt <;> omega
theorem beatFixed (c : Cond) (l : Nat) : Statement (.beatFixed c l) := by
  intro h w e
  simp only [Instr.wf, isIn, isOut, Bool.and_eq_true, decide_eq_true_eq, bne_iff_ne, ne_eq] at h
  cases e
  have := encCond_lt (c := c) (by simp [h])
  apply word_lt <;> omega
theorem beatSet (c : Cond) (l : Nat) : Statement (.beatSet c l) := by
  intro h w e
  simp only [Instr.wf, isIn, isOut, Bool.and_eq_true, decide_eq_true_eq, bne_iff_ne, ne_eq] at h
  cases e
  have := encCond_lt (c := c) (by simp [h])
  apply word_lt <;> omega
theorem mark (c : Cond) : Statement (.mark c) := by
  intro h w e
  simp only [Instr.wf, isIn, isOut, Bool.and_eq_true, decide_eq_true_eq, bne_iff_ne, ne_eq] at h
  cases e
  have := encCond_lt (c := c) (by simp [h])
  apply word_lt <;> omega
theorem recfg (c : Cond) (j : Nat) : Statement (.recfg c j) := by
  intro h w e
  simp only [Instr.wf, isIn, isOut, Bool.and_eq_true, decide_eq_true_eq, bne_iff_ne, ne_eq] at h
  cases e
  have := encCond_lt (c := c) (by simp [h])
  apply word_lt <;> omega
theorem rsz (c : Cond) (x : Nat) (j : Nat) : Statement (.rsz c x j) := by
  intro h w e
  simp only [Instr.wf, isIn, isOut, Bool.and_eq_true, decide_eq_true_eq, bne_iff_ne, ne_eq] at h
  cases e
  have := encCond_lt (c := c) (by simp [h])
  apply word_lt <;> omega
theorem haltc (c : Cond) : Statement (.haltc c) := by
  intro h w e
  simp only [Instr.wf, isIn, isOut, Bool.and_eq_true, decide_eq_true_eq, bne_iff_ne, ne_eq] at h
  cases e
  have := encCond_lt (c := c) (by simp [h])
  apply word_lt <;> omega
theorem beatEdge (l : Nat) : Statement (.beatEdge l) := by intro _ w e; simp [encode] at e
theorem stretchEdge (l : Nat) : Statement (.stretchEdge l) := by intro _ w e; simp [encode] at e
theorem traceWalk (l : Nat) : Statement (.traceWalk l) := by intro _ w e; simp [encode] at e
theorem lineFirstEdge (l : Nat) : Statement (.lineFirstEdge l) := by intro _ w e; simp [encode] at e
theorem reworkResume (l : Nat) (st : Nat) : Statement (.reworkResume l st) := by intro _ w e; simp [encode] at e
theorem lineStall (l : Nat) : Statement (.lineStall l) := by intro _ w e; simp [encode] at e
theorem eosCommit (l : Nat) (th : Nat) (h : Nat) : Statement (.eosCommit l th h) := by intro _ w e; simp [encode] at e
theorem loadReturn (id : Nat) : Statement (.loadReturn id) := by intro _ w e; simp [encode] at e
theorem atomicReturn (id : Nat) : Statement (.atomicReturn id) := by intro _ w e; simp [encode] at e
theorem storeAccept (id : Nat) : Statement (.storeAccept id) := by intro _ w e; simp [encode] at e
theorem xlatLookup (id : Nat) : Statement (.xlatLookup id) := by intro _ w e; simp [encode] at e
theorem walkResult (id : Nat) : Statement (.walkResult id) := by intro _ w e; simp [encode] at e
theorem patternVisit (l : Nat) (tile : Nat) (g : Nat) : Statement (.patternVisit l tile g) := by intro _ w e; simp [encode] at e
theorem copyEntry (l : Nat) (tile : Nat) (q : Nat) : Statement (.copyEntry l tile q) := by intro _ w e; simp [encode] at e
theorem copyBeat (l : Nat) (tile : Nat) (ch : Nat) : Statement (.copyBeat l tile ch) := by intro _ w e; simp [encode] at e
theorem armComplete (l : Nat) (tile : Nat) (q : Nat) : Statement (.armComplete l tile q) := by intro _ w e; simp [encode] at e
theorem disarmAck (l : Nat) (tile : Nat) (q : Nat) : Statement (.disarmAck l tile q) := by intro _ w e; simp [encode] at e
theorem countAck (id : Nat) : Statement (.countAck id) := by intro _ w e; simp [encode] at e
theorem countTokenCommit (l : Nat) (tile : Nat) (n : Nat) : Statement (.countTokenCommit l tile n) := by intro _ w e; simp [encode] at e
theorem mcastJoinToken (l : Nat) (tile : Nat) (q : Nat) (k : Nat) : Statement (.mcastJoinToken l tile q k) := by intro _ w e; simp [encode] at e
theorem mxqRecordRead (id : Nat) : Statement (.mxqRecordRead id) := by intro _ w e; simp [encode] at e
theorem mxTaskIssue (l : Nat) (bolt : Nat) : Statement (.mxTaskIssue l bolt) := by intro _ w e; simp [encode] at e
theorem mxTaskComplete (l : Nat) (id : Nat) : Statement (.mxTaskComplete l id) := by intro _ w e; simp [encode] at e
theorem voterToken (l : Nat) (v : Nat) (copy : Nat) : Statement (.voterToken l v copy) := by intro _ w e; simp [encode] at e
theorem swageConvert (l : Nat) (ch : Nat) : Statement (.swageConvert l ch) := by intro _ w e; simp [encode] at e
theorem planeSwapDone (vf : Nat) (g : Nat) : Statement (.planeSwapDone vf g) := by intro _ w e; simp [encode] at e
theorem lqDb (vf : Nat) (ps : Nat) (tail : Nat) : Statement (.lqDb vf ps tail) := by intro _ w e; simp [encode] at e
theorem launchRecord (vf : Nat) (ps : Nat) : Statement (.launchRecord vf ps) := by intro _ w e; simp [encode] at e
theorem linePlacement (id : Nat) : Statement (.linePlacement id) := by intro _ w e; simp [encode] at e
theorem prerequisitesMet (l : Nat) : Statement (.prerequisitesMet l) := by intro _ w e; simp [encode] at e
theorem spawnAnswer (id : Nat) : Statement (.spawnAnswer id) := by intro _ w e; simp [encode] at e
theorem rangeAnswer (id : Nat) : Statement (.rangeAnswer id) := by intro _ w e; simp [encode] at e
theorem lineComplete (l : Nat) : Statement (.lineComplete l) := by intro _ w e; simp [encode] at e
theorem boltScrubDone (bolt : Nat) : Statement (.boltScrubDone bolt) := by intro _ w e; simp [encode] at e
theorem spScrubComplete (fr : Nat) : Statement (.spScrubComplete fr) := by intro _ w e; simp [encode] at e
theorem sliceExpiry (l : Nat) : Statement (.sliceExpiry l) := by intro _ w e; simp [encode] at e
theorem roundEntry (l : Nat) (tile : Nat) : Statement (.roundEntry l tile) := by intro _ w e; simp [encode] at e
theorem tileSave (l : Nat) (tile : Nat) : Statement (.tileSave l tile) := by intro _ w e; simp [encode] at e
theorem quiescentPreempt (l : Nat) : Statement (.quiescentPreempt l) := by intro _ w e; simp [encode] at e
theorem lineRestore (l : Nat) : Statement (.lineRestore l) := by intro _ w e; simp [encode] at e
theorem recfgDrained (l : Nat) : Statement (.recfgDrained l) := by intro _ w e; simp [encode] at e
theorem rszComplete (id : Nat) : Statement (.rszComplete id) := by intro _ w e; simp [encode] at e
theorem lstRsz (l : Nat) (rg : Nat) (v : Nat) : Statement (.lstRsz l rg v) := by intro _ w e; simp [encode] at e
theorem fltResumeResume (vf : Nat) (ix : Nat) : Statement (.fltResumeResume vf ix) := by intro _ w e; simp [encode] at e
theorem fltResumeEnd (vf : Nat) (ix : Nat) : Statement (.fltResumeEnd vf ix) := by intro _ w e; simp [encode] at e
theorem fltResumeSkip (vf : Nat) (ix : Nat) : Statement (.fltResumeSkip vf ix) := by intro _ w e; simp [encode] at e
theorem fltResumeNone (vf : Nat) (ix : Nat) : Statement (.fltResumeNone vf ix) := by intro _ w e; simp [encode] at e
theorem resumePortToken (l : Nat) (ch : Nat) : Statement (.resumePortToken l ch) := by intro _ w e; simp [encode] at e
theorem fqHead (vf : Nat) (v : Nat) : Statement (.fqHead vf v) := by intro _ w e; simp [encode] at e
theorem errBudget (vf : Nat) (pf : Bool) (v : Nat) : Statement (.errBudget vf pf v) := by intro _ w e; simp [encode] at e
theorem partGrant (vf : Nat) (pf : Bool) (v : Nat) : Statement (.partGrant vf pf v) := by intro _ w e; simp [encode] at e
theorem xlShoot (vf : Nat) (ps : Nat) (v : Nat) : Statement (.xlShoot vf ps v) := by intro _ w e; simp [encode] at e
theorem shootdownDone (vf : Nat) (ps : Nat) : Statement (.shootdownDone vf ps) := by intro _ w e; simp [encode] at e
theorem atsInvalidation (vf : Nat) (ps : Nat) (v : Nat) : Statement (.atsInvalidation vf ps v) := by intro _ w e; simp [encode] at e
theorem remoteWrite (vf : Nat) (ps : Nat) (dev : Nat) (addr : Nat) (row : RowData) : Statement (.remoteWrite vf ps dev addr row) := by intro _ w e; simp [encode] at e
theorem guardDrop (l : Nat) (ch : Nat) : Statement (.guardDrop l ch) := by intro _ w e; simp [encode] at e
theorem counterWrap (l : Nat) (tile : Nat) (n : Nat) : Statement (.counterWrap l tile n) := by intro _ w e; simp [encode] at e
theorem powerThrottle (on : Bool) : Statement (.powerThrottle on) := by intro _ w e; simp [encode] at e
theorem powerOn (out : BootInput) : Statement (.powerOn out) := by intro _ w e; simp [encode] at e
theorem attestationRequest (nonce : Nat) : Statement (.attestationRequest nonce) := by intro _ w e; simp [encode] at e
theorem registerWrite (pf : Bool) (r : RegName) (v : Nat) : Statement (.registerWrite pf r v) := by intro _ w e; simp [encode] at e
theorem rowRefused (l : Nat) (tile : Nat) (ans : RowAnswer) : Statement (.rowRefused l tile ans) := by intro _ w e; simp [encode] at e
theorem endedByHost (l : Nat) : Statement (.endedByHost l) := by intro _ w e; simp [encode] at e

end WordCount

end Sys2Proof.Laws
end

