-- ==== Sys2Proof/Laws/Results.lean ====
section
/-!
SUPPORT. The state a word leaves that writes a result and nothing else (R57): its element, its destination, its frame.
-/
namespace Sys2Proof.Machine

/-! ## Frames compose -/

theorem Fabric.sameUnits.trans {f g h : Fabric} (a : Fabric.sameUnits f g) (b : Fabric.sameUnits g h) : Fabric.sameUnits f h :=
  ⟨b.1.trans a.1, b.2.trans a.2, b.3.trans a.3, b.4.trans a.4, b.5.trans a.5, b.6.trans a.6, b.7.trans a.7, b.8.trans a.8,
   b.9.trans a.9, b.10.trans a.10, b.11.trans a.11, b.12.trans a.12, b.13.trans a.13, b.14.trans a.14, b.15.trans a.15,
   b.16.trans a.16, b.17.trans a.17, b.18.trans a.18, b.19.trans a.19, b.20.trans a.20, b.21.trans a.21, b.22.trans a.22,
   b.23.trans a.23, b.24.trans a.24, b.25.trans a.25, b.26.trans a.26, b.27.trans a.27, b.28.trans a.28, b.29.trans a.29, b.30.trans a.30, b.31.trans a.31,
   b.32.trans a.32, b.33.trans a.33, b.34.trans a.34, b.35.trans a.35, b.36.trans a.36, b.37.trans a.37, b.38.trans a.38, b.39.trans a.39⟩

theorem Fabric.sameUnits.refl (f : Fabric) : Fabric.sameUnits f f := by constructor <;> rfl

/-! ## What follows every firing -/

theorem map_upd_still (p : Line → Bool) (g : Line → Line) (hg : ∀ x, (g x).still = x.still) (l : List Line) :
    (upd p g l).map Line.still = l.map Line.still := by
  simp only [upd, List.map_map]
  apply List.map_congr_left
  intro x _
  by_cases h : p x = true <;> simp [h, hg]

theorem map_upd_quietNow (p : Tile → Bool) (g : Tile → Tile) (hg : ∀ x, (g x).quietNow = x.quietNow) (l : List Tile) :
    (upd p g l).map Tile.quietNow = l.map Tile.quietNow := by
  simp only [upd, List.map_map]
  apply List.map_congr_left
  intro x _
  by_cases h : p x = true <;> simp [h, hg]

theorem afterFire_units (e : Elem) (slot : Nat) (i : Instr) (f0 f : Fabric) :
    Fabric.sameUnits f (afterFire e slot i f0 f) := by constructor <;> rfl

@[simp] theorem afterFire_posted (e : Elem) (slot : Nat) (i : Instr) (f0 f : Fabric) : (afterFire e slot i f0 f).posted = f.posted := rfl
@[simp] theorem afterFire_chans (e : Elem) (slot : Nat) (i : Instr) (f0 f : Fabric) : (afterFire e slot i f0 f).chans = f.chans := rfl
@[simp] theorem afterFire_stations (e : Elem) (slot : Nat) (i : Instr) (f0 f : Fabric) :
    (afterFire e slot i f0 f).stations = f.stations := rfl

theorem afterFire_lines (e : Elem) (slot : Nat) (i : Instr) (f0 f : Fabric) :
    (afterFire e slot i f0 f).lines.map Line.still = f.lines.map Line.still :=
  map_upd_still (fun c => c.id == e.line) (fun x => { x with moved := true }) (fun _ => rfl) f.lines

theorem afterFire_tiles (e : Elem) (slot : Nat) (i : Instr) (f0 f : Fabric) :
    (afterFire e slot i f0 f).tiles.map Tile.quietNow = f.tiles.map Tile.quietNow :=
  map_upd_quietNow (fun c => c.line == e.line && c.num == tileOf e.thread) (fun x => { x with now := 2 :: x.now })
    (fun _ => rfl) f.tiles

/-- The element after a firing: the rotate pointer names the slot; what was acquired and when it fired are noted. -/
theorem afterFire_elem (e : Elem) (slot : Nat) (i : Instr) (f0 f : Fabric) (l th : Nat) (hl : e.line = l) (ht : e.thread = th) :
    ∃ (kn : Elem → List Nat) (ar : Elem → Vector Arrival 8), findElem (afterFire e slot i f0 f) l th
      = (findElem f l th).map (fun x => { x with rotPtr := slot % 32, know := kn x, arrivals := ar x, lastFire := f0.cycle, redo := none }) := by
  subst hl ht
  exact ⟨fun x => union (acquireHeads f0 e (firingInputs f0 e i ((vget e.slots slot).toNat / 67108864))) x.know,
    fun x => (commitHandles f0 e i).foldl (fun a h => vset a h
      (lastArrival f0 e slot i (firingInputs f0 e i ((vget e.slots slot).toNat / 67108864)))) x.arrivals,
    findElem_upd (f := f) (fun _ => ⟨rfl, rfl⟩)⟩

theorem afterFire_elem_ne (e : Elem) (slot : Nat) (i : Instr) (f0 f : Fabric) (l' th' : Nat)
    (h : ¬(l' = e.line ∧ th' = e.thread)) : findElem (afterFire e slot i f0 f) l' th' = findElem f l' th' := by
  exact findElem_upd_ne (f := f) (fun _ => ⟨rfl, rfl⟩) h

@[simp] theorem findElem_commit (m : Memory) (f : Fabric) (l th : Nat) :
    findElem (State.commit m f).fab l th = findElem f l th := rfl
@[simp] theorem findChan_commit (m : Memory) (f : Fabric) (l n : Nat) :
    findChan (State.commit m f).fab l n = findChan f l n := rfl
@[simp] theorem findStation_commit (m : Memory) (f : Fabric) (l n : Nat) :
    findStation (State.commit m f).fab l n = findStation f l n := rfl

/-- A firing whose effect changes no more than its own element, channels and stations has a frame. -/
theorem fired_frame {s : State} {l th slot : Nat} {e : Elem} {i : Instr} {f : Fabric} (h : s.Fires l th slot e i)
    (hp : f.posted = []) (hu : Fabric.sameUnits s.fab f) (hl : f.lines = s.fab.lines) (ht : f.tiles = s.fab.tiles)
    (he : ∀ l' th', ¬(l' = l ∧ th' = th) → findElem f l' th' = findElem s.fab l' th') :
    State.FrameBut s (s.fired e slot i f) l th := by
  obtain ⟨hk, ht'⟩ := findElem_key h.found
  refine ⟨⟨State.commit_mem hp, ?_, (afterFire_lines (e.acquire s.fab slot i) slot i s.fab f).trans (by rw [hl]),
    (afterFire_tiles (e.acquire s.fab slot i) slot i s.fab f).trans (by rw [ht])⟩,
    (hu.trans (afterFire_units (e.acquire s.fab slot i) slot i s.fab f)).trans (by constructor <;> rfl)⟩
  intro l' th' hn
  have hn' : ¬(l' = (e.acquire s.fab slot i).line ∧ th' = (e.acquire s.fab slot i).thread) := by simpa [hk, ht'] using hn
  exact (afterFire_elem_ne _ _ _ _ _ _ _ hn').trans (he l' th' hn)

/-! ## A result -/

theorem Elem.setResult_key (d : Dst) (r : Reg) (x : Elem) :
    (x.setResult d r).line = x.line ∧ (x.setResult d r).thread = x.thread := by cases d <;> exact ⟨rfl, rfl⟩

theorem writeResult_find (e : Elem) (slot : Nat) (d : Dst) (r : Reg) (f : Fabric) :
    findElem (writeResult e slot d r f) e.line e.thread = (findElem f e.line e.thread).map (fun x => x.setResult d r) := by
  have h : findElem (writeResult e slot d r f) e.line e.thread
      = findElem (updElem e.line e.thread (fun x => x.setResult d r) f) e.line e.thread := by
    simp only [findElem, writeResult_elems]
  rw [h, findElem_upd (Elem.setResult_key d r)]

theorem writeResult_find_ne (e : Elem) (slot : Nat) (d : Dst) (r : Reg) (f : Fabric) (l' th' : Nat)
    (hn : ¬(l' = e.line ∧ th' = e.thread)) : findElem (writeResult e slot d r f) l' th' = findElem f l' th' := by
  have h : findElem (writeResult e slot d r f) l' th'
      = findElem (updElem e.line e.thread (fun x => x.setResult d r) f) l' th' := by
    simp only [findElem, writeResult_elems]
  rw [h, findElem_upd_ne (Elem.setResult_key d r) hn]

/-- Where the result of `writeResult` goes. -/
theorem writeResult_sent (s : State) (m : Memory) (e e1 : Elem) (slot : Nat) (d : Dst) (r : Reg) (i : Instr)
    (hh : e1.h = e.h) (hn : e1.nodes = e.nodes) (hl : e1.line = e.line) (hs : e1.station = e.station)
    (hq : seqOf s.fab e1 = seqOf s.fab e) :
    State.ResultSent s (State.commit m (afterFire e1 slot i s.fab (writeResult e1 slot d r s.fab))) e slot d r := by
  have hcs : (State.commit m (afterFire e1 slot i s.fab (writeResult e1 slot d r s.fab))).fab.chans
      = (writeResult e1 slot d r s.fab).chans := rfl
  have hss : (State.commit m (afterFire e1 slot i s.fab (writeResult e1 slot d r s.fab))).fab.stations
      = (writeResult e1 slot d r s.fab).stations := rfl
  unfold State.ResultSent
  cases d with
  | lat => exact ⟨hcs, hss⟩
  | o n => exact ⟨hcs, hss⟩
  | c h =>
    cases hv : vget e.h h with
    | unbound => simp only [hv]; exact ⟨hcs.trans (by simp only [writeResult, stageTok, hh, hv]; rfl), hss.trans (by simp only [writeResult, stageTok, hh, hv]; rfl)⟩
    | inbox => simp only [hv]; exact ⟨hcs.trans (by simp only [writeResult, stageTok, hh, hv]; rfl), hss.trans (by simp only [writeResult, stageTok, hh, hv]; rfl)⟩
    | outbox =>
      have hx : (writeResult e1 slot (.c h) r s.fab).stations
          = (updStation e.line e.station (putOutbox (mkToken s.fab e1 slot 0 r)) s.fab).stations := by
        simp only [writeResult, stageTok, hh, hv, hl, hs]
        simp only [updStation, updElem_stations]
      simp only [hv]
      refine ⟨⟨mkToken s.fab e1 slot 0 r, rfl, rfl, rfl, ?_⟩, fun l' n' hne => ?_, ?_⟩
      · rw [← findStation_upd (fun _ => putOutbox_key _ _)]
        simp only [findStation, hss, hx]
      · rw [← findStation_upd_ne (f := s.fab) (putOutbox_key (mkToken s.fab e1 slot 0 r)) hne]
        simp only [findStation, hss, hx]
      · rw [hcs]; simp only [writeResult, stageTok, hh, hv, updStation_chans, updElem_chans]
    | chan cl n =>
      let g := updElem e1.line e1.thread (fun x => x.setResult (.c h) r) s.fab
      have hk : ∀ x : Chan, (commitPend (union e1.mine e1.know) g x).line = x.line ∧ (commitPend (union e1.mine e1.know) g x).num = x.num := by
        intro x
        simp only [commitPend]
        split
        · exact drainStaged_key _ _ _ _
        · exact ⟨rfl, rfl⟩
      have hx : (writeResult e1 slot (.c h) r s.fab).chans
          = (updChan cl n (fun c => { commitPend (union e1.mine e1.know) g c with
                staged := (commitPend (union e1.mine e1.know) g c).staged ++ [⟨mkToken s.fab e1 slot 0 r, none, false⟩] }) s.fab).chans := by
        simp only [writeResult, stageTok, hh, hv]; rfl
      simp only [hv]
      refine ⟨fun c hf hp => ⟨_, mkToken s.fab e1 slot 0 r, ?_, rfl, rfl, rfl, rfl, ?_, ?_⟩, fun l' n' hne => ?_, ?_⟩
      · have := findChan_upd (f := s.fab) (l := cl) (n := n) (g := fun c => { commitPend (union e1.mine e1.know) g c with
                staged := (commitPend (union e1.mine e1.know) g c).staged ++ [⟨mkToken s.fab e1 slot 0 r, none, false⟩] }) (fun x => hk x)
        rw [hf] at this
        simp only [findChan] at this ⊢
        rw [hcs, hx, this]
        simp [commitPend, hp]
      · simp only [mkToken, nodeOf, hn]
      · exact hq
      · rw [← findChan_upd_ne (f := s.fab) (g := fun c => { commitPend (union e1.mine e1.know) g c with
                staged := (commitPend (union e1.mine e1.know) g c).staged ++ [⟨mkToken s.fab e1 slot 0 r, none, false⟩] }) (fun x => hk x) hne]
        simp only [findChan, hcs, hx]
      · rw [hss]; simp only [writeResult, stageTok, hh, hv, updChan_stations, updElem_stations]

/-- THE RESULT OF A FIRING (R57): what `writeResult` leaves is a result, and its frame. -/
theorem fired_result {s : State} {l th slot : Nat} {e : Elem} {i : Instr} (d : Dst) (r : Reg) (hg : s.good) (hd : d.wf = true)
    (h : s.Fires l th slot e i) :
    State.Result s (s.fired e slot i (writeResult (e.acquire s.fab slot i) slot d r s.fab)) l th slot e d r := by
  obtain ⟨hl, ht⟩ := findElem_key h.found
  have hw := writeResult_units (e.acquire s.fab slot i) slot d r s.fab
  refine ⟨?_, writeResult_sent s s.mem e _ slot d r i rfl rfl rfl rfl rfl, fired_frame h (by rw [hw.2.1]; exact hg.2) hw.1 hw.2.2.1 hw.2.2.2 ?_⟩
  · obtain ⟨kn, ar, he⟩ := afterFire_elem (e.acquire s.fab slot i) slot i s.fab
      (writeResult (e.acquire s.fab slot i) slot d r s.fab) l th hl ht
    have hf := writeResult_find (e.acquire s.fab slot i) slot d r s.fab
    rw [show (e.acquire s.fab slot i).line = l from hl, show (e.acquire s.fab slot i).thread = th from ht, h.found] at hf
    rw [hf] at he
    refine ⟨_, he, ?_⟩
    cases d with
    | lat => exact ⟨rfl, fun n _ => by simp [Elem.setResult], rfl⟩
    | c k => exact ⟨rfl, fun n _ => by simp [Elem.setResult], rfl⟩
    | o k =>
      refine ⟨rfl, fun n hn => ?_, rfl⟩
      have hk : k < 8 := by simpa [Dst.wf] using hd
      by_cases hkn : k = n
      · subst hkn; simp [Elem.setResult]
      · simp only [Elem.setResult, Dst.o.injEq, hkn, if_false]
        exact vget_vset_ne _ _ _ _ (by omega)
  · intro l' th' hn
    have hn' : ¬(l' = (e.acquire s.fab slot i).line ∧ th' = (e.acquire s.fab slot i).thread) := by simpa [hl, ht] using hn
    exact writeResult_find_ne _ _ _ _ _ _ _ hn'

/-- A word whose meaning is one result completes with that result, if the value does not depend on what is acquired. -/
theorem fireResult_completes {i : Instr} {d : Dst} {val : Fabric → Elem → Reg} (hx : ∀ s, exec i s = fireResult i d val s)
    (hd : i.wf = true → d.wf = true) (hv : ∀ f e slot, val f (e.acquire f slot i) = val f e) :
    Completes i d fun f e r => r = val f e := by
  intro s l th slot e hw hg h
  refine ⟨_, val s.fab e, (hx s).trans (fireWord_ok h rfl), rfl, ?_⟩
  rw [hv]
  exact fired_result d (val s.fab e) hg (hd hw) h

/-- A completion's value may be described by less. -/
theorem Completes.mono {i : Instr} {d : Dst} {p q : Fabric → Elem → Reg → Prop} (h : Completes i d p)
    (hpq : ∀ f e r, p f e r → q f e r) : Completes i d q := by
  intro s l th slot e hw hg hf
  obtain ⟨t, r, ht, hp, hr⟩ := h s l th slot e hw hg hf
  exact ⟨t, r, ht, hpq _ _ _ hp, hr⟩

/-- A word that only changes its element, not the element's name. -/
theorem fired_elem {s : State} {l th slot : Nat} {e : Elem} {i : Instr} {g : Elem → Elem}
    (hk : ∀ x, (g x).line = x.line ∧ (g x).thread = x.thread) (hg : s.good) (h : s.Fires l th slot e i) :
    (s.fired e slot i (updElem e.line e.thread g s.fab)).ElemIs l th slot (g e)
      ∧ State.FrameBut s (s.fired e slot i (updElem e.line e.thread g s.fab)) l th
      ∧ (s.fired e slot i (updElem e.line e.thread g s.fab)).fab.chans = s.fab.chans
      ∧ (s.fired e slot i (updElem e.line e.thread g s.fab)).fab.stations = s.fab.stations := by
  obtain ⟨hl, ht⟩ := findElem_key h.found
  obtain ⟨kn, ar, he⟩ := afterFire_elem (e.acquire s.fab slot i) slot i s.fab (updElem e.line e.thread g s.fab) l th hl ht
  have hf : findElem (updElem e.line e.thread g s.fab) l th = some (g e) := by
    have := findElem_upd (f := s.fab) (l := e.line) (th := e.thread) hk
    rw [hl, ht] at this ⊢
    rw [this, h.found]; rfl
  rw [hf] at he
  refine ⟨⟨_, he, rfl⟩, fired_frame h hg.2 (by constructor <;> rfl) rfl rfl ?_, rfl, rfl⟩
  intro l' th' hn
  exact findElem_upd_ne (f := s.fab) hk (by rw [hl, ht]; exact hn)

/-- A word whose effect changes its element completes with that change. -/
theorem fireWord_changes {i : Instr} {g : Fabric → Elem → Elem → Elem}
    (hx : ∀ s, exec i s = fireWord i (fun _ e _ f => .ok (updElem e.line e.thread (g f e) f)) s)
    (hk : ∀ f e x, (g f e x).line = x.line ∧ (g f e x).thread = x.thread)
    (hv : ∀ f e slot, g f (e.acquire f slot i) = g f e) : ChangesElem i fun f e => g f e e := by
  intro s l th slot e hw hg h
  have := fired_elem (g := g s.fab e) (hk s.fab e) hg h
  refine ⟨_, (hx s).trans (fireWord_ok h rfl), ?_⟩
  simpa only [hv, Elem.acquire_line, Elem.acquire_thread] using this

/-- A fault of a firing is taken, with no other effect (R64). -/
theorem faulted_taken {s : State} {l th slot : Nat} {e : Elem} {i : Instr} (code detail : Nat) (hg : s.good) (h : s.Fires l th slot e i) :
    State.FaultTaken s (s.faulted e slot i code detail) l slot e code detail := by
  obtain ⟨hl, ht⟩ := findElem_key h.found
  subst hl ht
  have hp : (elemFault (e.acquire s.fab slot i) slot code detail s.fab).posted = [] := hg.2
  refine ⟨⟨Rec.ofElem s.fab (e.acquire s.fab slot i) slot code detail, rfl, ?_⟩, ?_, ?_, ?_, State.commit_mem hp⟩
  · refine ⟨?_, rfl, rfl, rfl, ?_, rfl, rfl, rfl, rfl, rfl, rfl⟩
    · simp only [Rec.ofElem, Rec.ofLine]; split <;> rfl
    · simp only [Rec.ofElem, Rec.ofLine, Elem.acquire_line]; split <;> rfl
  · intro x hx
    have hr : (Rec.ofElem s.fab (e.acquire s.fab slot i) slot code detail).line = e.line := by
      simp only [Rec.ofElem, Rec.ofLine, Elem.acquire_line]; split <;> rfl
    have hc : (Rec.ofElem s.fab (e.acquire s.fab slot i) slot code detail).code = code := by
      simp only [Rec.ofElem, Rec.ofLine, Elem.acquire_line]; split <;> rfl
    have := find?_upd (fun c : Line => c.id == e.line) (fun x => { x with stopSoon := some (x.stopSoon.getD code) }) (fun _ h => h) s.fab.lines
    simp only [findLine] at hx ⊢
    rw [hx] at this
    simp only [State.faulted, State.commit, elemFault, takeFault, updLine, hr, hc, if_true]
    exact this
  · intro l' hne
    have hr : (Rec.ofElem s.fab (e.acquire s.fab slot i) slot code detail).line = e.line := by
      simp only [Rec.ofElem, Rec.ofLine, Elem.acquire_line]; split <;> rfl
    simp only [findLine, State.faulted, State.commit, elemFault, takeFault, updLine, hr, if_true]
    refine find?_upd_ne _ _ _ (fun x hx => ?_) _
    have : x.id ≠ l' := fun h => hne (by rw [← h]; simpa using hx)
    simpa using this
  · simp only [State.faulted, State.commit, elemFault, takeFault, if_true]
    have := hg.2
    simp only [updLine, updElem, Elem.acquire_line, Elem.acquire_thread]
    congr 1
    exact this.symm

end Sys2Proof.Machine
end

