-- ==== Sys2Proof/Tests/Slice0.lean ====
section
/-!
SUPPORT. Tests: an ill-formed term for each check, words of the spec's examples decoded, single steps with results from the
spec's examples, and for every statement a state that meets its hypotheses.
-/
namespace Sys2Proof.Machine.Tests

set_option Elab.async false

/-! ## The check refuses ill-formed terms -/

theorem test_trigger_refused : (Instr.nop 64).wf = false := by decide
theorem test_code_refused : (Instr.trap 0 4096).wf = false ∧ (Instr.brk 0 4096).wf = false := by decide
theorem test_source_refused : (Instr.mov 0 .lat (.o 8)).wf = false ∧ (Instr.mov 0 .lat (.c 4)).wf = false
    ∧ (Instr.mov 0 .lat (.k 8)).wf = false ∧ (Instr.mov 0 .lat (.imm 32)).wf = false := by decide
theorem test_destination_refused : (Instr.mov 0 (.o 8) .lat).wf = false ∧ (Instr.mov 0 (.c 3) .lat).wf = false
    ∧ (Instr.mov 0 (.c 8) .lat).wf = false := by decide
theorem test_channel_destination_refused : (Instr.addi 0 (.c 4) 0).wf = false ∧ (Instr.mad 0 (.c 4) .lat .lat).wf = false
    ∧ (Instr.getm 0 (.c 4) 0).wf = false ∧ (Instr.peek 0 0 0 (.c 4)).wf = false := by decide
theorem test_constant_refused : (Instr.li 0 .lat 4096).wf = false ∧ (Instr.getm 0 .lat 64).wf = false
    ∧ (Instr.beatq 0 .lat 16).wf = false := by decide
theorem test_predicate_seven_refused : (Instr.pset 0 7 true).wf = false ∧ (Instr.plog 0 7 0 0 0).wf = false := by decide
theorem test_variant_refused : (Instr.cmp 0 6 .lat .lat .lat).wf = false ∧ (Instr.lred 0 4 .lat .lat).wf = false := by decide
theorem test_handle_refused : (Instr.advr 0 4 1).wf = false ∧ (Instr.advw 0 3 1).wf = false
    ∧ (Instr.steer 0 0 4 4 0).wf = false ∧ (Instr.merge 0 0 0 1 4).wf = false := by decide
theorem test_count_refused : (Instr.advr 0 0 0).wf = false ∧ (Instr.advr 0 0 16).wf = false ∧ (Instr.peek 0 0 15 .lat).wf = false := by
  decide
theorem test_tag_refused : (Instr.emit 0 4 6 .lat).wf = false ∧ (Instr.eos 0 4 2).wf = false := by decide
theorem test_window_refused : (Instr.ld 0 .lat .lat 8 false 0).wf = false ∧ (Instr.ld 0 .lat .lat 0 false 4).wf = false := by decide
theorem test_condition_refused : (Instr.bar (.token 8)).wf = false ∧ (Instr.bar (.node 16)).wf = false
    ∧ (Instr.bar (.idle 4)).wf = false := by decide
theorem test_command_refused : (Instr.loop .always 0 1).wf = false ∧ (Instr.cntw .always 0 17 1).wf = false
    ∧ (Instr.bind .always 0 64 0).wf = false ∧ (Instr.qfen .always 0).wf = false := by decide
theorem test_event_refused : (Instr.lqDb 0 0 0).wf = false ∧ (Instr.boltScrubDone 48).wf = false := by decide

/-! ## Decoding: words written out from the spec's encodings -/

/-- Reference examples of CTRRD, FCVTI, SUB, PLOG, EMIT, MERGE, ENAB, WAITN, SIGD. -/
theorem test_decode_examples :
    decodeElem 0x080C8640 = .ok (.ctrrd 2 (.o 0) (.k 1)) ∧ decodeElem 0x052CA400 = .ok (.fcvti 1 (.o 2) (.c 0))
    ∧ decodeElem 0x04280419 = .ok (.sub 1 .lat (.c 0) (.k 1)) ∧ decodeElem 0x10B50300 = .ok (.plog 4 2 0 1 8)
    ∧ decodeElem 0x094F0109 = .ok (.emit 2 6 1 (.o 1)) ∧ decodeElem 0x05641500 = .ok (.merge 1 0 1 2 4)
    ∧ decodeCmd 0x00148000 = .ok (.enab .always 1) ∧ decodeCmd 0x0010C080 = .ok (.waitn .always 3 128)
    ∧ decodeCmd 0x00180000 = .ok (.sigd .always) := by and_intros <;> rfl

/-- One more word of each family, from the reference entries' examples. -/
theorem test_decode_families :
    decodeElem 0x0474A400 = .ok (.popc 1 (.o 2) (.c 0)) ∧ decodeElem 0x04B001E0 = .ok (.pset 1 0 true)
    ∧ decodeElem 0x04B90000 = .ok (.pany 1 2) ∧ decodeElem 0x0D8CC010 = .ok (.stv 3 (.o 4) .lat 2 false 0)
    ∧ decodeElem 0x0588B000 = .ok (.st 1 (.o 3) .lat 0 false 0)
    ∧ decodeElem 0x0C000000 = .ok (.nop 3) ∧ decodeElem 0x04040064 = .ok (.trap 1 100) ∧ decodeElem 0x0608C000 = .ok (.seq 1 (.o 4))
    ∧ decodeElem 0x21D007C0 = .ok (.step 8 (.k 7)) ∧ decodeElem 0x06109680 = .ok (.range 1 (.o 1) (.k 2))
    ∧ decodeElem 0x0614A400 = .ok (.spawn 1 (.o 2) (.c 0)) ∧ decodeElem 0x0410B000 = .ok (.ebrd 1 (.o 3))
    ∧ decodeElem 0x08A8C940 = .ok (.putm 2 (.o 4) 37) ∧ decodeElem 0x08489250 = .ok (.xor 2 (.o 1) (.o 1) (.c 0))
    ∧ decodeElem 0x08F00440 = .ok (.lscan 2 0 .lat (.c 1)) ∧ decodeElem 0x05E8941A = .ok (.fcmp 1 2 (.o 1) (.c 0) (.k 2))
    ∧ decodeElem 0x11400800 = .ok (.advr 4 0 1) ∧ decodeElem 0x09481009 = .ok (.peek 2 0 2 (.o 1)) := by
  and_intros <;> rfl

/-- Reserved bits, unassigned opcodes and illegal fields are refused with the causes of R81. -/
theorem test_decode_refuses :
    decodeElem 0x0C000001 = .error .reservedBit ∧ decodeElem 0x04180000 = .error .unassigned ∧ decodeElem 0x04200000 = .ok (.add 1 .lat .lat .lat)
    ∧ decodeElem (word 1 0x08 (1 * 4096)) = .error .selector ∧ decodeElem (word 1 0x2C (7 * 32768)) = .error .predicateSeven
    ∧ decodeElem (word 1 0x50 0) = .error .countOrTag ∧ decodeCmd (word 0x18 0x03 0) = .error .stepCondition
    ∧ decodeCmd (word 0 0x01 (64 * 256)) = .error .port ∧ decodeCmd (word 0 0x08 0) = .error .range := by
  and_intros <;> rfl

/-! ## A small line to test with -/

/-- Line 0 of partition 1. -/
def L : Nat := 64

/-- A token with `w` in lane 0. -/
def tok (w tag : Nat) : Token := ⟨⟨BitVec.ofNat 32 w, 0, 0, 0, 0, 0, 0, 0⟩, tag, false, 0xFFF, 0, []⟩

/-- A channel of the line that holds the tokens `ts`, all visible. -/
def chan (n : Nat) (w r : End) (ts : List Token) : Chan :=
  { line := L, num := n, writer := w, reader := r, depth := 8, conv := 0, delay := 1, gate := false, crossTile := false, swage := none,
    swageHop := 0, ports := [], bnode := false,
    q := ts.map fun t => ⟨t, 0⟩, raw := [], part := [], staged := [], pend := none, freed := [], closed := false,
    nodePend := none, nodeEos := 0, gateRec := none }

/-- The window of handle w0: 64 bytes of the slice region below, on generator 0. -/
def win : Window := ⟨regionArea, 64, 0, 0, none⟩

/-- A slice region of 4,096 bytes of tile 0, unplaned, at the start of the region area. -/
def slice : Region :=
  { line := L, num := 0, name := 0, size := 4096, cls := 2, planes := 0, collide := 0, discard := false, slice := true, group := none,
    ovf := 0, tile := 0, at_ := 0, base := 0, pages := [], ovfPages := [], contribs := [], swapping := false }

/-- Where the slice region lies. -/
def home : Nat := 2 ^ 46

/-- The element under test. Handles: c0 and c1 data, c2 a control token, c3 the inbox; c4, c5 and c7 channels, c6 the outbox. -/
def el : Elem :=
  { bareElem L 0 with
    h := #v[.chan L 0, .chan L 1, .chan L 2, .inbox, .chan L 4, .chan L 5, .outbox, .chan L 7]
    w := vset (Vector.replicate 8 none) 0 (some win) }

/-- An item at work. -/
def item (done : Option Nat) : Item := ⟨5, { tok 9 1 with seq := 5 }, none, [], done, false⟩

/-- The station with an item and a free loop slot. -/
def stn : Station := { bareStation L with item := some (item none), loop := [⟨0, tok 0 0, 0, [], 0⟩] }

/-- Group 0 of the line: thread 0 a member, the only one. -/
def grp : Group :=
  { vf := 1, num := 0, line := L, members := [0], arrived := [], joining := [], step := 0, swapBy := none, collided := false,
    waiting := [], relIds := [], stepIds := [], doneIds := [], swapIds := [] }

/-- The line, running in beat 0, its source fed by channel 9, its arguments in the slice region. -/
def ln : Line := { bareLine L with args := regionArea, nargs := 4, srcChan := some (L, 9), begun := true, placedAt := 0 }

/-- The fabric under test, at cycle 100. -/
def fab : Fabric :=
  { Fabric.reset with
    cycle := 100, cur := .elem L 0 0, nextId := 50, lines := [ln], stations := [stn], tiles := [newTile L 0], elems := [el],
    regions := [slice], groups := [grp],
    ifaces := [{ Iface.reset 1 0 with rootEn := true }], gens := [newGen L 0 0, newGen L 0 1], copies := [newCopy L 0 0],
    hqs := [newHq L 0 0, newHq L 0 1],
    chans := [chan 0 .boundary (.elem L 0 0) [tok 7 1, tok 8 1], chan 1 .boundary (.elem L 0 1) [tok 6 1],
      chan 2 .boundary (.elem L 0 2) [tok 0 2], { chan 4 (.elem L 0 4) .sink [] with staged := [⟨tok 3 0, none, false⟩] },
      chan 5 (.elem L 0 5) .sink [], chan 7 (.elem L 0 7) .sink [], chan 9 .boundary (.inbox L 0) [tok 4 1]] }

/-- The state, with empty memory. -/
def st : State := ⟨fab, []⟩

/-- A state of a changed fabric. -/
def with_ (g : Fabric → Fabric) : State := ⟨g fab, []⟩

/-- The element word that fires in a state, if its conditions hold. -/
abbrev fires (s : State) (e : Elem) (i : Instr) : Prop :=
  i.wf = true ∧ s.fab.cur = .elem L 0 0 ∧ findElem s.fab L 0 = some e ∧ ready s.fab e i = true

theorem good_of (g : Fabric → Fabric) (h : (g fab).posted = []) : (with_ g).good := ⟨rfl, h⟩

theorem wit_good : st.good := ⟨rfl, rfl⟩

theorem Fires_of {s : State} {e : Elem} {i : Instr} (h : fires s e i) : i.wf = true ∧ s.Fires L 0 0 e i :=
  ⟨h.1, h.2.1, h.2.2.1, h.2.2.2⟩

/-! ## Every element word may fire somewhere -/

/-- One form of each element word. -/
def words : List Instr :=
  [.nop 1, .trap 1 0, .brk 1 0, .ctrrd 1 (.o 1) (.c 0), .ebrd 1 (.o 1), .add 1 (.o 1) (.c 0) (.imm 3), .addi 1 (.o 1) 0,
   .sub 1 (.o 1) (.c 0) (.imm 3), .mul 1 (.o 1) (.c 0) (.imm 3), .mulh 1 (.o 1) (.c 0) (.imm 3),
   .mulhu 1 (.o 1) (.c 0) (.imm 3), .mad 1 (.o 1) (.c 0) (.imm 3), .abs 1 (.o 1) (.c 0), .and 1 (.o 1) (.c 0) (.imm 3),
   .or 1 (.o 1) (.c 0) (.imm 3), .xor 1 (.o 1) (.c 0) (.imm 3), .andn 1 (.o 1) (.c 0) (.imm 3), .shl 1 (.o 1) (.c 0) (.imm 3),
   .shr 1 (.o 1) (.c 0) (.imm 3), .sra 1 (.o 1) (.c 0) (.imm 3), .rot 1 (.o 1) (.c 0) (.imm 3), .min 1 (.o 1) (.c 0) (.imm 3),
   .max 1 (.o 1) (.c 0) (.imm 3), .minu 1 (.o 1) (.c 0) (.imm 3), .maxu 1 (.o 1) (.c 0) (.imm 3), .clz 1 (.o 1) (.c 0),
   .popc 1 (.o 1) (.c 0), .bfx 1 (.o 1) (.c 0) (.imm 3), .bfi 1 (.o 1) (.c 0) (.imm 3), .cmp 1 0 (.o 1) (.c 0) (.imm 3),
   .bsel 1 (.o 1) (.c 0) (.imm 3), .getm 1 (.o 1) 0, .putm 1 (.c 0) 0, .mov 1 (.o 1) (.c 0), .pset 1 0 false, .plog 1 0 0 0 0,
   .pany 1 0, .pall 1 0, .li 1 (.o 1) 0, .lih 1 (.o 1) 0, .lbc 1 (.o 1) (.c 0) (.imm 3), .lshf 1 (.o 1) (.c 0) (.imm 3),
   .lred 1 0 (.o 1) (.c 0), .lscan 1 0 (.o 1) (.c 0), .fadd 1 (.o 1) (.c 0) (.imm 3), .fsub 1 (.o 1) (.c 0) (.imm 3),
   .fmul 1 (.o 1) (.c 0) (.imm 3), .fma 1 (.o 1) (.c 0) (.imm 3), .fmin 1 (.o 1) (.c 0) (.imm 3),
   .fmax 1 (.o 1) (.c 0) (.imm 3), .frcp 1 (.o 1) (.c 0), .frsq 1 (.o 1) (.c 0), .fexp2 1 (.o 1) (.c 0),
   .flog2 1 (.o 1) (.c 0), .ftanh 1 (.o 1) (.c 0), .fcvti 1 (.o 1) (.c 0), .fcvtf 1 (.o 1) (.c 0), .frnd 1 (.o 1) (.c 0),
   .fscl 1 (.o 1) (.c 0) (.imm 3), .advr 1 0 1, .advw 1 4 1, .peek 1 0 0 (.o 1), .emit 1 4 1 (.c 0), .eos 1 4 3,
   .chq 1 0 (.o 1), .steer 1 0 4 5 0, .merge 1 2 0 1 4, .ld 1 (.o 1) (.k 0) 0 false 0, .ldv 1 (.o 1) (.k 0) 0 false 0,
   .st 1 (.c 0) (.k 0) 0 false 0, .stv 1 (.c 0) (.k 0) 0 false 0, .atomAdd 1 (.c 0) (.k 0) 0 false 0,
   .atomMin 1 (.c 0) (.k 0) 0 false 0, .atomMax 1 (.c 0) (.k 0) 0 false 0, .atomAnd 1 (.c 0) (.k 0) 0 false 0,
   .atomOr 1 (.c 0) (.k 0) 0 false 0, .atomXor 1 (.c 0) (.k 0) 0 false 0, .atomXchg 1 (.c 0) (.k 0) 0 false 0,
   .atomFadd 1 (.c 0) (.k 0) 0 false 0, .cas 1 (.c 0) (.k 0) 0 false 0, .fence 1 0 false 0, .gnew 1 (.o 1), .gfree 1 (.imm 0),
   .join 1 (.imm 0), .leave 1 (.imm 0), .step 1 (.imm 0), .fcmp 1 0 (.o 1) (.c 0) (.imm 3), .done 1, .beatq 1 (.o 1) 0,
   .seq 1 (.o 1), .range 1 (.o 1) (.c 0), .spawn 1 (.o 1) (.c 0), .mxq 1 (.o 1) (.k 0) 0, .wpr 1 (.o 1) (.c 0)]

/-- The hypotheses of the results of all element words: `st` is good and each of them is well-formed and may fire in it. They are all
that IntegerArithmetic, BitsAndShifts, BitFields, ExtremaAndCounts, ComparesAndFloatExtrema, MovesAndConstants, LaneFolds,
FloatArithmetic, FloatFunctions, FloatConversions, PredicateWords, TrapAndBrk, MemoryWordsIssue, RequestsSent and the result
clauses of StateReads and GeneratorQueues assume. -/
theorem wit_words : ∀ i ∈ words, i.wf = true ∧ st.Fires L 0 0 el i := fun i h =>
  Fires_of ⟨(by decide : ∀ i ∈ words, i.wf = true) i h, rfl, rfl, (by decide : ∀ i ∈ words, ready st.fab el i = true) i h⟩

/-! ## The clauses of the statements about words -/

/-- Patterns with the special values the float clauses name, in FP32. -/
theorem wit_float_values : fval fp32 0x7FC00000 = .nan ∧ fval fp32 0x7F800000 = .inf false ∧ fval fp32 0xFF800000 = .inf true
    ∧ (∃ q, fval fp32 0 = .fin false 0 q) ∧ (∃ q, fval fp32 0x80000000 = .fin true 0 q)
    ∧ (∃ k q, fval fp32 0xC0800000 = .fin true (k + 1) q) ∧ (∃ k q, fval fp32 0x3F800000 = .fin false (k + 1) q) :=
  ⟨by decide, by decide, by decide, ⟨_, rfl⟩, ⟨_, rfl⟩, ⟨_, _, rfl⟩, ⟨_, _, rfl⟩⟩

/-- RoundingKeepsRepresentable: the greatest finite FP32 number. -/
theorem wit_rounding : fp32 = fp32 ∧ 0x7F7FFFFF < 2 ^ fp32.width ∧ fval fp32 0x7F7FFFFF ≠ .nan := by decide +kernel

/-- FloatConversions, FSCL: exponents at and beyond the clauses' limits occur in FP32 lanes. -/
theorem wit_fscl : elemS (65536 : Word) 0 32 = 65536 ∧ elemS (65537 : Word) 0 32 = 65537 ∧ elemS (0xFFFEFFFF : Word) 0 32 = -65537 := by
  decide +kernel

/-- ChannelReads: an input channel with a head, an empty one, an output channel. -/
theorem wit_channel_reads : vget el.h 0 = .chan L 0 ∧ (findChan fab L 0).map (fun c => (visible fab c).head?) = some (some (tok 7 1))
    ∧ fires (with_ fun f => { f with chans := [chan 0 .boundary (.elem L 0 0) []] }) el (.chq 1 0 .lat)
    ∧ visible fab (chan 0 .boundary (.elem L 0 0) []) = []
    ∧ vget el.h 4 = .chan L 4 ∧ (findChan fab L 4).isSome ∧ fires st el (.chq 1 4 .lat) ∧ fires st el (.peek 1 0 1 .lat)
    ∧ vget el.h 3 = .inbox ∧ stn.item = some (item none) ∧ fires st el (.chq 1 3 .lat)
    ∧ fires (with_ fun f => { f with stations := [{ stn with item := none }] }) el (.chq 1 3 .lat)
    ∧ vget el.h 6 = .outbox ∧ fires st el (.chq 1 6 .lat) := by decide +kernel

/-- R277: CHQ on the inbox shows the item's descriptor and number; it fires while its destination is awaited. -/
theorem test_chq : (match exec (.chq 1 3 (.o 0)) st with
    | .next t => (findElem t.fab L 0).map fun x => x.lat.v
    | _ => none) = some ⟨1, 0, 0, 1, 5, 0xFFF, 0, 1⟩
    ∧ ready fab { el with awaits := [⟨3, .o 0, false⟩] } (.chq 1 3 (.o 0)) = true := by decide +kernel

/-- StateReads: the tile, the line and the item read are there, and a copy channel of number 0. -/
theorem wit_state_reads : (findTile fab L 0).isSome ∧ findLine fab L = some ln ∧ findStation fab L 0 = some stn ∧ (workItem stn).isSome
    ∧ findCopy fab L 0 0 = some (newCopy L 0 0) := by decide +kernel

/-- DoneMarks: in the done set and outside it, the current item and a resumed one, each also complete, and no item at all. -/
theorem wit_done_marks : (findStation fab L 0 = some stn ∧ 0 ∈ stn.doneSet ∧ stn.resumed = none ∧ stn.item = some (item none))
    ∧ (let x : Station := { stn with doneSet := [1] }
       fires (with_ fun f => { f with stations := [x] }) el (.done 1) ∧ 0 ∉ x.doneSet)
    ∧ (let x : Station := { stn with resumed := some (0, item none) }
       fires (with_ fun f => { f with stations := [x] }) el (.done 1) ∧ x.resumed = some (0, item none))
    ∧ (let x : Station := { stn with resumed := some (0, item (some 3)) }
       fires (with_ fun f => { f with stations := [x] }) el (.done 1) ∧ (item (some 3)).done.isSome)
    ∧ (let x : Station := { stn with item := some (item (some 3)) }
       fires (with_ fun f => { f with stations := [x] }) el (.done 1) ∧ x.resumed = none)
    ∧ (let x : Station := { stn with item := none }
       fires (with_ fun f => { f with stations := [x] }) el (.done 1) ∧ x.resumed = none) := by decide +kernel

/-- Waiting: a word whose source is awaited, a command whose controller has stopped. -/
theorem wit_waiting :
    (let e : Elem := { el with awaits := [⟨3, .o 1, false⟩] }
     (Instr.mov 1 .lat (.o 1)).isCommand = false ∧ (encode (.mov 1 .lat (.o 1))).isSome
       ∧ findElem { fab with elems := [e] } L 0 = some e ∧ ready { fab with elems := [e] } e (.mov 1 .lat (.o 1)) = false)
    ∧ (let c : Ctl := { bareCtl L 0 with stopped := true }
       let f := { fab with ctls := [c], cur := .ctl L 0 0 0 }
       findCtl f L 0 0 = some c ∧ mayIssue f c 0 .always = false) := by decide +kernel

/-- ChannelPointers, ADVR: the inbox; n one above the filled count; n at the filled count. -/
theorem wit_advr : (fires st el (.advr 1 3 1) ∧ vget el.h 3 = .inbox)
    ∧ (fires st el (.advr 1 0 3) ∧ vget el.h 0 ≠ .inbox ∧ (inputView fab el 0).length = 2)
    ∧ (fires st el (.advr 1 0 2) ∧ vget el.h 0 = .chan L 0 ∧ 2 ≤ (inputView fab el 0).length) := by decide +kernel

/-- ChannelPointers, ADVW: the outbox; n one above the staged count; n at it, on a closed and on an open channel. -/
theorem wit_advw :
    let c : Chan := { chan 4 (.elem L 0 4) .sink [] with staged := [⟨tok 3 0, none, false⟩] }
    let s := with_ fun f => { f with chans := [{ c with closed := true }] }
    (fires st el (.advw 1 6 1) ∧ vget el.h 6 = .outbox)
    ∧ (fires st el (.advw 1 4 2) ∧ vget el.h 4 = .chan L 4 ∧ findChan fab L 4 = some c ∧ uncommitted c = 1)
    ∧ (fires s el (.advw 1 4 1) ∧ findChan s.fab L 4 = some { c with closed := true })
    ∧ (fires st el (.advw 1 4 1) ∧ c.closed = false ∧ ∀ x ∈ c.staged, x.await = none ∧ x.committed = false) := by decide +kernel

/-- EmitAndEos: a closed channel, a plain one, one with a mark pending; EOS of the least and the greatest rank. -/
theorem wit_emit :
    let c := chan 5 (.elem L 0 5) .sink []
    let s (x : Chan) := with_ fun f => { f with chans := [x] }
    (fires (s { c with closed := true }) el (.emit 1 5 0 (.k 0)) ∧ findChan (s { c with closed := true }).fab L 5 = some { c with closed := true })
    ∧ (fires st el (.emit 1 5 2 (.k 0)) ∧ findChan fab L 5 = some c ∧ c.closed = false ∧ c.pend = none ∧ c.staged = [])
    ∧ fires st el (.emit 1 5 3 (.k 0)) ∧ fires st el (.eos 1 5 3)
    ∧ (let p : Chan := { c with pend := some (tok 0 5) }
       fires (s p) el (.eos 1 5 3) ∧ fires (s p) el (.emit 1 5 5 (.k 0)) ∧ findChan (s p).fab L 5 = some p) := by decide +kernel

/-- SteerAndMerge, STEER: a data head to a closed and to a plain output, and an end-of-stream head. -/
theorem wit_steer :
    let out (n : Nat) := chan n (.elem L 0 n) .sink []
    let s (h : Token) (y : Chan) := with_ fun f => { f with chans := [chan 0 .boundary (.elem L 0 0) [h], out 4, y, out 7] }
    (fires (s (tok 7 1) { out 5 with closed := true }) el (.steer 1 0 4 5 0) ∧ predVal fab el 0 = false
      ∧ (inputView (s (tok 7 1) { out 5 with closed := true }).fab el 0).head? = some (tok 7 1))
    ∧ (fires (s (tok 7 1) (out 5)) el (.steer 1 0 4 5 0) ∧ vget el.h 5 = .chan L 5 ∧ vget el.h 0 = .chan L 0
      ∧ findChan (s (tok 7 1) (out 5)).fab L 5 = some (out 5) ∧ (out 5).closed = false ∧ (out 5).staged = [])
    ∧ (fires (s (tok 0 4) (out 5)) el (.steer 1 0 4 5 0) ∧ (inputView (s (tok 0 4) (out 5)).fab el 0).head? = some (tok 0 4)
      ∧ [(L, 0), (L, 4), (L, 5)].Nodup) := by decide +kernel

/-- SteerAndMerge, MERGE: a control head of data; of each choice; of end of stream with both and with one end-of-stream input. -/
theorem wit_merge :
    let out := chan 5 (.elem L 0 5) .sink []
    let s (c a b : Token) := with_ fun f => { f with chans :=
      [chan 0 .boundary (.elem L 0 0) [a], chan 1 .boundary (.elem L 0 1) [b], chan 2 .boundary (.elem L 0 2) [c], out] }
    let i : Instr := .merge 1 2 0 1 5
    fires (s (tok 0 1) (tok 7 1) (tok 6 1)) el i
    ∧ fires (s (tok 0 2) (tok 7 1) (tok 6 1)) el i ∧ fires (s (tok 1 2) (tok 7 1) (tok 6 1)) el i
    ∧ (inputView (s (tok 1 2) (tok 7 1) (tok 6 1)).fab el 1).head? = some (tok 6 1) ∧ [(L, 2), (L, 1), (L, 5)].Nodup
    ∧ fires (s (tok 0 3) (tok 0 3) (tok 6 1)) el i ∧ fires (s (tok 0 5) (tok 0 3) (tok 0 4)) el i
    ∧ [(L, 2), (L, 0), (L, 1), (L, 5)].Nodup := by decide +kernel

/-- A store of the element on its way. -/
def waiting (id : Nat) : Acc :=
  { id := id, line := L, th := 0, slot := 0, kind := .st, gen := 0, win := 0, d := .lat, off := Lanes.zero, data := Lanes.zero,
    cmp := Lanes.zero, poison := false, ordered := false, scope := 0, seq := 0, node := 0, loopv := 0, phys := [], keys := [], miss := false,
    halted := false, need := [], know := [], base := [], late := [], negOff := false, got := [], gotRels := [], result := none, rels := [],
    stepAt := [] }

/-- GeneratorQueues: a handle with no window, a generator with 32 entries, one that runs a pattern. -/
theorem wit_generator_room :
    let a := waiting 1
    vget el.w 1 = none ∧ vget el.w 0 = some win
    ∧ 32 ≤ ((List.replicate 32 a).filter fun a => a.line == L && tileOf a.th == 0 && a.gen == 0).length
    ∧ findGen { fab with gens := [{ newGen L 0 0 with running := true }] } L 0 0 = some { newGen L 0 0 with running := true } := by decide +kernel

/-- All 4,096 numbers of partition 1 taken. -/
def allGroups : List Group := (List.range 4096).map fun n => { grp with num := n }

theorem allGroups_find (n : Nat) (h : n < 4096) : (allGroups.find? fun c => c.vf == 1 && c.num == n).isSome := by
  rw [allGroups, List.find?_isSome]
  exact ⟨{ grp with num := n }, List.mem_map.mpr ⟨n, List.mem_range.mpr h, rfl⟩, by simp [grp]⟩

def full : State := with_ fun f => { f with groups := allGroups }

/-- Groups: no number free. -/
theorem wit_groups_full : full.Fires L 0 0 el (.gnew 1 .lat)
    ∧ ∀ n, n < 4096 → ¬(findGroup full.fab (vfOf L) n = none ∧ (vfOf L, n) ∉ full.fab.freed) := by
  refine ⟨⟨by decide +kernel, by decide +kernel, by decide +kernel⟩, fun n h => ?_⟩
  have g : full.fab.groups = allGroups := by simp only [full, with_]
  have v : vfOf L = 1 := rfl
  have x := allGroups_find n h
  rw [findGroup, g, v]
  intro y
  simp [y.1] at x

/-- Groups: the lowest free number 1, and 2 where 1 was freed in this cycle; a group that can and one that cannot be freed. -/
theorem wit_group_numbers :
    (fires st el (.gnew 1 (.o 0)) ∧ findGroup fab (vfOf L) 1 = none ∧ (vfOf L, 1) ∉ fab.freed ∧ ∀ m, m < 1 → findGroup fab (vfOf L) m ≠ none)
    ∧ (let s := with_ fun f => { f with freed := [(1, 1)] }
       fires s el (.gnew 1 (.o 0)) ∧ findGroup s.fab (vfOf L) 2 = none ∧ (vfOf L, 2) ∉ s.fab.freed
         ∧ ∀ m, m < 2 → ¬(findGroup s.fab (vfOf L) m = none ∧ (vfOf L, m) ∉ s.fab.freed))
    ∧ (let g : Group := { grp with members := [] }
       let s := with_ fun f => { f with groups := [g] }
       fires s el (.gfree 1 (.imm 0)) ∧ findGroup s.fab (vfOf L) 0 = some g ∧ boundRegions s.fab g = [])
    ∧ (fires st el (.gfree 1 (.imm 0)) ∧ findGroup fab (vfOf L) 0 = some grp ∧ grp.members ≠ []) := by decide +kernel

/-- The fabric with one group in place of its own. -/
def grouped (g : Group) (rs : List Region := [slice]) : State :=
  with_ fun f => { f with groups := [g], regions := rs }

/-- The group with the arrival of its other member. -/
def lastOf : Group := { grp with members := [0, 1], arrived := [1] }

/-- Groups, JOIN: no such group; a member; a new member before and after an arrival; a joining thread. -/
theorem wit_join :
    let j : Instr := .join 1 (.imm 0)
    (fires st el (.join 1 (.imm 1)) ∧ findGroup fab (vfOf L) 1 = none) ∧ fires st el j
    ∧ fires (grouped { grp with members := [] }) el j ∧ fires (grouped { grp with members := [1, 2], arrived := [1] }) el j
    ∧ fires (grouped { grp with members := [1], joining := [0] }) el j := by decide +kernel

/-- Groups, LEAVE: neither a member nor joining; a joining thread; the departures. -/
theorem wit_leave :
    let l : Instr := .leave 1 (.imm 0)
    fires (grouped { grp with members := [1] }) el l ∧ fires (grouped { grp with members := [1], joining := [0] }) el l
    ∧ fires (grouped { grp with members := [0, 1] }) el l ∧ fires (grouped grp) el l
    ∧ fires (grouped lastOf) el l := by decide +kernel

theorem wit_leave_clauses :
    findGroup (grouped grp).fab (vfOf L) 0 = some grp ∧ (∀ m ∈ [0, 1], m ≠ 0 → m ∈ [1])
    ∧ boundRegions (grouped lastOf).fab lastOf = [] := by decide +kernel

/-- A region bound to the group, with two contributions to one word. -/
def bound (c : Nat) : Region :=
  let one : Contrib := ⟨2, 0, 5, false, 0, 0, 0, 0, 0⟩
  { slice with planes := 1, collide := c, group := some 0, contribs := [one, { one with who := 1 }] }

/-- StepsComplete: no member; one of two; the last of two, alone, and beside a region with a collision that its rule settles and one
that faults. -/
theorem wit_steps :
    let i : Instr := .step 1 (.imm 0)
    fires (grouped { grp with members := [1] }) el i ∧ fires (grouped { grp with members := [0, 1] }) el i
    ∧ fires (grouped lastOf) el i ∧ fires (grouped lastOf [bound 1]) el i
    ∧ fires (grouped lastOf [bound 0]) el i := by decide +kernel

theorem wit_steps_clauses :
    (∃ m ∈ [0, 1], m ≠ 0 ∧ m ∉ ([] : List Nat)) ∧ (∀ m ∈ [0, 1], m = 0 ∨ m ∈ [1])
    ∧ boundRegions (grouped lastOf [bound 1]).fab lastOf = [bound 1] ∧ (bound 1).collide ≠ 0
    ∧ boundRegions (grouped lastOf [bound 0]).fab lastOf = [bound 0] := by decide +kernel

/-- A region bound to the group under the fault rule, with one contribution. -/
def alone : Region := { bound 0 with contribs := (bound 0).contribs.take 1 }

/-- StepsComplete, Groups and PlanesSwap: a word of two contributors, under the fault rule, in the last member's step, and no such word: with another rule,
and with one contributor. -/
theorem wit_clashes : (bound 0).clashes 0 2 ∧ (grouped lastOf [bound 1]).clean lastOf
    ∧ (grouped lastOf [alone]).clean lastOf ∧ fires (grouped lastOf [alone]) el (.step 1 (.imm 0)) ∧ fires (grouped lastOf [alone]) el (.leave 1 (.imm 0))
    ∧ fires (grouped lastOf [bound 0]) el (.leave 1 (.imm 0)) := by
  have one (r : Region) (h : r ∈ boundRegions (grouped lastOf [alone]).fab lastOf) : r = alone :=
    List.mem_singleton.mp ((by decide +kernel : boundRegions (grouped lastOf [alone]).fab lastOf = [alone]) ▸ h)
  have other (r : Region) (h : r ∈ boundRegions (grouped lastOf [bound 1]).fab lastOf) : r = bound 1 :=
    List.mem_singleton.mp ((by decide +kernel : boundRegions (grouped lastOf [bound 1]).fab lastOf = [bound 1]) ▸ h)
  refine ⟨⟨rfl, by decide +kernel⟩, fun r h st w _ c => ?_, fun r h st w _ c => ?_, by decide +kernel, by decide +kernel, by decide +kernel⟩
  · obtain rfl := other r h
    exact absurd c.1 (by decide)
  · obtain rfl := one r h
    have n : alone.contribs.length = 1 := rfl
    have := List.length_filter_le (fun x : Contrib => x.step == st && x.word == w) alone.contribs
    have := c.2
    omega

/-- R122: the record of a held swap: the clashing word's offset, and the element whose contribution is the lowest. -/
theorem test_collision : (match exec (.step 1 (.imm 0)) (grouped lastOf [bound 0]) with
    | .next u => u.fab.newRecs.map fun r => (r.code, r.addr, r.kind, r.elem, r.slot)
    | _ => []) = [(8, 8, 0, 0, 0)] := by decide +kernel

/-! ## Commands -/

/-- The controller about to issue, and a second one below it. -/
def ct : Ctl := bareCtl L 0
def ct1 : Ctl := { bareCtl L 0 with num := 1 }

/-- A pattern of one element of the window. -/
def pat (write : Bool) : Pattern := ⟨write, true, 4, 0, (1, 1, 1), (4, 0, 0), win, 0, 0⟩

/-- A template of one row of 32 bytes. -/
def tmpl : Template :=
  { addr := regionArea, gather := false, cross := false, remote := false, mcast := false, wbuf := false, scope := 0, node := 0, count := false,
    decl := 0, src := regionArea, dst := regionArea + 64, rowb := 32, rows := 1, sstr := 0, dstr := 0, idx := 0, dev := 0, mbr := 0, mbuf := 0,
    bstr := 0 }

/-- The state in which `c` is about to issue, beside `ct1` and a count node that has counted 10. -/
def issuing (c : Ctl) (g : Fabric → Fabric := id) : State :=
  with_ fun f => g { f with cur := .ctl L 0 0 0, ctls := [c, ct1],
                            cnts := [{ line := L, tile := 0, num := 0, chan := some 7, scope := 0, pois := false, tgt := 4, val := 3, tot := 10,
                                       addr := none, queue := [], ids := [], fired := 2, rel := [] }] }

abbrev issues (s : State) (c : Ctl) : Prop := s.fab.cur = .ctl L 0 0 0 ∧ findCtl s.fab L 0 0 = some c ∧ mayIssue s.fab c 0 .always = true

theorem Issues_of {s : State} {c : Ctl} (h : issues s c) : s.Issues L 0 0 0 c .always := ⟨h.1, h.2.1, h.2.2⟩

/-- The hypotheses of all command statements: a controller of each mode that may issue; a slot that can be read. -/
theorem wit_commands : issues (issuing ct) ct ∧ issues (issuing { ct with mode := 1 }) { ct with mode := 1 }
    ∧ issues (issuing { ct with mode := 2 }) { ct with mode := 2 } ∧ argReady 0 [] (issuing ct).fab ct = true := by decide +kernel

/-- LoopsAndHalts: no count running, a count of 0 and of 1, one with a slot that cannot be read; HALTC in pipe mode with and without a command outstanding. -/
theorem wit_loops : issues (issuing { ct with loops := [(0, 0)] }) { ct with loops := [(0, 0)] }
    ∧ issues (issuing { ct with loops := [(0, 1)] }) { ct with loops := [(0, 1)] }
    ∧ (let c : Ctl := { ct with loops := [(0, 1)] }
       let s := issuing c fun f => { f with lines := [{ ln with args := 0 }] }
       issues s c ∧ argReady 0 [] s.fab c = false)
    ∧ (let c : Ctl := { ct with mode := 1 }
       let s := issuing c fun f => { f with cmds := [⟨3, L, 0, 0, 0, 2, 0, 0, []⟩] }
       issues s c ∧ (∃ y ∈ openCmds s.fab c, y.kind ≠ 3) ∧ openCmds (issuing c).fab c = []) := by decide +kernel

/-- EngineCommands: BIND and GO; ARM and DISARM of a queue unarmed, DISARM of an armed one; QFEN of two queues. -/
theorem wit_engine_commands : bindMay 0 0 [] (issuing ct).fab ct = true
    ∧ (let s := issuing ct fun f => { f with gens := [{ newGen L 0 0 with pat := some (pat false) }] }
       issues s ct ∧ (findGen s.fab L 0 0).any fun x => x.pat.isSome && !x.running)
    ∧ ((findHq (issuing ct).fab L 0 0).any fun x => x.tmpl.isNone && x.arming.isNone && x.disarm.isNone)
    ∧ (let s := issuing ct fun f => { f with hqs := [{ newHq L 0 0 with tmpl := some tmpl }] }
       issues s ct ∧ (findHq s.fab L 0 0).any fun x => x.tmpl.isSome && x.arming.isNone && x.disarm.isNone)
    ∧ (findHq (issuing ct).fab L 0 1).isSome ∧ (3 : Nat).testBit 1 = true ∧ (3 : Nat).testBit 2 = false := by decide +kernel

/-- TreeCommands: BAR with nothing, with a command outstanding, with a copy entry in work and with a token on an armed queue; WAITN at its count, one below it, and 2^31 below it. -/
theorem wit_tree_commands :
    (∀ y ∈ (issuing ct).fab.cmds, ¬(y.line = L ∧ y.tile = 0)) ∧ (∀ k ∈ (issuing ct).fab.copies, k.busy = false)
    ∧ (let s := issuing ct fun f => { f with copies := [{ newCopy L 0 0 with busy := true, id := 3 }] }
       issues s ct ∧ ∃ k ∈ s.fab.copies, k.line = L ∧ k.tile = 0 ∧ k.busy = true ∧ k.id < s.fab.nextId)
    ∧ (∀ h ∈ (issuing ct).fab.hqs, h.line = L → h.tile = 0 → (h.tmpl.isSome = true ∨ h.arming.isSome = true) →
        placedNow (issuing ct).fab L 0 h.num ≤ h.entries)
    ∧ (let s := issuing ct fun f => { f with
         hqs := [{ newHq L 0 0 with tmpl := some tmpl }], chans := [chan 0 .boundary (.queue 0 0) [tok 7 0]] }
       issues s ct ∧ (findHq s.fab L 0 0).any fun h => h.tmpl.isSome && decide (h.entries < placedNow s.fab L 0 0))
    ∧ (let c : Ctl := { ct with mode := 1 }
       let s := issuing c fun f => { f with cmds := [⟨3, L, 0, 0, 0, 2, 0, 0, []⟩] }
       issues s c ∧ ∃ y ∈ s.fab.cmds, y.line = L ∧ y.tile = 0 ∧ y.kind ≠ 3 ∧ y.id < s.fab.nextId
         ∧ ∀ z ∈ s.fab.cmds, z.id = y.id → z.kind ≠ 3)
    ∧ ((findCnt (issuing ct).fab L 0 0).map fun k => k.tot) = some 10
    ∧ (10 + 4294967296 - 10 % 4294967296) % 4294967296 < 2147483648 ∧ ¬(10 + 4294967296 - 11 % 4294967296) % 4294967296 < 2147483648
    ∧ (findCtl (issuing ct).fab L 0 1).any (fun x => decide (x.enabOut.length < x.enabWin) && x.enabOut.isEmpty)
    ∧ ct.sigs + 1 = ct.doneWin
    ∧ issues (issuing { ct with doneWin := 2, enabOut := [3] }) { ct with doneWin := 2, enabOut := [3] } := by decide +kernel

/-- LineCommands: a RECFG behind another one, and one of an image that is not there. -/
theorem wit_line_commands :
    (let s := issuing ct fun f => { f with lines := [{ ln with closing := true, state := 4, recfg := [(0, 0, 7)] }] }
     issues s ct ∧ argReady 0 [] s.fab ct = true)
    ∧ ln.closing = false ∧ ln.recfg = [] := by decide +kernel

/-! ## The beat -/

/-- BellowsDecides: overruns at HIGH and one below, at LOW with no stretch, and a window that does not end. -/
theorem wit_bellows : bareBellows.wbeats + 1 = bareBellows.window ∧ bareBellows.high ≤ min (0 + 1) 65535
    ∧ min (0 + 0) 65535 < bareBellows.high ∧ min (0 + 0) 65535 ≤ bareBellows.low ∧ bareBellows.wstr = false
    ∧ ({ bareBellows with window := 2 } : Bellows).wbeats + 1 ≠ 2 ∧ ({ bareBellows with fixed := false } : Bellows).fixed = false := by
  decide

/-- R33, R269: a policy with values out of their ranges: MIN 2, MAX 3, WINDOW 0, LOW and HIGH 65,535 and 7, STALL_LIMIT 0, BEAT 9, on a floor of 6. -/
theorem test_policy : let x := bellowsEdge (some (.policy ⟨0x10009, 0x30002, 0x20001, 0, 0x7FFFF, 0, 0, 0⟩)) 0 1 0 { bareBellows with floor := 6, wovr := 3 }
    (x.ovfRaise, x.beat, x.min, x.max, x.up, x.down, x.window) = (true, 6, 4, 6, 1, 2, 1) ∧ (x.low, x.high, x.stall, x.wovr, x.ovf) = (65534, 65535, 1, 0, 1) := by
  decide

/-- A line whose beat is over. -/
def lnEnd : Line := { ln with cyc := 4 }

/-- EdgesMoveItems: an edge of a line of two stations, its first item complete, behind a free and
behind a guarded port, unfinished with a free slot, and with none, or a finished item in its loop. -/
theorem wit_edges :
    let s (x : Station) := with_ fun f => { f with lines := [lnEnd], stations := [x, { stn with num := 1, item := none, loop := [] }] }
    let done : Station := { stn with item := some (item (some 3)) }
    let crowded : Station := { stn with loop := [] }
    beatEdgeDue L [] (s done).fab = true ∧ (item (some 3)).complete = true
    ∧ firstGuard (s done).fab L done.ports = none
    ∧ (let g : Station := { done with ports := [2] }
       beatEdgeDue L [] (s g).fab = true ∧ firstGuard (s g).fab L g.ports = some 2)
    ∧ (let g : Station := { stn with item := none, loop := [⟨2, tok 3 1, 0, [], 0⟩] }
       beatEdgeDue L [] (s g).fab = true ∧ oldest 2 g = some 0)
    ∧ beatEdgeDue L [] (s stn).fab = true ∧ (item none).complete = false ∧ overflows stn = false
    ∧ beatEdgeDue L [] (s crowded).fab = true ∧ overflows crowded = true
    ∧ ((stationsOf (s done).fab L).map fun st => st.num).Nodup
    ∧ (∀ r ∈ (s done).fab.regions, r.line = L → r.planes ≠ 2)
    ∧ stretchEdgeDue L [] { (s done).fab with lines := [{ lnEnd with overflowing := [0], stretch := 3 }] } = true := by decide +kernel

/-- A line of a voted station, its copies' items complete, and the station behind it. -/
def voted (it : Nat → Item) : State :=
  with_ fun f => { f with
    lines := [lnEnd], voters := [⟨L, 0, 0, 0, 0, 0, 0, [], [], [], [], 0⟩],
    stations := ((List.range 3).map fun k => { stn with num := k, vote := some (0, k), item := some (it k) })
      ++ [{ stn with num := 3, item := none, loop := [] }] }

/-- EdgesMoveItems: three copies that agree, and the station behind them. -/
theorem wit_voted : let s := voted fun _ => item (some 3)
    beatEdgeDue L [] s.fab = true ∧ ((stationsOf s.fab L).map fun st => st.vote) = [some (0, 0), some (0, 1), some (0, 2), none]
    ∧ (∀ st ∈ stationsOf s.fab L, firstGuard s.fab L st.ports = none) ∧ voterChan s.fab L 0 = none
    ∧ (findVoter s.fab L 0).any (fun x => x.held.isEmpty && x.fwd.isEmpty && x.wait.isEmpty && x.out.isEmpty) = true
    ∧ (item (some 3)).complete = true ∧ sameToken (handedOn (item (some 3))) (handedOn (item (some 3))) = true
    ∧ stageOf (stationsOf s.fab L) 0 = stageOf (stationsOf s.fab L) 2 ∧ stageOf (stationsOf s.fab L) 3 = 1 := by decide +kernel

/-- BeatsBeginAndStall: the first edge; a stall; a resumption; a mark to commit; a walk. -/
theorem wit_beats :
    (let x : Line := { ln with begun := false }
     let f := { fab with lines := [x] }
     (∀ r ∈ f.regions, r.line = L → r.planes ≠ 2) ∧ x.pendBeat = none ∧ x.eosTok = none ∧ x.closing = false ∧ x.preempt = false
       ∧ x.gap < 2 ∧ x.unordered = false
       ∧ lineFirstEdgeDue L [] { f with lines := [{ x with pendBeat := some (.set 9) }] } = true
       ∧ lineFirstEdgeDue L [] f = true ∧ findLine f L = some x ∧ inputHead f x = some (tok 4 1) ∧ (x.nextSeq + 65536 - x.next) % 65536 ≤ lineW f L)
    ∧ (let x : Line := { lnEnd with overflowing := [0], stretch := 1 }
       let f := { fab with lines := [x] }
       lineStallDue L [] f = true ∧ findLine f L = some x ∧ ∀ k ∈ x.overflowing, (findStation f L k).isSome)
    ∧ (let y : Station := { stn with item := none, carry := [(0, 3), (0, 64)], loop := [⟨1, tok 2 1, 0, [Reg.zero, Reg.zero], 0⟩] }
       let f := { fab with stations := [y] }
       reworkResumeDue L 0 [] f = true ∧ oldest 1 y = some 0 ∧ y.carry.Nodup ∧ ∀ c ∈ y.carry, c.2 < 8 ∨ 64 ≤ c.2 ∧ c.2 < 128)
    ∧ (let c : Chan := { chan 5 (.elem L 0 5) .sink [] with pend := some (tok 0 3) }
       let f (c : Chan) := { fab with chans := [c] }
       eosCommitDue L 0 5 [] (f c) = true ∧ findChan (f c) L 5 = some c ∧ c.closed = false ∧ c.staged = []
         ∧ eosCommitDue L 0 5 [] (f { c with closed := true }) = true)
    ∧ (let x : Line := { ln with walk := some ⟨5, 0, 0, 5⟩ }
       let f := { fab with lines := [x], parts := [{ Part.reset 1 with trcLog := 4 }] }
       traceWalkDue L [] f = true ∧ findLine f L = some x ∧ (walkHops f L 32 0 5).1 ≠ [] ∧ (getPart f x.vf).trcLog ≠ 0) := by decide +kernel

/-! ## Accesses -/

/-- No write is in a word's history, so a reader can be given one value of each word only. -/
theorem settled_of {s : State} (h : s.fab.hist = []) (n : Nat) (k l : List Nat) : s.settled n k l := by intro a; simp [candidates, seenWrites, h]

/-- The state is calm. -/
abbrev calmly (s : State) : Prop := s.fab.errs = [] ∧ s.fab.poison = [] ∧ s.fab.wpoison = [] ∧ s.fab.scrub = []

/-- An access of the element through its window, placed at the window's words. -/
def acc (k : AccKind) : Acc :=
  { id := 7, line := L, th := 0, slot := 0, kind := k, gen := 0, win := 0, d := .lat, off := ⟨0, 4, 8, 12, 16, 20, 24, 28⟩, data := Lanes.rep 5,
    cmp := Lanes.zero, poison := false, ordered := false, scope := 0, seq := 0, node := 0, loopv := 0,
    phys := (List.range 8).map fun i => some (home + 4 * i, false, 2), keys := [], miss := false, halted := false, need := [], know := [], base := [], late := [],
    negOff := false, got := [], gotRels := [], result := none, rels := [], stepAt := [] }

/-- The state in which the access is queued, and its element awaits it. -/
def queued (a : Acc) (g : Fabric → Fabric := id) : State :=
  with_ fun f => g { f with accs := [a], elems := [{ el with awaits := [⟨7, .o 2, false⟩] }] }

/-- ReadsReturn: a load and an atomic of eight disjoint words. -/
theorem wit_reads : loadReturnDue 7 [] (queued (acc .ld)).fab = true ∧ calmly (queued (acc .ld))
    ∧ (accRuns (queued (acc .ld)).fab (acc .ld))[7]? = some [⟨regionArea + 28, 4, home + 28, false, 2⟩]
    ∧ atomicReturnDue 7 [] (queued (acc (.atom 0))).fab = true ∧ accWindow (queued (acc (.atom 0))).fab (acc (.atom 0)) = some win
    ∧ accRuns (queued (acc .cas)).fab (acc .cas) = (List.range 8).map (fun i => [⟨regionArea + 4 * i, 4, home + 4 * i, false, 2⟩])
    ∧ atomicReturnDue 7 [] (queued (acc .cas)).fab = true
    ∧ ((queued (acc .ld)).fab.elems.head?.bind fun e => e.awaits.find? fun a => a.id == 7) = some ⟨7, .o 2, false⟩ := by
  decide +kernel

/-- ReadsReturn: the last word of a compare-and-swap, which charges no quota. Of eight words left, the free number decides how many one
event performs. -/
theorem wit_cas_last :
    let a : Acc := { acc .cas with got := (List.range 7).map fun i => (i, 0, false) }
    let f := newAccess (queued a).fab
    let q := casCharges [] a (fun _ => 0) [7] f
    atomicReturnDue 7 [] (queued a).fab = true ∧ (List.range 8).filter (fun i => !(a.got.any fun g => g.1 == i)) = [7]
    ∧ (atomShare a f).1 = 1 ∧ q.1 = none ∧ q.2.posted = [] ∧ q.2.scrub = [] ∧ q.2.accs = [a] := by decide +kernel

/-- ReadsReturn: an atomic on words of a planed region. -/
theorem wit_atomic_planed :
    let a : Acc := { acc (.atom 0) with phys := (List.range 8).map fun i => some (home + 4 * i, true, 2) }
    let s := queued a fun f => { f with regions := [{ slice with planes := 1 }] }
    atomicReturnDue 7 [] s.fab = true ∧ calmly s ∧ accWindow s.fab a = some win ∧ (∀ x ∈ a.phys, ∃ p c, x = some (p, true, c))
    ∧ ∀ r ∈ s.fab.regions, r.ovfPages = [] := by
  refine ⟨by decide +kernel, by decide +kernel, by decide +kernel, ?_, by decide +kernel⟩
  intro x h
  obtain ⟨i, -, rfl⟩ := List.mem_map.mp h
  exact ⟨_, _, rfl⟩

/-- ReadsReturn and StoresAreAccepted: words that the window's base leaves unaligned, each two runs that lie apart (R376). -/
def skewWin : Window := { win with base := regionArea + 2 }
def skewed (k : AccKind) (pl : Bool) : Acc :=
  { acc k with off := Lanes.zero, phys := (List.range 8).flatMap fun i => [some (home + 4 * i + 2, pl, 2), some (home + 4 * i + 4, pl, 2)] }
def skew (k : AccKind) (pl : Bool) (r : Region) : State :=
  queued (skewed k pl) fun f => { f with regions := [r], elems := [{ el with w := vset (Vector.replicate 8 none) 0 (some skewWin), awaits := [⟨7, .o 2, false⟩] }] }

theorem wit_unaligned :
    let rs (pl : Bool) (i : Nat) : List Run := [⟨regionArea + 4 * i + 2, 2, home + 4 * i + 2, pl, 2⟩, ⟨regionArea + 4 * i + 4, 2, home + 4 * i + 4, pl, 2⟩]
    loadReturnDue 7 [] (skew .ldv false slice).fab = true ∧ calmly (skew .ldv false slice)
    ∧ accRuns (skew .ldv false slice).fab (skewed .ldv false) = (List.range 8).map (rs false)
    ∧ ((rs false 7).map Run.len).sum = 4 ∧ home + 30 + 2 ≤ home + 32
    ∧ storeAcceptDue 7 [] (skew .stv true { slice with planes := 1 }).fab = true
    ∧ (∀ ss ∈ accRuns (skew .stv true { slice with planes := 1 }).fab (skewed .stv true), ∀ x ∈ ss, x.planed = true)
    ∧ (storeAll [] (skewed .stv true) (lastLanes (storeRuns (skew .stv true { slice with planes := 1 }).fab (skewed .stv true)))
        (newAccess (skew .stv true { slice with planes := 1 }).fab)).isSome = true
    ∧ (findRegion (skew .stv true { slice with planes := 1 }).fab L 0) = some { slice with planes := 1 } := by decide +kernel

/-- ReadsReturn and MatrixTasks: the runs of such words, and of words on aligned addresses, are sound and apart. -/
theorem wit_sound : (∀ x ∈ accRuns (queued (acc .ld)).fab (acc .ld), (queued (acc .ld)).sound x)
    ∧ (∀ x ∈ accRuns (skew .ldv false slice).fab (skewed .ldv false), (skew .ldv false slice).sound x)
    ∧ ∀ x ∈ accRuns (skew .ldv false slice).fab (skewed .ldv false), x.Pairwise Run.apart := by
  unfold State.sound Run.apart
  decide +kernel

/-- A load of a row through such a window reads byte for byte; a store leaves the rest of the two aligned words it ends in (R376). -/
theorem test_unaligned :
    (match exec (.loadReturn 7) ⟨(skew .ldv false slice).fab, [(home + 2, 1), (home + 5, 4), (home + 6, 9)]⟩ with
     | .next t => (findElem t.fab L 0).map fun x => (x.lat.v.l0, x.lat.v.l1)
     | _ => none) = some (0x04000001, 9)
    ∧ (match exec (.storeAccept 7) ⟨(skew .stv false slice).fab, [(home + 1, 8), (home + 34, 8)]⟩ with
       | .next t => [home + 1, home + 2, home + 6, home + 30, home + 34].map t.byte
       | _ => []) = [8, 5, 5, 5, 8] := by decide +kernel

theorem wit_reads_settled : (queued (acc .ld)).settled L [] [] := settled_of rfl _ _ _

/-- 8,192 entries of the collision buffer, in use. -/
def crowd : List Contrib := List.replicate 8192 ⟨0, 2, 0, false, 0, 0, 0, 1, 0⟩

/-- StoresAreAccepted: a store of eight words in one place each, and a FENCE. -/
theorem wit_stores : storeAcceptDue 7 [] (queued (acc .st)).fab = true ∧ accWindow (queued (acc .st)).fab (acc .st) = some win
    ∧ calmly (queued (acc .st)) ∧ (∀ rs ∈ accRuns (queued (acc .st)).fab (acc .st), ∀ x ∈ rs, x.planed = false)
    ∧ (accRuns (queued (acc .st)).fab (acc .st))[7]? = some [⟨regionArea + 28, 4, home + 28, false, 2⟩]
    ∧ storeAcceptDue 7 [] (queued (acc .fence)).fab = true := by decide +kernel

/-- StoresAreAccepted: into a planed region, a store that makes its contributions, and one to a sum that finds no room. -/
theorem wit_stores_planed :
    let r (cs : List Contrib) : Region := { slice with planes := 1, collide := 2, contribs := cs }
    let a : Acc := { acc .stv with phys := (List.range 8).map fun i => some (home + 4 * i, true, 2), off := Lanes.zero }
    let s (cs : List Contrib) := queued a fun f => { f with regions := [r cs] }
    let left (cs : List Contrib) := storeAll [] a (lastLanes (storeRuns (s cs).fab a)) (newAccess (s cs).fab)
    storeAcceptDue 7 [] (s []).fab = true ∧ (∀ rs ∈ accRuns (s []).fab a, ∀ x ∈ rs, x.planed = true)
    ∧ (left []).isSome = true
    ∧ (∀ x ∈ (s []).fab.regions, x.ovfPages = []) ∧ findRegion (s []).fab L 0 = some (r [])
    ∧ (accRuns (s []).fab a)[7]? = some [⟨regionArea + 28, 4, home + 28, true, 2⟩]
    ∧ regionAt (s []).fab L (regionArea + 28) = some (r [])
    ∧ storeAcceptDue 7 [] (s crowd).fab = true ∧ (left crowd).isNone = true := by
  decide +kernel

/-- A store into a planed region leaves the present word and contributes its value (R118, R119). -/
theorem test_store_planed :
    let r : Region := { slice with planes := 1 }
    let a : Acc := { acc .stv with phys := (List.range 8).map fun i => some (home + 4 * i, true, 2), off := Lanes.zero }
    let u := storeAccept 7 [] (queued a fun f => { f with regions := [r] }).fab
    u.posted = [] ∧ (findRegion u L 0).map (fun y => y.contribs.map fun c => (c.word, c.who, c.val)) = some ((List.range 8).map fun i => (i, 0, 5)) := by
  decide +kernel

/-- AccessesAreTranslated: a word at the window's last 4 bytes, one beyond it, a misaligned one, a negative immediate. -/
theorem wit_xlat :
    let a : Acc := { acc .ld with phys := [] }
    let b : Acc := { a with off := Lanes.rep 64 }
    let c : Acc := { a with off := Lanes.rep 2 }
    let ok : Acc := { a with off := Lanes.rep 60 }
    xlatLookupDue 7 [] (queued ok).fab = true ∧ (∀ o ∈ accOffsets .ld ok.off, ¬(o % 4 ≠ 0 ∨ win.len < o + 4))
    ∧ (∀ o ∈ accWords .ld ok.off, win.base + o < 2 ^ 55 ∧ regionAt (queued ok).fab L (win.base + o) = some slice
        ∧ regionAt (queued ok).fab L (win.base + o + 3) = some slice)
    ∧ xlatLookupDue 7 [] (queued b).fab = true ∧ (∃ o ∈ accOffsets .ld b.off, win.len < o + 4)
    ∧ xlatLookupDue 7 [] (queued c).fab = true ∧ (∃ o ∈ accOffsets .ld c.off, o % 4 ≠ 0)
    ∧ xlatLookupDue 7 [] (queued { ok with negOff := true }).fab = true := by decide +kernel

/-- AccessesAreTranslated: a row whose fifth word lies beyond its region faults there (R376). -/
theorem wit_xlat_row :
    let a : Acc := { acc .ldv with phys := [], off := Lanes.zero }
    let f := (queued a fun f => { f with regions := [{ slice with size := 16 }] }).fab
    xlatLookupDue 7 [] f = true ∧ accWords .ldv a.off = [0, 4, 8, 12] ++ 16 :: [20, 24, 28]
    ∧ (∀ o ∈ [0, 4, 8, 12], regionAt f L (win.base + o) = some { slice with size := 16 }
        ∧ regionAt f L (win.base + o + 3) = some { slice with size := 16 })
    ∧ regionAt f L (win.base + 16) = none
    ∧ (xlatLookup 7 [] f).newRecs.map (fun r => (r.code, r.detail, r.addr)) = [(3, 0x70, regionArea + 16)] := by decide +kernel

/-- A window over translated addresses, and a three-level table that maps its page to frame 0x20 (R201, R203). -/
def xwin : Window := ⟨0, 64, 0, 0, none⟩
def table : Memory := [(0x100000, 0x41), (0x100002, 0x11), (0x110000, 0x41), (0x110002, 0x12), (0x120000, 0x53), (0x120001, 1), (0x120002, 0x20)]
def walking (m : Memory) (fr : Nat) : State :=
  ⟨{ fab with accs := [{ acc .ldv with off := Lanes.zero, phys := List.replicate 8 none, miss := true }]
              elems := [{ el with w := vset (Vector.replicate 8 none) 0 (some xwin) }]
              parts := [{ Part.reset 1 with frames := [0x10, 0x11, 0x12, fr] }], ifaces := [{ Iface.reset 1 0 with rootFrame := 0x10, rootEn := true }] }, m⟩

/-- What the walk of its first page finds. -/
def walked (m : Memory) : Option (Pte × Bool × Nat × Nat) :=
  let f := newAccess (walking m 0x20).fab
  (walk m { Rec.ofLine f L 7 with bolt := 0, tile := 0 } f 1 0 0).1.toOption

/-- AccessesAreTranslated: a walk that finds a leaf, and one that meets an entry that is not valid. -/
theorem wit_walk : Memory.wf table = true ∧ walkResultDue 7 table (walking table 0x20).fab = true ∧ calmly (walking table 0x20)
    ∧ walked table = some (decodePte 0x200153, false, 0x120000, 0)
    ∧ leafCheck (walking table 0x20).fab 1 (some 2) (decodePte 0x200153) false false = none ∧ walked [] = none
    ∧ keptPlace (walking table 0x20).fab L 0 0 0 0 .read = none
    ∧ (∀ b ∈ (walking table 0x20).fab.accs, b.id = 7)
    ∧ (findLine (walking table 0x20).fab L).map (fun x => (x.vf, x.pasid, x.cls)) = some (1, 0, 2) := by decide +kernel

/-! ## Engines -/

/-- The bytes at an offset of the slice region lie in it. -/
theorem inSlice_of {s : State} {o n : Nat} {x : Line} (h0 : findLine s.fab L = some x) (h1 : (getIface s.fab x.vf x.pasid).rootEn = true)
    (h2 : ∀ i, i < n → regionAt s.fab L (regionArea + o + i) = some slice)
    (h3 : (regionArea + o) % 65536 + n ≤ 65536) (h4 : regionArea + o + n ≤ 2 ^ 55)
    (h5 : home + o = sliceAddr s.fab L slice.tile (slice.base + (regionArea + o - regionArea - slice.at_))) (h6 : ∀ i, i < n → spaceOf (home + o + i) = 1) :
    s.inSlice L (regionArea + o) n 2 (home + o) := ⟨x, slice, h0, h1, rfl, rfl, rfl, h2, h3, h4, h5, h6⟩

theorem wit_in_slice_32 : st.inSlice L (regionArea + 0) 32 2 (home + 0) ∧ st.inSlice L (regionArea + 64) 32 2 (home + 64)
    ∧ st.inSlice L (regionArea + 0) 64 2 (home + 0) ∧ st.inSlice L (regionArea + 0x3C) 4 2 (home + 0x3C) :=
  ⟨inSlice_of (x := ln) rfl (by decide +kernel) (by decide +kernel) (by decide) (by decide) (by decide +kernel) (by decide +kernel),
   inSlice_of (x := ln) rfl (by decide +kernel) (by decide +kernel) (by decide) (by decide) (by decide +kernel) (by decide +kernel),
   inSlice_of (x := ln) rfl (by decide +kernel) (by decide +kernel) (by decide) (by decide) (by decide +kernel) (by decide +kernel),
   inSlice_of (x := ln) rfl (by decide +kernel) (by decide +kernel) (by decide) (by decide) (by decide +kernel) (by decide +kernel)⟩

/-- PatternsVisit: a read of a word, a read of 32 bytes, a write of 32 bytes from the port's channel, a visit out of bounds, the
end, a visit that a resume has dropped. -/
theorem wit_patterns :
    let g (p : Pattern) (v : Nat) : AGen := { newGen L 0 0 with pat := some p, running := true, visit := v }
    let f (p : Pattern) (v : Nat) : Fabric := { fab with gens := [g p v], chans := [chan 0 .boundary (.gen 0 0) [tok 3 0]] }
    let r4 := pat false
    let r32 : Pattern := { r4 with size := 32 }
    let w32 : Pattern := { r32 with write := true }
    let out : Pattern := { r4 with base := 64 }
    patternVisitDue L 0 0 [] (f r4 0) = true ∧ 0 < r4.total ∧ r4.offset 0 = 0 ∧ (0 : Nat) + 4 ≤ r4.win.len
    ∧ patternVisitDue L 0 0 [] (f r32 0) = true ∧ r32.offset 0 = 0
    ∧ patternVisitDue L 0 0 [] (f w32 0) = true ∧ (portChan (f w32 0) L 0 0 0 true).map (fun k => (visible (f w32 0) k).head?) = some (some (tok 3 0))
    ∧ patternVisitDue L 0 0 [] (f out 0) = true ∧ (out.win.len : Int) < out.offset 0 + out.size
    ∧ patternVisitDue L 0 0 [] (f r4 1) = true ∧ r4.total ≤ 1
    ∧ (let d (p : Pattern) : Fabric := { fab with gens := [{ g p 0 with skip := true }] }
       patternVisitDue L 0 0 [] (d r4) = true ∧ patternVisitDue L 0 0 [] (d r32) = true ∧ (g r4 0).skip = false) := by decide +kernel

/-- CopiesMove: an entry to start and a beat to move within the slice region. -/
theorem wit_copies :
    let q : HwQ := { newHq L 0 0 with tmpl := some tmpl }
    let c : CopyCh := { newCopy L 0 0 with busy := true, queue := 0, rows := 1 }
    let f : Fabric := { fab with hqs := [q], chans := [chan 0 .boundary (.queue 0 0) [tok 0 0]] }
    let b : Fabric := { fab with hqs := [q], copies := [c] }
    copyEntryDue L 0 0 [] f = true ∧ (chanTo f L (.queue 0 0)).map (fun k => (visible f k).head?) = some (some (tok 0 0))
    ∧ copyBeatDue L 0 0 [] b = true ∧ copySrc tmpl c 0 = (regionArea : Int) ∧ copyDst tmpl c = ((regionArea + 64 : Nat) : Int) := by
  decide +kernel

/-- RemoteAndMulticast: a refused row; the join that completes a set and one that does not; a remote write within and outside the
peer space. -/
theorem wit_remote :
    (let a : Ack := ⟨3, L, 0, 0, 8, false, 7, 8, [], false, some (0, 2, 0)⟩
     let f : Fabric := { fab with acks := [a], copies := [{ newCopy L 0 0 with busy := true }] }
     rowRefusedDue L 0 0 [] f = true ∧ (findCopy f L 0 0).isSome)
    ∧ (let h (js : List (List (List Nat))) : HwQ := { newHq L 0 0 with tmpl := some { tmpl with mcast := true, mbr := 2, mbuf := 1 }, joins := js }
       let f (js : List (List (List Nat))) : Fabric :=
         { fab with hqs := [h js], chans := [chan 0 .boundary (.join 0 0 1) [{ tok 0 0 with rel := [44] }]] }
       let one := [[33]] :: List.replicate 15 []
       mcastJoinTokenDue L 0 0 1 [] (f one) = true ∧ one.length = 16
         ∧ mcastJoinTokenDue L 0 0 1 [] (f (List.replicate 16 [])) = true)
    ∧ (let s (m : Memory) : State := ⟨{ (walking m 0x20).fab with ifaces := [{ Iface.reset 1 0 with rootFrame := 0x10, rootEn := true, peerLen := 1 }] }, m⟩
       let x := peerXlate table (fresh (newAccess (s table).fab)).2 1 0 0
       remoteWriteDue table (s table).fab = true ∧ ¬(1 * 65536 ≤ 0) ∧ calmly (s table) ∧ x.1.map (fun p => p.phys) = some 0x200000
         ∧ x.2.posted = [] ∧ x.2.scrub = [] ∧ x.2.errs = []
         ∧ (getIface (s table).fab 1 0).peerLen * 65536 ≤ 65536) := by decide +kernel

/-- A block that passes the checks of R163: 32-byte rows, one of them. -/
def block : Memory := [(home + 0x18, 32), (home + 0x1C, 1)]

/-- ArmsAndDisarms: a misaligned block, one that fails its checks, one that passes them; a queue to disarm. -/
theorem wit_arms :
    let h (a : Nat) : HwQ := { newHq L 0 0 with arming := some a, armCmd := 3 }
    let f (a : Nat) : Fabric := { fab with hqs := [h a] }
    armCompleteDue L 0 0 [] (f (regionArea + 32)) = true ∧ (regionArea + 32) % 64 ≠ 0
    ∧ armCompleteDue L 0 0 [] (f regionArea) = true ∧ regionArea % 64 = 0 ∧ armCompleteDue L 0 0 block (f regionArea) = true
    ∧ disarmAckDue L 0 0 [] { fab with hqs := [{ newHq L 0 0 with tmpl := some tmpl, disarm := some 3 }] } = true := by decide +kernel

/-- ArmsAndDisarms: the bytes of the block pass the checks, zeros do not. -/
theorem wit_control_block : Rule.ControlBlock ((List.range 64).map fun i => (⟨fab, block⟩ : State).byte (home + i))
    ∧ ¬Rule.ControlBlock (List.replicate 64 0) := by
  refine ⟨?_, fun h => absurd h.2.2.2.2.2.2.1.1 (by decide)⟩
  simp only [Rule.ControlBlock]
  and_intros <;> decide +kernel

/-- R163: a good block arms the queue with its fields, and ASTAT says so. -/
theorem test_arm :
    (match exec (.armComplete L 0 0) ⟨{ fab with hqs := [{ newHq L 0 0 with arming := some regionArea, armCmd := 3 }] }, block⟩ with
     | .next u => (u.byte (home + 0x3C), (findHq u.fab L 0 0).map fun q => q.tmpl.map fun t => (t.rowb, t.rows, t.wbuf))
     | _ => (0, none)) = (1, some (some (32, 1, false))) := by decide +kernel

/-- CountsFire: words that do not reach the target, that reach it exactly and twice, where room is left for both tokens and for one, with no channel
and with a counter word; an uncounted acknowledgement; a token to commit. -/
theorem wit_counts :
    let a (w : Nat) (k : Bool) : Ack := ⟨3, L, 0, 0, w, false, 7, 8, [], k, none⟩
    let c : Cnt := { line := L, tile := 0, num := 0, chan := some 7, scope := 0, pois := false, tgt := 4, val := 3, tot := 10, addr := none,
                     queue := [], ids := [], fired := 2, rel := [] }
    let f (w : Nat) (k : Bool) (c : Cnt) : Fabric := { fab with acks := [a w k], cnts := [c] }
    countAckDue 3 [] (f 0 true c) = true ∧ c.val + 0 < c.tgt ∧ countAckDue 3 [] (f 1 true c) = true ∧ c.tgt ≤ c.val + 1
    ∧ countAckDue 3 [] (f 5 true c) = true ∧ 2 * c.tgt ≤ c.val + 5 ∧ countAckDue 3 [] (f 1 false c) = true
    ∧ countAckDue 3 [] (f 5 true { c with queue := List.replicate 3 (tok 0 0) }) = true
    ∧ countAckDue 3 [] (f 5 true { c with chan := none }) = true ∧ countAckDue 3 [] (f 5 true { c with addr := some (regionArea + 0x3C) }) = true
    ∧ calmly ⟨f 5 true { c with addr := some (regionArea + 0x3C) }, []⟩
    ∧ countTokenCommitDue L 0 0 [] (f 0 true { c with queue := [tok 10 0] }) = true ∧ findCnt (f 1 true c) L 0 0 = some c := by decide +kernel

/-- R168: a count that reaches twice the target fires twice, and its counter word holds the new total. -/
theorem test_count_twice :
    let c : Cnt := { line := L, tile := 0, num := 0, chan := some 7, scope := 0, pois := false, tgt := 4, val := 3, tot := 10,
                     addr := some (regionArea + 0x3C), queue := [], ids := [], fired := 2, rel := [] }
    (match exec (.countAck 3) ⟨{ fab with acks := [⟨3, L, 0, 0, 6, false, 7, 8, [], true, none⟩], cnts := [c] }, []⟩ with
     | .next u => (u.byte (home + 0x3C), u.fab.cnts.map fun c => (c.val, c.tot, c.queue.map fun t => t.payload.l0))
     | _ => (0, [])) = (18, [(1, 18, [14, 18])]) := by decide +kernel

/-! ## The matrix array and the nodes -/

/-- A task of one row, one column and one BF16 element of K, that writes one word to C. -/
def task : Task :=
  { id := 3, line := L, th := 0, seq := 0, node := 0, pair := 6, init := false, mir := false, bwb := false, queue := 0, scope := 0, cnt := 0,
    count := false, wtile := 0, m := 1, n := 1, k := 1, a := regionArea, sa := 0, woff := 0, b := regionArea, c := regionArea + 64, sc := 0,
    sb := 0, chain := none, decl := 0, know := [], arr := 0, mismatch := [], halted := false, cols := [⟨[0, 0], [], false⟩], row := 0, rowA := none,
    rowC := none, put := 0, wid := 0, out := [] }

/-- MatrixTasks: a record read, by an offset poisoned or not; a head to issue; the last row of a task. -/
theorem wit_matrix :
    (let a : Acc := { acc .mxq with phys := (List.range 16).map fun i => some (home + 4 * i, false, 2) }
     mxqRecordReadDue 7 [] (queued a).fab = true ∧ mxqRecordReadDue 7 [] (queued { a with poison := true }).fab = true
       ∧ (accRuns (queued a).fab a).length = 16 ∧ ((getMx fab L 0).queues.getD 0 []).length < 64)
    ∧ (let f : Fabric := { fab with mx := [⟨L, 0, 1, [[task], [], [], []], []⟩] }
       mxTaskIssueDue L 0 [] f = true ∧ nextTask (getMx f L 0) = some (0, task, 0) ∧ (getMx f L 0).line = L)
    ∧ (let f : Fabric := { fab with mx := [⟨L, 0, 1, [[], [], [], []], [task]⟩] }
       mxTaskCompleteDue L 3 [] f = true ∧ findTask f L 3 = some task ∧ task.cols.length = task.n ∧ task.row + 1 = task.m
         ∧ 0 < rowBytes task.pair task.k) := by decide +kernel

/-- MatrixTasks: a record that passes the checks, and a full queue. -/
theorem wit_matrix_record :
    let b : List Byte := [6, 0, 0, 0, 1, 1, 1, 0] ++ List.replicate 24 0 ++ [4] ++ List.replicate 15 0 ++ [0xFF, 0xFF] ++ List.replicate 14 0
    b.length = 64 ∧ Rule.TaskRecord fab L b ∧ ¬Rule.TaskRecord fab L (List.replicate 64 0)
    ∧ ¬((getMx { fab with mx := [⟨L, 0, 1, [List.replicate 64 task, [], [], []], []⟩] } L 0).queues.getD 0 []).length < 64 := by
  refine ⟨by decide, ?_, fun h => absurd h.2.2.2.2.2.1 (by decide), by decide +kernel⟩
  refine ⟨by decide, by decide, by decide, by decide, by decide, by decide, by decide, by decide, by decide, by decide, by decide, by decide, by decide,
    by decide, by decide, by decide, by decide, by decide, by decide, by decide, fun h => absurd (by decide) h, by decide⟩

/-- R111: two groups whose rounded contributions are 0.75 each leave an accumulator of 2^24. -/
theorem test_accumulates :
    let row : List Byte := [0x40, 0x3F] ++ List.replicate 62 0 ++ [0x40, 0x3F]
    let col : List Byte := [0x80, 0x3F] ++ List.replicate 62 0 ++ [0x80, 0x3F]
    accumulate 5 33 row ⟨col, [], false⟩ 0x4B800000 = (0x4B800000, false)
    ∧ accumulate 4 2 [2, 0xFF] ⟨[3, 4], [], false⟩ 1 = (3, false) := by decide +kernel

/-- VotersAndSwage: a first copy, a second that agrees and one that does not, a late copy that agrees and one that does not, a third that agrees with one of two
that differ, and one that differs from both; tokens through a packing and an unpacking node. -/
theorem wit_voters :
    let v (h : List (Nat × Token)) (w : List (Nat × Token)) : Voter := ⟨L, 0, 0, 0, 0, 0, 0, h, w, [], [], 0⟩
    let f (v : Voter) (t : Token) : Fabric :=
      { fab with voters := [v], chans := [chan 0 .boundary (.voterIn 0 1) [t], chan 1 (.voterOut 0) (.elem L 0 0) []] }
    voterTokenDue L 0 1 [] (f (v [] []) (tok 7 1)) = true
    ∧ voterTokenDue L 0 1 [] (f (v [(0, tok 7 1)] []) (tok 7 1)) = true ∧ sameToken (tok 7 1) (tok 7 1) = true
    ∧ voterTokenDue L 0 1 [] (f (v [] [(0, tok 7 1)]) (tok 8 1)) = true ∧ sameToken (tok 7 1) (tok 8 1) = false
    ∧ voterTokenDue L 0 1 [] (f (v [(2, tok 7 1), (0, tok 9 1)] []) (tok 8 1)) = true ∧ sameToken (tok 9 1) (tok 8 1) = false
    ∧ voterTokenDue L 0 1 [] (f (v [(0, tok 9 1)] []) (tok 7 1)) = true ∧ (([(0, tok 9 1)] : List (Nat × Token)).filter fun y => y.2.seq == 0).length ≤ 1
    ∧ voterTokenDue L 0 1 [] (f (v [(2, tok 7 1), (0, tok 9 1)] []) (tok 7 1)) = true ∧ sameToken (tok 9 1) (tok 7 1) = false
    ∧ (L, 0) ≠ (L, 1) := by decide +kernel

/-- R177: the third copy agrees with copy 2; copy 0 is logged. -/
theorem test_vote_two_of_three :
    let v : Voter := ⟨L, 0, 0, 0, 0, 0, 0, [(2, tok 7 1), (0, tok 9 1)], [], [], [], 0⟩
    (match exec (.voterToken L 0 1) (with_ fun f => { f with
        voters := [v], chans := [chan 0 .boundary (.voterIn 0 1) [tok 7 1], chan 1 (.voterOut 0) (.elem L 0 0) []] }) with
     | .next u => (u.fab.voters.map fun v => (v.dis0, v.dis1, v.lastCopy), (findChan u.fab L 1).map fun c => c.q.map fun x => x.tok.payload.l0)
     | _ => ([], none)) = ([(1, 0, 0)], some [7]) := by decide +kernel

/-- A node on the route of a converting channel, with the token `t` before it. -/
def swaged (k : Nat) (p : List Token) (n : Option Token) (t : Token) : Fabric :=
  { fab with chans := [{ chan 0 .boundary (.elem L 0 0) [] with conv := k, swage := some 0, raw := [⟨t, 0⟩], part := p, nodePend := n }] }

theorem wit_swage :
    let due (k : Nat) (p : List Token) (t : Token) : Bool := swageConvertDue L 0 [] (swaged k p none t)
    (∃ k, k < 8 ∧ packOf k ≠ 1 ∧ due k [] (tok 7 0) = true ∧ due k (List.replicate (packOf k - 1) (tok 7 0)) (tok 7 0) = true
      ∧ due k [tok 7 0] (tok 7 1) = true)
    ∧ (∃ k, k < 8 ∧ k ≠ 0 ∧ packOf k = 1 ∧ due k [] (tok 7 0) = true)
    ∧ due 1 [] (tok 7 1) = true ∧ due 1 [] (tok 0 3) = true ∧ swageConvertDue L 0 [] (swaged 1 [] (some (tok 0 4)) (tok 0 3)) = true
    ∧ swageNode { chan 0 .boundary (.elem L 0 0) [] with swage := some 0 } = some (L, 0) := by decide +kernel

/-- PlanesSwap: a step with a collision under the fault rule, one resumed after it, and a word that one thread contributed to. -/
theorem wit_planes :
    let r (cs : List Contrib) : Region := { slice with planes := 1, group := some 0, contribs := cs }
    let g : Group := { grp with step := 1, swapBy := some 101, waiting := [0] }
    let one : Contrib := ⟨2, 0, 5, false, 0, 0, 0, 0, 0⟩
    let f (g : Group) (cs : List Contrib) : Fabric := { fab with groups := [g], regions := [r cs] }
    planeSwapDoneDue 1 0 [] (f g [one, { one with who := 1 }]) = true
    ∧ g.collided = false ∧ (groupCollision (f g [one, { one with who := 1 }]) g).isSome = true ∧ (groupCollision (f g [one]) g).isSome = false
    ∧ planeSwapDoneDue 1 0 [] (f { g with collided := true } [one, { one with who := 1 }]) = true
    ∧ planeSwapDoneDue 1 0 [] (f g [one]) = true ∧ boundRegions (f g [one]) g = [r [one]]
    ∧ findRegion (f g [one]) L 0 = some (r [one])
    ∧ (r [one]).contribs.filter (fun c => c.word == 2 && decide (c.step < g.step)) = [one] := by decide +kernel

/-- PlanesSwap: two contributors to one word, under the priority rule and a sum; a region swapped at the edge, with and without a collision. -/
theorem wit_planes_many :
    let one : Contrib := ⟨2, 0, 5, false, 0, 0, 0, 0, 0⟩
    let two : Contrib := { one with who := 3, val := 7 }
    let r (k p : Nat) : Region := { slice with planes := p, collide := k, contribs := [two, one], group := if p = 1 then some 0 else none }
    let g : Group := { grp with step := 1, swapBy := some 101, waiting := [0] }
    let f (k : Nat) : Fabric := { fab with groups := [g], regions := [r k 1] }
    let e (k : Nat) (x : Line) : Fabric := { fab with lines := [x], regions := [r k 2] }
    planeSwapDoneDue 1 0 [] (f 1) = true ∧ planeSwapDoneDue 1 0 [] (f 2) = true ∧ (groupCollision (f 1) g).isSome = false
    ∧ boundRegions (f 1) g = [r 1 1] ∧ [one, two].Pairwise (fun x y => x.who < y.who) ∧ [two, one].Nodup
    ∧ (∀ x ∈ [one, two], x ∈ (r 1 1).contribs) ∧ (∀ x ∈ (r 1 1).contribs, x.word = 2 ∧ x.step = 0 ∧ x ∈ [one, two])
    ∧ lineFirstEdgeDue L [] (e 2 { ln with begun := false }) = true ∧ beatEdgeDue L [] (e 2 lnEnd) = true
    ∧ stretchEdgeDue L [] { e 2 { lnEnd with overflowing := [0], stretch := 3 } with stations := [{ stn with item := none }] } = true
    ∧ (∀ x ∈ stationsOf (e 2 lnEnd) L, overflows x = false)
    ∧ (e 2 ln).regions.filter (fun x => x.line == L && x.planes == 2) = [r 2 2] ∧ collision (r 2 2) 0 = none
    ∧ (collision (r 0 2) 0).isSome = true := by decide +kernel

/-- The priority rule takes the lowest contributor's value, a sum adds (R121); with a beat-bound region it is so at the edge (R38). -/
theorem test_swap_rules :
    let one : Contrib := ⟨2, 0, 5, false, 0, 0, 0, 0, 0⟩
    let r (k p : Nat) : Region := { slice with planes := p, collide := k, contribs := [{ one with who := 3, val := 7 }, one] }
    let word (f : Fabric) : Nat := (f.posted.find? fun c => c.1 == home + 8).elim 0 fun c => c.2.toNat
    word (swapStep [] 0 L 0 9 [] { fab with regions := [r 1 1] }) = 5 ∧ word (swapStep [] 0 L 0 9 [] { fab with regions := [r 2 1] }) = 12
    ∧ word (beatEdge L [] { fab with lines := [lnEnd], regions := [r 2 2] }) = 12 := by decide +kernel

/-! ## A count in an argument slot -/

/-- LoopsAndHalts: the next position holds a LOOP with its count in a slot that lies in the slice region. -/
def looping : Ctl := { ct with table := [0, BitVec.ofNat 32 ((encode (.loopArg .always 1 0)).getD 0)] }

theorem wit_loop_reached : issues (issuing looping) looping ∧ looping.mode ≤ 1 ∧ looping.loops.isEmpty = true
    ∧ looping.table[1]?.map (fun w => (decodeCmd w.toNat).toOption) = some (some (.loopArg .always 1 0))
    ∧ findLine (issuing looping).fab L = some ln ∧ calmly (issuing looping) := by decide +kernel

theorem wit_loop_slot : (issuing looping).inSlice L (ln.args + 32 * 0) 32 2 home :=
  inSlice_of (o := 0) (x := ln) rfl (by decide +kernel) (by decide +kernel) (by decide) (by decide) (by decide +kernel) (by decide +kernel)

/-- LOOP takes its count when it is reached (R322): 5, in lane 0 of slot 0. -/
theorem test_loop_reached :
    (match exec (.loop .always 0 0) ⟨(issuing looping).fab, [(home, 5)]⟩ with
     | .next u => (findCtl u.fab L 0 0).map fun x => (x.pos, x.loops)
     | _ => none) = some (1, [(1, 5)]) := by decide +kernel

/-! ## Lines come and go -/

/-- A launch with nothing in it, an image of one station, one element and a line input, and a fabric that holds both. -/
def launch : Launch :=
  { id := 3, vf := 1, ps := 0, flags := 256, seq := 0, tag := 0, image := 0x1000, args := 0, narg := none, cpl := 0, pre := [], vec := 0, depth := 0,
    spawner := none, since := 0, know := [] }

/-- An image's bytes (R78, R79): the header, a section table of one entry, and one element record, tile 0's element 0 with c0 bound to
channel record 0 and empty slots. -/
def imgBytes : List Byte :=
  [0x50, 0x46, 0x4C, 0x49, 1, 0, 0, 0, 1, 0, 0, 0, 1, 0, 0, 0] ++ exactly 32 (Config.shake256 32 Config.fingerprint)
    ++ leBytes 8 64 ++ leBytes 8 1040 ++ [1, 0, 0, 0, 1, 0, 0, 0] ++ leBytes 8 80
    ++ List.replicate 900 0 ++ List.replicate 16 0xFF ++ [0, 0] ++ List.replicate 30 0xFF ++ List.replicate 12 0

/-- Its other sections: one station, and the line input from generator 0. -/
def imgFile : ImageFile :=
  { vf := 1, ps := 0, va := 0x1000, bytes := imgBytes, cls := 2, gap := 0, nargs := 0, seq := 0, bel := bareBellows,
    stations := [⟨0, [0], [0], 1, [], false, none, 0, []⟩]
    chans := [{ writer := .gen 0 0, reader := .inbox 0 0, depth := 1, conv := 0, gate := false, route := 0, swage := none, swageHop := 0, ports := [],
                bnode := false, link := 0, linkNum := 0, handoff := false }]
    ctls := [], names := [], constGroups := [], lens := [], groups := 0, votes := 0, cnts := [], ranges := [], data := [], links := [],
    routes := [], swPorts := [] }

/-- The same, its input read from a mailbox that another line reads. -/
def imgLate : ImageFile :=
  { imgFile with chans := imgFile.chans.map fun c => { c with writer := .boundary, bnode := true, link := 1, linkNum := 5 } }

/-- The partition holds bolt 0 and nothing is resident; one of its mailboxes has a reader. -/
def emptyOf (i : ImageFile) (x : Launch) : Fabric :=
  { Fabric.reset with images := [i], launches := [x], chans := [{ chan 5 .boundary (.elem 128 0 0) [] with line := linkKey 1 }], parts := [{ Part.reset 1 with grant := 1 }] }
def empty (x : Launch) : Fabric := emptyOf imgFile x

theorem img_fingerprint (i : ImageFile) (h : i.bytes = imgBytes) :
    i.decode.fingerprint = exactly 32 (Config.shake256 32 Config.fingerprint) := by
  have e : i.decode.fingerprint = (i.bytes.drop 0x10).take 32 := rfl
  rw [e, h]
  rfl

theorem img_passes : loadFails imgFile.decode false = [] := by
  unfold loadFails
  rw [img_fingerprint imgFile rfl, beq_self_eq_true]
  decide +kernel

theorem late_passes : loadFails imgLate.decode false = [] := by
  unfold loadFails
  rw [img_fingerprint imgLate rfl, beq_self_eq_true]
  decide +kernel

theorem firstFail_none (f : Fabric) (img : Image) (h : Bool) (p : loadFails img h = []) (q : sizedOk img [] = true) :
    firstFail f img h (must (sizedOk img []) (Fail.image 1)) = none := by
  simp [firstFail, allFails, p, q, must, sortBy]

theorem launch_passes (i : ImageFile) (h : i = imgFile ∨ i = imgLate) : launchFail (emptyOf i launch) launch (some []) = none := by
  have b : (launch.flags / 8 % 2 == 1) = false := rfl
  obtain rfl | rfl := h
  · have e : launchFail (emptyOf imgFile launch) launch (some [])
        = firstFail (emptyOf imgFile launch) imgFile.decode (launch.flags / 8 % 2 == 1) (must (sizedOk imgFile.decode []) (Fail.image 1)) := rfl
    rw [e, b, firstFail_none _ _ _ img_passes (by decide +kernel)]
  · have e : launchFail (emptyOf imgLate launch) launch (some [])
        = firstFail (emptyOf imgLate launch) imgLate.decode (launch.flags / 8 % 2 == 1) (must (sizedOk imgLate.decode []) (Fail.image 1)) := rfl
    rw [e, b, firstFail_none _ _ _ late_passes (by decide +kernel)]

/-- Launches: a launch whose record is refused, and a line whose prerequisites are met. -/
theorem wit_refused : linePlacementDue 3 [] (empty { launch with flags := 512 }) = true
    ∧ (launchFail (empty { launch with flags := 512 }) { launch with flags := 512 } none).isSome = true
    ∧ prerequisitesMetDue L [] { fab with lines := [{ ln with state := 1 }] } = true := by decide +kernel

theorem placement_of (i : ImageFile) (h : i = imgFile ∨ i = imgLate) :
    linePlacementDue 3 [] (emptyOf i launch) = (isOldest (emptyOf i launch) launch && ((recordFail (emptyOf i launch) launch).isSome
      || (launchFail (emptyOf i launch) launch (some [])).isSome
      || (isNext (emptyOf i launch) 1 3 true &&
            (match mapBolts i.decode.links (freeBolts (emptyOf i launch) 1) i.decode.bolts [] with
            | some bolts => (placementFail (emptyOf i launch) i.decode).isSome || (placeLine (1 * 64) launch i.decode [] bolts (emptyOf i launch)).isSome
            | none => false)))) := by
  obtain rfl | rfl := h <;> rfl

/-- Launches: a placement that succeeds, and one that a held mailbox end refuses once there are bolts. -/
theorem wit_placement : linePlacementDue 3 [] (empty launch) = true ∧ placementFail (empty launch) imgFile.decode = none := by
  refine ⟨?_, by decide +kernel⟩
  rw [empty, placement_of imgFile (.inl rfl), launch_passes imgFile (.inl rfl)]
  decide +kernel

theorem wit_late : linePlacementDue 3 [] (emptyOf imgLate launch) = true ∧ (placementFail (emptyOf imgLate launch) imgLate.decode).isSome = true
    ∧ (mapBolts imgLate.decode.links (freeBolts (emptyOf imgLate launch) 1) imgLate.decode.bolts []).isSome = true := by
  refine ⟨?_, by decide +kernel, by decide +kernel⟩
  rw [placement_of imgLate (.inr rfl), launch_passes imgLate (.inr rfl)]
  decide +kernel

/-- Launches: a tail ahead by the whole queue and by one more; a record to take. -/
theorem wit_launch_queue :
    let i : Iface := { Iface.reset 1 0 with lqLog := 2, lqTail := 1, rootFrame := 0x10, rootEn := true }
    let f : Fabric := { fab with ifaces := [i], parts := [{ Part.reset 1 with frames := [0x10, 0x11, 0x12, 0x20] }] }
    lqDbDue [] f = true ∧ ¬(i.lqLog = 0 ∨ 2 ^ i.lqLog < (4 % 2 ^ 32 + 2 ^ 32 - i.lqAcc) % 2 ^ 32)
    ∧ (i.lqLog = 0 ∨ 2 ^ i.lqLog < (5 % 2 ^ 32 + 2 ^ 32 - i.lqAcc) % 2 ^ 32)
    ∧ launchRecordDue 1 0 table f = true ∧ (anvilRead table 1 0 (slotAddr i) 64 (newAccess f)).isSome = true := by decide +kernel

/-- LinesEnd: a line that completes and whose completion record can be written; an end by the host of a line and of a launch; scrubs. -/
theorem wit_lines_end :
    let x : Line := { ln with endStatus := some 0 }
    let f : Fabric := { (walking table 0x20).fab with lines := [x], accs := [], ifaces := [{ Iface.reset 1 0 with rootFrame := 0x10, rootEn := true }] }
    let p := peerXlate table (newAccess f) x.vf x.pasid x.cpl
    lineCompleteDue L table f = true ∧ x.dirty = [] ∧ calmly ⟨f, table⟩ ∧ x.cpl < regionArea ∧ p.1.map (fun q => q.phys) = some 0x200000
    ∧ p.2.posted = [] ∧ p.2.scrub = [] ∧ x.saved = false
    ∧ (∃ y ∈ [x, { x with state := 6 }], y.state = 6) ∧ findLine { f with lines := [{ x with state := 6 }] } L = some { x with state := 6 }
    ∧ endedByHostDue L [] fab = true ∧ endedByHostDue (4096 + 3) [] (empty launch) = true ∧ findLine (empty launch) (4096 + 3) = none
    ∧ boltScrubDoneDue 0 [] { fab with module_ := { Module.reset with scrubbing := [(0, 0)] } } = true
    ∧ spScrubCompleteDue 0x20 [] { fab with scrub := [(0x20, 1, [0, 1023])] } = true ∧ (∀ i ∈ [0, 1023], i < 1024) := by decide +kernel

/-- A request of the element. -/
def req (sp : Bool) (v : Lanes) : Request := ⟨7, L, 0, sp, v, false, .o 2, 0, 0, 50, []⟩

/-- RequestsAnswered: SPAWNs beyond the depth and at it, of an image that is not there, with reserved lanes, and accepted. -/
theorem wit_spawn :
    let v : Lanes := ⟨0x1000, 0, 0, 0, 0, 0, 0, 0⟩
    let f (d : Nat) (v : Lanes) : Fabric := { fab with requests := [req true v], lines := [{ ln with depth := d }], images := [imgFile] }
    spawnAnswerDue 7 [] (f 4 v) = true ∧ Config.spawnDepth < 4 + 1 ∧ spawnAnswerDue 7 [] (f 3 v) = true ∧ 3 + 1 ≤ Config.spawnDepth
    ∧ findImage (f 3 { v with l0 := 0x2000 }) 1 0 0x2000 = none
    ∧ findRequest (f 3 { v with l7 := 1 }) 7 = some (req true { v with l7 := 1 })
    ∧ (f 3 v).images.any (fun c => c.va == argAddr v) = true := by decide +kernel

/-- RequestsAnswered: a range at its last index and at its end; a planed and a DRAM region resized; a line drained for its image. -/
theorem wit_requests :
    (let z (n : Nat) : RangeUnit := ⟨true, n, 9, 1, 2⟩
     let f (n : Nat) : Fabric := { fab with requests := [req false Lanes.zero], lines := [{ ln with ranges := z n :: List.replicate 7 RangeUnit.absent }] }
     rangeAnswerDue 7 [] (f 8) = true ∧ rangeAnswerDue 7 [] (f 9) = true ∧ (z 9).stop - (z 9).next = 0)
    ∧ (let f (r : Region) : Fabric := 
         { fab with resizes := [⟨3, L, 0, 8192, 5⟩], regions := [r],
                    parts := [{ Part.reset 1 with frames := [1, 2], pool := [1, 2] }] }
       rszCompleteDue 3 [] (f { slice with planes := 1 }) = true ∧ rszCompleteDue 3 [] (f slice) = true
         ∧ rszCompleteDue 3 [] (f { slice with slice := false }) = true ∧ lstRszDue L [] (f slice) = true) := by decide +kernel

/-- RequestsAnswered: a line drained for its new image. -/
theorem wit_recfg :
    let x : Line := { ln with closing := true, state := 4, recfg := [(0x1000, 0, 9)] }
    recfgDrainedDue L []
      { fab with lines := [x], images := [imgFile], stations := [{ stn with item := none }], chans := [chan 9 .boundary (.inbox L 0) []] } = true := by
  decide +kernel

/-- LineCommands: a RECFG of an image that passes, and one of an image that is not there. -/
theorem wit_recfg_check : let s : State := issuing ct fun f => { f with images := [imgFile] }
    issues s ct ∧ argReady 0 [] s.fab ct = true ∧ findImage s.fab 1 0 0x1000 = some imgFile.decode ∧ findImage s.fab 1 0 0 = none
    ∧ firstFail (withoutMailboxes s.fab L) imgFile.decode false [] = none ∧ placementFail (withoutMailboxes s.fab L) imgFile.decode = none := by
  refine ⟨by decide +kernel, by decide +kernel, rfl, rfl, ?_, by decide +kernel⟩
  simp [firstFail, allFails, img_passes, sortBy]

/-! ## Pre-emption -/

/-- PreemptionAndRestore: a line whose slice is over beside a waiting launch; a tile that enters its round; a last tile and one of two
to save; a quiet line; a saved line with a free bolt. -/
theorem wit_preemption :
    let x : Line := { ln with saveFrames := [0x20] }
    (let f : Fabric := { empty launch with cycle := 2400000, lines := [ln] }
     sliceExpiryDue L [] f = true)
    ∧ (let f : Fabric := { fab with lines := [{ x with rounds := [(0, true)] }], chans := [] }
       roundEntryDue L 0 [] f = true ∧ nextRound f L 0 = some (0, true) ∧ guardedHandoffs f L 0 = []
         ∧ (let g : Fabric := { f with stations := [{ stn with ports := [2] }] }
            roundEntryDue L 0 [] g = true ∧ guardedHandoffs g L 0 = [2]))
    ∧ (let t : Tile := { newTile L 0 with inRound := true }
       let f (ts : List Tile) : Fabric := { fab with lines := [x], tiles := ts }
       tileSaveDue L 0 [] (f [t]) = true ∧ tileSaveDue L 0 [] (f [t, newTile L 1]) = true
         ∧ (∃ y ∈ [t, newTile L 1], y.line = L ∧ y.num ≠ 0 ∧ y.saved = false))
    ∧ quiescentPreemptDue L [] { fab with lines := [{ x with preempt := true, begun := false, quiet := 64 }] } = true
    ∧ (let f : Fabric := { fab with lines := [{ x with saved := true, state := 3 }], parts := [{ Part.reset 1 with grant := 2 }] }
       lineRestoreDue L [] f = true ∧ mapBolts x.links (freeBolts f 1) x.bolts.length [] = some [1] ∧ x.stop = none ∧ x.begun = true
         ∧ calmly ⟨f, []⟩ ∧ findElem f L 0 = some el) := by
  decide +kernel

/-! ## The host -/

/-- A halting record of partition 1, with index 0. -/
def record (w : Unit_) : Rec := { Rec.ofLine fab L 15 with halted := true, resumable := true, index := some 0, what := w }

/-- FaultsAreResumed: records of a firing, an access, a pattern, a copy and a row, of a line that is not saved; of a line that has ended; no record; tokens at the
resume port. -/
theorem wit_resumes :
    let f (w : Unit_) : Fabric := { (queued { acc .ld with halted := true }).fab with
      recs := [record w], gens := [{ newGen L 0 0 with halted := true }], copies := [{ newCopy L 0 0 with halted := true }] }
    let ended (w : Unit_) : Fabric := { f w with lines := [{ ln with endStatus := some 1 }] }
    (getPart fab 1).fqLog ≠ 0 ∨ (getPart fab 1).ebudget = false
    ∧ (∀ w ∈ [Unit_.firing 0 3, .access 7, .pattern 0 0, .copy 0 0, .row 0 0], fltResumeDue 1 0 [] (f w) = true
        ∧ (findRec (f w) 1 0).map (fun r => r.what) = some w ∧ w ≠ .budget ∧ w ≠ .none
        ∧ ∀ x ∈ (f w).lines, x.saveFrames = [])
    ∧ fltResumeDue 1 0 [] (ended (.access 7)) = true ∧ (findRec (ended (.access 7)) 1 0).isSome
    ∧ fltResumeDue 1 0 [] (ended (.firing 0 3)) = true ∧ findRec (ended (.firing 0 3)) 1 0 = none
    ∧ (ended (.firing 0 3)).recs.map (fun r => (r.vf, r.index)) = [(1, some 0)]
    ∧ fltResumeDue 1 0 [] fab = true ∧ findRec fab 1 0 = none ∧ (acc .ld).kind = .ld
    ∧ (let p (t : Token) : Fabric := { f (.firing 0 3) with chans := [chan 0 .boundary .resume [t]] }
       resumePortTokenDue L 0 [] (p (tok 0 1)) = true ∧ resumePortTokenDue L 0 [] (p (tok 0 3)) = true
         ∧ resumePortTokenDue L 0 [] (p { tok 0 1 with payload := ⟨0, 3, 0, 0, 0, 0, 0, 0⟩ }) = true ∧ vfOf L = 1) := by decide +kernel

/-- BudgetsGrantsAndDrops: a grant to a function with a line and to one without; a port's first drop, one in the 1,024 cycles after a
record and one at their end, and one before its converter; a counter at 2^48. -/
theorem wit_budgets :
    (∃ x ∈ fab.lines, x.vf = 1) ∧ (∀ x ∈ fab.lines, x.vf ≠ 48) ∧ (∀ x ∈ fab.launches, x.vf ≠ 48)
    ∧ (let c : Chan := { chan 0 .boundary .boundary [tok 0 1] with ports := [2] }
       let f (d : List (Nat × Nat × Option Nat)) (n : Nat) : Fabric := { fab with cycle := n, chans := [c], module_ := { Module.reset with drops := d } }
       guardDropDue L 0 [] (f [] 100) = true ∧ guardDropDue L 0 [] (f [(2, 1, some 0)] 1023) = true
         ∧ guardDropDue L 0 [] (f [(2, 1, some 0)] 1024) = true ∧ guardPort (f [] 100) c = some 2 ∧ boltOf (f [] 100) L (2 / 16) * 16 + 2 % 16 = 2
         ∧ swageBeyond (f [] 100) c = false)
    ∧ (let c : Chan := { chan 0 .boundary .boundary [] with ports := [2], conv := 1, swage := some 16, swageHop := 1, raw := [⟨tok 0 1, 0⟩] }
       let f : Fabric := { fab with chans := [c] }
       guardDropDue L 0 [] f = true ∧ swageBeyond f c = true ∧ guardPort f c = some 2)
    ∧ counterWrapDue L 0 15 [] { fab with tiles := [{ newTile L 0 with ctr := vset (Vector.replicate 16 0) 15 (2 ^ 48) }] } = true := by
  decide +kernel

/-- TranslationAndBoard: an invalidation while none runs and while one does; one that ends with a write held and with none. -/
theorem wit_translation :
    let f (h : List Nat) : Fabric := { fab with ifaces := [{ Iface.reset 1 0 with busy := true, heldShoot := h }] }
    (getIface fab 1 0).busy = false ∧ (getIface (f []) 1 0).busy = true ∧ shootdownDoneDue 1 0 [] (f []) = true
    ∧ shootdownDoneDue 1 0 [] (f [5]) = true
    ∧ (let g : Fabric := { fab with ifaces := [{ Iface.reset 1 0 with ats := [(5, [])] }] }
       shootdownDoneDue 1 0 [] g = true ∧ (getIface g 1 0).busy = false) ∧ fab.module_.booted = true ∧ supervisor (.quotaLimit 1 0) = true
    ∧ hostDue [] fab = true := by decide +kernel

/-! ## The whole machine -/

/-- DecodeEncode and EncodeDecode: a word and a command that decode, and encode again. -/
theorem wit_encoding : (Instr.add 1 (.o 7) (.c 3) (.imm 31)).wf = true
    ∧ encode (.add 1 (.o 7) (.c 3) (.imm 31)) = some (word 1 8 (15 * 4096 + 19 * 64 + 63))
    ∧ decodeElem (word 1 8 (15 * 4096 + 19 * 64 + 63)) = .ok (.add 1 (.o 7) (.c 3) (.imm 31))
    ∧ (Instr.loop (.idle 3) 31 4096).wf = true ∧ encode (.loop (.idle 3) 31 4096) = some (word 51 8 (31 * 8192 + 4095))
    ∧ decodeCmd (word 51 8 (31 * 8192 + 4095)) = .ok (.loop (.idle 3) 31 4096) := by and_intros <;> rfl

/-- StepRunsTheAgenda: an element with a word, a controller with a command, an event, an empty agenda; and words that do not decode. -/
theorem wit_agenda :
    (let f (w : Word) : Fabric := { fab with agenda := [.fire L 0 0], elems := [bareElem L w] }
     findElem (f 0x04280419) L 0 = some (bareElem L 0x04280419) ∧ (decodeElem 0x04280419).toOption = some (.sub 1 .lat (.c 0) (.k 1))
       ∧ (decodeElem 0x04180000).toOption = none)
    ∧ (let f : Fabric := { fab with agenda := [.issue L 0 0 0], ctls := [bareCtl L 0x00180000] }
       findCtl f L 0 0 = some (bareCtl L 0x00180000) ∧ (decodeCmd 0x00180000).toOption = some (.sigd .always))
    ∧ State.reset.fab.agenda = [] := by decide +kernel

/-- StepsKeepGood and WordsLeaveMemory: a good state that steps, and a word that runs in one. -/
theorem wit_steps_on : State.reset.good ∧ (∃ t, step (State.reset.withFetchWord 32 0x04B001E0) = .next t)
    ∧ (State.reset.withFetchWord 32 0x04B001E0).good ∧ (encode (.pset 1 0 true)).isSome = true
    ∧ ∃ t, exec (.pset 1 0 true) st = .next t := ⟨⟨rfl, rfl⟩, ⟨_, rfl⟩, ⟨rfl, rfl⟩, rfl, ⟨_, rfl⟩⟩

/-! ## Results, from the worked values of the reference entries -/

/-- Lane 0 of `lat` after one word, with `a` in o1, `b` in o2 and `d` in o3, in the given formats. -/
def res (ifmt ffmt rnd : Nat) (sat : Bool) (a b d : Word) (i : Instr) : Option Word :=
  let reg (w : Word) : Reg := ⟨Lanes.rep w, false⟩
  let e : Elem := { el with o := #v[Reg.zero, reg a, reg b, reg d, Reg.zero, Reg.zero, Reg.zero, Reg.zero], ifmt := ifmt, ffmt := ffmt, rnd := rnd, sat := sat }
  match exec i (with_ fun f => { f with elems := [e] }) with
  | .next t => (findElem t.fab L 0).map fun x => x.lat.v.l0
  | _ => none

/-- Integer words on FP32's element, SAT = 0. -/
def int (ifmt : Nat) (a b d : Word) (i : Instr) : Option Word := res ifmt 0 0 false a b d i
def flt (ffmt rnd : Nat) (a b : Word) (i : Instr) : Option Word := res 0 ffmt rnd false a b 0 i

/-- R259, R363, R258, R260: sums in INT8. -/
theorem test_sums : res 2 0 0 true 0x64 0x64 0 (.add 1 .lat (.o 1) (.o 2)) = some 0x7F ∧ int 2 0x64 0x64 0 (.add 1 .lat (.o 1) (.o 2)) = some 0xC8
    ∧ res 2 0 0 true 0x9C 0x64 0 (.sub 1 .lat (.o 1) (.o 2)) = some 0x80 ∧ int 2 0x9C 0x64 0 (.sub 1 .lat (.o 1) (.o 2)) = some 0x38
    ∧ res 2 0 0 true 0x80 0 0 (.abs 1 .lat (.o 1)) = some 0x7F ∧ int 2 0x80 0 0 (.abs 1 .lat (.o 1)) = some 0x80
    ∧ int 2 0 0 0 (.addi 1 (.o 3) 200) = some 0xC8C8C8C8 := by decide +kernel
/-- R334: products in INT16. -/
theorem test_products : int 1 0x4000 4 0 (.mul 1 .lat (.o 1) (.o 2)) = some 0 ∧ res 1 0 0 true 0x4000 4 0 (.mul 1 .lat (.o 1) (.o 2)) = some 0x7FFF
    ∧ int 1 0x4000 4 0 (.mulh 1 .lat (.o 1) (.o 2)) = some 1 ∧ int 1 0xFFFF 0xFFFF 0 (.mulhu 1 .lat (.o 1) (.o 2)) = some 0xFFFE
    ∧ int 1 0xFFFF 0xFFFF 0 (.mulh 1 .lat (.o 1) (.o 2)) = some 0 ∧ int 0 3 5 7 (.mad 1 (.o 3) (.o 1) (.o 2)) = some 22 := by decide +kernel
/-- R272: bit fields. -/
theorem test_fields : int 0 0x12345678 360 0 (.bfx 1 .lat (.o 1) (.o 2)) = some 0x456
    ∧ int 0 0xABC 360 0xFFFFFFFF (.bfi 1 (.o 3) (.o 1) (.o 2)) = some 0xFFFABCFF := by decide +kernel
/-- R278, R344, R329, R332: counts and extrema. -/
theorem test_counts : int 2 0x000180FF 0 0 (.clz 1 .lat (.o 1)) = some 0x08070000 ∧ int 2 0xFF010300 0 0 (.popc 1 .lat (.o 1)) = some 0x08010200
    ∧ int 1 0x80000005 0xE000E000 0 (.max 1 .lat (.o 1) (.o 2)) = some 0xE0000005
    ∧ int 1 0x7FFFE000 0x1FFF1FFF 0 (.min 1 .lat (.o 1) (.o 2)) = some 0x1FFFE000
    ∧ int 1 0x7FFFE000 0x1FFF1FFF 0 (.minu 1 .lat (.o 1) (.o 2)) = some 0x1FFF1FFF := by decide +kernel
/-- R350, R353, R357: shifts. -/
theorem test_shifts : int 1 0x80011234 4 0 (.rot 1 .lat (.o 1) (.imm 4)) = some 0x00182341
    ∧ int 2 0x408100FF 0 0 (.shl 1 .lat (.o 1) (.imm 1)) = some 0x800200FE ∧ int 2 0x408100FF 0 0 (.shr 1 .lat (.o 1) (.imm 1)) = some 0x2040007F
    ∧ int 0 0xFFFFFFFB 0 0 (.sra 1 .lat (.o 1) (.imm 1)) = some 0xFFFFFFFD ∧ int 0 7 0 0 (.shl 1 .lat (.o 1) (.imm 31)) = some 0 := by decide +kernel
/-- R321, R275, R279: constants, selection, comparison. -/
theorem test_constants : int 0 0x12 0 0 (.lih 1 (.o 1) 0x345) = some 0x12345 ∧ int 0 0 0 0 (.li 1 (.o 1) 0xFFF) = some 0xFFFFFFFF
    ∧ int 2 0xFF010300 0 0 (.cmp 1 4 .lat (.o 1) (.imm 31)) = some 0x00FFFFFF := by decide +kernel
/-- R325: folds. -/
theorem test_folds :
    let e (rnd : Nat) (v : Lanes) : Elem := { el with o := vset el.o 1 ⟨v, false⟩, rnd := rnd }
    let run (x : Elem) (i : Instr) : Option Lanes :=
      match exec i (with_ fun f => { f with elems := [x] }) with | .next t => (findElem t.fab L 0).map fun y => y.lat.v | _ => none
    run (e 0 ⟨3, 5, 4, 4, 0, 0, 0, 0⟩) (.lscan 1 0 .lat (.o 1)) = some ⟨3, 8, 12, 16, 16, 16, 16, 16⟩
    ∧ run (e 0 ⟨0x4B800000, 0x3F800000, 0x3F800000, 0, 0, 0, 0, 0⟩) (.lred 1 3 .lat (.o 1)) = some (Lanes.rep 0x4B800000)
    ∧ run (e 2 ⟨0x4B800000, 0x3F800000, 0x3F800000, 0, 0, 0, 0, 0⟩) (.lred 1 3 .lat (.o 1)) = some (Lanes.rep 0x4B800002) := by decide +kernel
/-- R294, R293, R303: conversions. -/
theorem test_conversions : flt 0 2 0x40200000 0 (.fcvti 1 .lat (.o 1)) = some 3 ∧ flt 0 3 0xC0200000 0 (.fcvti 1 .lat (.o 1)) = some 0xFFFFFFFD
    ∧ flt 0 0 0x4F32D05E 0 (.fcvti 1 .lat (.o 1)) = some 0x7FFFFFFF ∧ flt 0 0 0xFF800000 0 (.fcvti 1 .lat (.o 1)) = some 0x80000000
    ∧ res 1 1 0 false 0x01010103 0 0 (.fcvtf 1 .lat (.o 1)) = some 0x43804382 ∧ flt 0 0 0x40600000 0 (.frnd 1 .lat (.o 1)) = some 0x40800000
    ∧ flt 0 0 0xBF000000 0 (.frnd 1 .lat (.o 1)) = some 0x80000000 := by decide +kernel
/-- R301, R305, R300, R306: products, scaling, extrema, differences. -/
theorem test_floats : flt 3 0 0x5A 0x5F (.fmul 1 .lat (.o 1) (.o 2)) = some 0x7E ∧ flt 4 0 0x4D 0x4F (.fmul 1 .lat (.o 1) (.o 2)) = some 0x60
    ∧ flt 4 2 0x4D 0x4F (.fmul 1 .lat (.o 1) (.o 2)) = some 0x61 ∧ flt 0 0 0x42200000 0 (.fscl 1 .lat (.o 1) (.imm 29)) = some 0x40A00000
    ∧ flt 0 0 0x80000000 0 (.fmin 1 .lat (.o 1) (.o 2)) = some 0x80000000 ∧ flt 0 0 0x80000000 0 (.fmax 1 .lat (.o 1) (.o 2)) = some 0
    ∧ flt 0 3 0x3F800000 0x3F800000 (.fsub 1 .lat (.o 1) (.o 2)) = some 0x80000000
    ∧ flt 0 0 0x7F800000 0xFF800000 (.fadd 1 .lat (.o 1) (.o 2)) = some 0x7FC00000 := by decide +kernel
/-- R302, R304, R297, R298, R307: functions at their exact points. -/
theorem test_functions : flt 0 0 0x80000000 0 (.frcp 1 .lat (.o 1)) = some 0xFF800000 ∧ flt 0 0 0x40800000 0 (.frcp 1 .lat (.o 1)) = some 0x3E800000
    ∧ flt 0 0 0x41800000 0 (.frsq 1 .lat (.o 1)) = some 0x3E800000 ∧ flt 0 0 0xC0800000 0 (.frsq 1 .lat (.o 1)) = some 0x7FC00000
    ∧ flt 0 0 0x40400000 0 (.fexp2 1 .lat (.o 1)) = some 0x41000000 ∧ flt 0 0 0x00000001 0 (.flog2 1 .lat (.o 1)) = some 0xC3150000
    ∧ flt 3 0 0x48 0 (.ftanh 1 .lat (.o 1)) = some 0x38 := by decide +kernel

/-! ## Single steps -/

/-- What one instruction leaves of a state, where it answers a next state. -/
def after {α : Type} (i : Instr) (s : State) (g : State → α) : Option α := match exec i s with | .next t => some (g t) | _ => none

/-- A group whose other member has arrived, with the number 33. -/
def arrivedOther : State :=
  with_ fun f => { f with
    groups := [{ grp with members := [0, 1], arrived := [1], stepIds := [(1, 33)], relIds := [40] }]
    elems := [{ el with mine := [44] }, { el with thread := 1, know := [3] }] }

/-- StepsComplete and Groups: as the step completes, by STEP or LEAVE, its members come after what their STEPs released (R138, R151). -/
theorem test_step_learns : after (.step 1 (.imm 0)) arrivedOther (fun t => t.fab.elems.map fun e => e.know) = some [[44, 40, 50], [44, 40, 3]]
    ∧ after (.leave 1 (.imm 0)) arrivedOther (fun t => t.fab.elems.map fun e => e.know) = some [[], [40, 3]] := by decide +kernel

/-- R341, R343, R345: predicates. -/
theorem test_predicates :
    let e : Elem := { el with lat := ⟨⟨0xFF00, 1, 1, 1, 1, 1, 1, 1⟩, false⟩, preds := 1 }
    let run (i : Instr) : Option (BitVec 7) := (after i (with_ fun f => { f with elems := [e] }) fun t => (findElem t.fab L 0).map fun x => x.preds).join
    run (.pall 1 1) = some 3 ∧ run (.pset 1 0 false) = some 0 ∧ run (.plog 1 2 0 1 8) = some 1 ∧ run (.plog 1 2 0 0 8) = some 5 := by decide +kernel
/-- R364, R274: TRAP's and BRK's record, and the line stops. -/
theorem test_trap : after (.trap 1 100) st (fun t => (t.fab.newRecs.map fun r => (r.code, r.detail), (findLine t.fab L).map fun x => x.stopSoon))
      = some ([(15, 100)], some (some 15))
    ∧ after (.brk 1 37) st (fun t => t.fab.newRecs.map fun r => (r.code, r.detail)) = some [(16, 37)] := by decide +kernel
/-- R261: ADVR pops one token, or faults with CHAN_ERR. -/
theorem test_advr : after (.advr 1 0 1) st (fun t => (findChan t.fab L 0).map fun c => c.q.map fun x => x.tok) = some (some [tok 8 1])
    ∧ after (.advr 1 0 3) st (fun t => t.fab.newRecs.map fun r => r.code) = some [12] := by decide +kernel
/-- R286: EMIT commits the staged slot and then its own token, with the item's number. -/
theorem test_emit : after (.emit 1 4 1 (.imm 3)) st
    (fun t => (findChan t.fab L 4).map fun c => (c.staged, c.q.map fun x => (x.tok.payload.l0, x.tok.tag, x.tok.seq)))
    = some (some ([], [(3, 0, 0), (3, 1, 5)])) := by decide +kernel
/-- R360: STEER forwards by its predicate. -/
theorem test_steer : after (.steer 1 0 5 7 0) st (fun t => ((findChan t.fab L 7).map fun c => c.q.length, (findChan t.fab L 5).map fun c => c.q.length))
    = some (some 1, some 0) := by decide +kernel
/-- R358, R9: a store writes its word little-endian. -/
theorem test_store : after (.storeAccept 7) (queued { acc .st with data := Lanes.rep 0x01020304 }) (fun t => (List.range 4).map fun i => t.byte (home + i))
    = some [4, 3, 2, 1] := by decide +kernel
/-- R317: a load returns to its register and `lat`. -/
theorem test_load : after (.loadReturn 7) ⟨(queued (acc .ld)).fab, [(home + 4, 9)]⟩
    (fun t => (findElem t.fab L 0).map fun x => (x.lat.v.l1, (vget x.o 2).v.l1, x.awaits.length)) = some (some (9, 9, 0)) := by decide +kernel
/-- R266: eight atomic additions to one word, one directly after another. -/
theorem test_atomic : after (.atomicReturn 7)
    ⟨(queued { acc (.atom 0) with phys := List.replicate 8 (some (home, false, 2)), off := Lanes.zero }).fab, [(home, 2)]⟩
    (fun t => (t.byte home, (findElem t.fab L 0).map fun x => (x.lat.v.l0, x.lat.v.l7))) = some (42, some (2, 37)) := by decide +kernel
/-- R276: compare and swap where the word is the compared one, and where it is not. -/
theorem test_cas : after (.cas 1 (.k 0) (.k 0) 0 false 0) st (fun t => t.fab.accs.map fun a => a.kind) = some [.cas]
    ∧ (let a : Acc := { acc .cas with got := (List.range 7).map fun i => (i, 0, false) }
       let run (m : Memory) : Option Byte := after (.atomicReturn 7) ⟨(queued a).fab, m⟩ fun t => t.byte (home + 28)
       run [] = some 5 ∧ run [(home + 28, 2)] = some 2) := by decide +kernel
/-- R120, R361: the last member's STEP completes the step in its cycle. -/
theorem test_step : after (.step 1 (.imm 0)) (grouped lastOf)
    (fun t => (findGroup t.fab 1 0).map fun g => (g.step, g.arrived, g.waiting.length, g.swapBy)) = some (some (1, [], 2, some 101)) := by
  decide +kernel
/-- R322: a LOOP of two goes back once more. -/
theorem test_loop : after (.loop .always 1 2) (issuing { ct with pos := 1 } fun f => { f with cur := .ctl L 0 0 1 })
    (fun t => (findCtl t.fab L 0 0).map fun c => (c.pos, c.loops)) = some (some (0, [(1, 1)])) := by decide +kernel
/-- R365: WAITN of a count that is reached completes, and of one that is not stays. -/
theorem test_waitn : after (.waitn .always 0 10) (issuing ct) (fun t => t.fab.cmds.length) = some 0
    ∧ after (.waitn .always 0 11) (issuing ct) (fun t => t.fab.cmds.length) = some 1 := by decide +kernel
/-- R24: a complete item is handed on at the edge. -/
theorem test_edge : after (.beatEdge L) (with_ fun f => { f with lines := [lnEnd], stations := [{ stn with item := some (item (some 3)) },
      { stn with num := 1, item := none, loop := [] }] }) (fun t => (t.fab.stations.map fun x => x.item.map fun i => i.seq, t.fab.lines.map fun x => x.beatIx))
    = some ([some 0, some 5], [1]) := by decide +kernel
/-- R177: the copies of a voted station take the item of the edge; the next station takes what they agree on, and a copy that differs
is counted. -/
theorem test_voted_edge :
    let run (b : Nat) : Option (List (Option Nat) × List Nat) :=
      after (.beatEdge L) (voted fun k => { item (some 3) with out := some (tok (if k = 1 then b else 9) 0) })
        fun t => (t.fab.stations.map fun x => x.item.map fun i => i.desc.payload.l0.toNat, t.fab.voters.map fun v => v.dis1)
    run 9 = some ([some 4, some 4, some 4, some 9], [0]) ∧ run 8 = some ([some 4, some 4, some 4, some 9], [1]) := by decide +kernel
/-- R87, R148: an open BAR holds its table in pipe mode too, and the tile's other controllers. -/
theorem test_bar_holds :
    let c : Ctl := { ct with mode := 1 }
    let may (cs : List Cmd) : Bool := let s := issuing c fun f => { f with cmds := cs }; mayIssue s.fab c 0 .always
    may [] = true ∧ may [⟨3, L, 0, 0, 0, 3, 0, 0, []⟩] = false ∧ may [⟨3, L, 0, 1, 0, 3, 0, 0, []⟩] = false := by decide +kernel
/-- R225: a record of the device's own goes to a frame of the partition's, and to no other. -/
theorem test_device_write :
    let f : Fabric := { fab with parts := [{ Part.reset 1 with frames := [0x20] }] }
    (deviceWrite 1 0x200000 64 [7] f).posted = [(0x200040, 7)] ∧ (deviceWrite 1 0x210000 64 [7] f).posted = [] := by decide +kernel
/-- R168: a count node fires at its target. -/
theorem test_count : after (.countAck 3) (with_ fun f => { f with acks := [⟨3, L, 0, 0, 1, false, 7, 8, [], true, none⟩], cnts := (issuing ct).fab.cnts })
    (fun t => t.fab.cnts.map fun c => (c.val, c.tot, c.queue.map fun x => x.payload.l0)) = some [(0, 14, [14])] := by decide +kernel
/-- R187, R227: a doorbell; a write of the budget through each view. -/
theorem test_host : after (.lqDb 1 0 1) (with_ fun f => { f with ifaces := [{ Iface.reset 1 0 with lqLog := 2 }] }) (fun t => (getIface t.fab 1 0).lqTail) = some 1
    ∧ after (.errBudget 1 true 500) (with_ fun f => { f with parts := [{ Part.reset 1 with owed := 200 }] })
        (fun t => ((getPart t.fab 1).remain, (getPart t.fab 1).owed)) = some (300, 0)
    ∧ after (.errBudget 1 false 500) st (fun t => (getPart t.fab 1).remain) = some 0x100000 := by decide +kernel
/-- The first step after reset plans an empty cycle; a placed word runs in the next step. -/
theorem test_placed : (match step (State.reset.withFetchWord 32 0x04B001E0) with
    | .next t => t.fab.elems.map fun e => e.preds
    | _ => []) = [1] := by decide +kernel
/-- R130, R132, R191, R224, R229: what software reads after reset, and a line's status area. -/
theorem test_register_views : barRead State.reset.fab 1 0x1000 4 = 0x100000 ∧ barRead State.reset.fab 1 0x10018 4 = 0xFFFFFFFF
    ∧ barRead State.reset.fab 1 0x10014 4 = 2000 * 256 ∧ barRead State.reset.fab 1 0x50000 4 = 0xFFFF
    ∧ (weftFields State.reset.fab.module_)[1]? = some ⟨0x100, 8, 0x3FFFFF * 2 ^ 32⟩
    ∧ barRead (with_ fun f => { f with lines := [{ lnEnd with bolts := [3] }] }).fab 1 (0x1000000 + 0x80000 * (L % 64) + 0x10) 2 = 0xFF03 := by
  decide +kernel
/-- R226, R255: the marker of a round on a hand-off route that ends at a guarded port is dropped there. -/
theorem test_guarded_marker : after (.roundEntry L 0) (with_ fun f => { f with
      lines := [{ ln with saveFrames := [0x20], rounds := [(0, true)] }], chans := [], stations := [{ stn with ports := [2] }] })
    (fun t => (t.fab.module_.drops.map fun d => (d.1, d.2.1), t.fab.tiles.map fun x => x.round)) = some ([(2, 1)], [1]) := by decide +kernel
/-- R314: a LOOP behind a HALTC that has issued is not reached. -/
theorem test_halted : after (.haltc .always) (issuing looping) (fun t => (findCtl t.fab L 0 0).map fun c => c.loops) = some (some []) := by decide +kernel
/-- R191, R209: a LOG2N of 15 stores 12; a SLICE of 0 leaves the slice. -/
theorem test_registers : after (.registerWrite false (.fqCfg 1) 0x5001F) st (fun t => let p := getPart t.fab 1; (p.fqVec, p.fqHen, p.fqLog)) = some (5, true, 12)
    ∧ after (.registerWrite true (.ifSched 1 0) 0x72) st (fun t => let i := getIface t.fab 1 0; (i.slice, i.weight, i.prio)) = some (2000, 7, 2) := by
  decide +kernel
/-- R240: a counter that wraps in the cycle in which its line completes signals. -/
theorem test_last_wrap : (reapLines { fab with
    lines := [{ ln with state := 6 }], tiles := [{ newTile L 0 with ctr := vset (Vector.replicate 16 0) 15 (2 ^ 48), ien := 0xFFFF }] }).msix
      = [⟨1, 1⟩] := by decide +kernel

end Sys2Proof.Machine.Tests
end

section
/-!
Proofs about the lane-wise words: what a word gives in every element (R257, R290), from what its element function gives.
-/
namespace Sys2Proof.Machine

/-! ## Elements and widths -/

/-- A width that elements of a lane have (R90, R92). -/
def IsWidth (w : Nat) : Prop := w = 8 ∨ w = 16 ∨ w = 32

theorem intWidth_isWidth (m : Nat) : IsWidth (intWidth m) := intWidth_cases m

theorem floatWidth_isWidth (m : Nat) : IsWidth (floatFmt m).width := floatWidth_cases m

theorem IsWidth.pos {w : Nat} (hw : IsWidth w) : 0 < w := by
  rcases hw with rfl | rfl | rfl <;> decide

/-- The bits of a position field count the positions of an element (R272). -/
theorem IsWidth.two_pow_lgW {w : Nat} (hw : IsWidth w) : 2 ^ lgW w = w := by
  rcases hw with rfl | rfl | rfl <;> rfl

/-- An element of a packed lane, where the element packed fits its width. -/
theorem elemU_packElems_of_lt {w n : Nat} {g : Nat → Nat} (hw : IsWidth w) (hn : n < 32 / w) (hg : g n < 2 ^ w) :
    elemU (packElems w g) n w = g n := by
  rw [elemU_packElems g hw hn, Nat.mod_eq_of_lt hg]

/-- A lane is determined by its elements. -/
theorem eq_of_elemU_eq {w : Nat} (hw : IsWidth w) {x y : Word} (h : ∀ n, n < 32 / w → elemU x n w = elemU y n w) : x = y := by
  apply BitVec.eq_of_toNat_eq
  have hx := x.isLt
  have hy := y.isLt
  rcases hw with rfl | rfl | rfl
  · have h0 := h 0 (by omega)
    have h1 := h 1 (by omega)
    have h2 := h 2 (by omega)
    have h3 := h 3 (by omega)
    simp only [elemU] at h0 h1 h2 h3
    omega
  · have h0 := h 0 (by omega)
    have h1 := h 1 (by omega)
    simp only [elemU] at h0 h1
    omega
  · have h0 := h 0 (by omega)
    simp only [elemU] at h0
    omega

/-- A bit of an element is a bit of its lane. -/
theorem testBit_elemU (x : Word) (n w i : Nat) : (elemU x n w).testBit i = (decide (i < w) && x.getLsbD (w * n + i)) := by
  simp only [elemU, Nat.testBit_mod_two_pow, Nat.testBit_div_two_pow, BitVec.testBit_toNat, Nat.add_comm]

/-- An element of lanes built by the loop of R257, where it fits its width. -/
theorem elemU_intLanes {m l n : Nat} {g : Nat → Nat → Nat → Nat} {a b : Lanes} (hl : l < 8) (hn : n < 32 / intWidth m)
    (hg : g (intWidth m) (elemU (a.get l) n (intWidth m)) (elemU (b.get l) n (intWidth m)) < 2 ^ intWidth m) :
    elemU ((intLanes m g a b).get l) n (intWidth m)
      = g (intWidth m) (elemU (a.get l) n (intWidth m)) (elemU (b.get l) n (intWidth m)) := by
  simp only [intLanes, Lanes.get_ofFn, Nat.mod_eq_of_lt hl]
  exact elemU_packElems_of_lt (intWidth_isWidth m) hn hg

/-! ## What a word gives, from its element function -/

/-- On patterns of every width, `g` stays within the width and gives a result that `P` admits. -/
def Gives (g : Bool → Nat → Nat → Nat → Nat) (P : Bool → Nat → Nat → Nat → Nat → Prop) : Prop :=
  ∀ sat w x y, IsWidth w → x < 2 ^ w → y < 2 ^ w → g sat w x y < 2 ^ w ∧ P sat w x y (g sat w x y)

/-- An integer word of two sources completes with what its element function gives (R257). -/
theorem intVal2_completes {i : Instr} {d : Dst} {a b : Src} {g : Bool → Nat → Nat → Nat → Nat}
    {P : Bool → Nat → Nat → Nat → Nat → Prop} (hx : ∀ s, exec i s = fireResult i d (intVal2 g a b) s)
    (hd : i.wf = true → d.wf = true) (hg : Gives g P) :
    Completes i d fun f e r =>
      r.poison = ((readSrc f e .int a).poison || (readSrc f e .int b).poison)
        ∧ EachElem (intWidth e.ifmt) fun l n => P e.sat (intWidth e.ifmt)
            (elemU ((readSrc f e .int a).v.get l) n (intWidth e.ifmt)) (elemU ((readSrc f e .int b).v.get l) n (intWidth e.ifmt))
            (elemU (r.v.get l) n (intWidth e.ifmt)) := by
  refine (fireResult_completes hx hd fun f e slot => by simp [intVal2]).mono ?_
  rintro f e r rfl
  refine ⟨rfl, fun l n hl hn => ?_⟩
  obtain ⟨hlt, hP⟩ := hg e.sat _ _ _ (intWidth_isWidth e.ifmt) (elemU_lt ((readSrc f e .int a).v.get l) n _)
    (elemU_lt ((readSrc f e .int b).v.get l) n _)
  simp only [intVal2]
  rwa [elemU_intLanes hl hn hlt]

/-- A word of one source is a word of two that reads the source twice. -/
theorem fireResult_intVal1 (i : Instr) (d : Dst) (g : Bool → Nat → Nat → Nat) (a : Src) (s : State) :
    fireResult i d (intVal1 g a) s = fireResult i d (intVal2 (fun sat w x _ => g sat w x) a a) s := by
  have h : intVal1 g a = intVal2 (fun sat w x _ => g sat w x) a a := by
    funext f e
    simp [intVal1, intVal2]
  rw [h]

/-- A signed word, from its element function. -/
theorem signedWord_of_gives {i : Instr} {d : Dst} {a b : Src} {g : Bool → Nat → Nat → Nat → Nat}
    {P : Bool → Nat → Int → Int → Int → Prop} (hx : ∀ s, exec i s = fireResult i d (intVal2 g a b) s)
    (hd : i.wf = true → d.wf = true) (hg : Gives g fun sat w x y r => P sat w (toS w x) (toS w y) (toS w r)) :
    SignedWord i d a b P :=
  intVal2_completes hx hd hg

/-- A word on patterns, from its element function. -/
theorem patternWord_of_gives {i : Instr} {d : Dst} {a b : Src} {g : Bool → Nat → Nat → Nat → Nat}
    {P : Nat → Nat → Nat → Nat → Prop} (hx : ∀ s, exec i s = fireResult i d (intVal2 g a b) s)
    (hd : i.wf = true → d.wf = true) (hg : Gives g fun _ w x y r => P w x y r) : PatternWord i d a b P :=
  intVal2_completes hx hd hg

/-- A word that acts on every element as an operation on lanes does acts on the lanes. -/
theorem laneWord_of_gives {i : Instr} {d : Dst} {a b : Src} {g : Bool → Nat → Nat → Nat → Nat} {op : Word → Word → Word}
    (hx : ∀ s, exec i s = fireResult i d (intVal2 g a b) s) (hd : i.wf = true → d.wf = true)
    (hg : ∀ sat x y n w, IsWidth w → n < 32 / w → g sat w (elemU x n w) (elemU y n w) = elemU (op x y) n w) :
    LaneWord i d a b fun x y r => r = op x y := by
  refine (fireResult_completes hx hd fun f e slot => by simp [intVal2]).mono ?_
  rintro f e r rfl
  refine ⟨rfl, fun l hl => eq_of_elemU_eq (intWidth_isWidth e.ifmt) fun n hn => ?_⟩
  have he := hg e.sat ((readSrc f e .int a).v.get l) ((readSrc f e .int b).v.get l) n _ (intWidth_isWidth e.ifmt) hn
  exact (elemU_intLanes hl hn (by rw [he]; exact elemU_lt _ _ _)).trans he

/-- An integer word that also reads the old `d` completes with what its element function gives (R272, R327). -/
theorem intVal3_completes {i : Instr} {d : Dst} {a b : Src} {g : Bool → Nat → Nat → Nat → Nat → Nat}
    {P : Bool → Nat → Nat → Nat → Nat → Nat → Prop} (hx : ∀ s, exec i s = fireResult i d (intVal3 g d a b) s)
    (hd : i.wf = true → d.wf = true)
    (hg : ∀ sat w x y z, IsWidth w → x < 2 ^ w → y < 2 ^ w → z < 2 ^ w →
      g sat w x y z < 2 ^ w ∧ P sat w x y z (g sat w x y z)) :
    Completes i d fun f e r =>
      r.poison = ((readSrc f e .int a).poison || (readSrc f e .int b).poison || (readDst e d).poison)
        ∧ EachElem (intWidth e.ifmt) fun l n => P e.sat (intWidth e.ifmt)
            (elemU ((readSrc f e .int a).v.get l) n (intWidth e.ifmt)) (elemU ((readSrc f e .int b).v.get l) n (intWidth e.ifmt))
            (elemU ((readDst e d).v.get l) n (intWidth e.ifmt)) (elemU (r.v.get l) n (intWidth e.ifmt)) := by
  refine (fireResult_completes hx hd fun f e slot => by simp [intVal3]).mono ?_
  rintro f e r rfl
  refine ⟨rfl, fun l n hl hn => ?_⟩
  have hw := intWidth_isWidth e.ifmt
  obtain ⟨hlt, hP⟩ := hg e.sat _ _ _ _ hw (elemU_lt ((readSrc f e .int a).v.get l) n _)
    (elemU_lt ((readSrc f e .int b).v.get l) n _) (elemU_lt ((readDst e d).v.get l) n _)
  simp only [intVal3, intLanes3, Lanes.get_ofFn, Nat.mod_eq_of_lt hl]
  rwa [elemU_packElems_of_lt hw hn hlt]

/-- A float word of two sources, from its element function (R290). -/
theorem floatWord_of_gives {i : Instr} {d : Dst} {a b : Src} {g : Fmt → Nat → Nat → Nat → Nat}
    {P : Fmt → Nat → Nat → Nat → Nat → Prop} (hx : ∀ s, exec i s = fireResult i d (fltVal2 g a b) s)
    (hd : i.wf = true → d.wf = true)
    (hg : ∀ m rnd x y, x < 2 ^ (floatFmt m).width → y < 2 ^ (floatFmt m).width →
      g (floatFmt m) rnd x y < 2 ^ (floatFmt m).width ∧ P (floatFmt m) rnd x y (g (floatFmt m) rnd x y)) :
    FloatWord i d a b P := by
  refine (fireResult_completes hx hd fun f e slot => by simp [fltVal2]).mono ?_
  rintro f e r rfl
  refine ⟨rfl, fun l n hl hn => ?_⟩
  have hw := floatWidth_isWidth e.ffmt
  obtain ⟨hlt, hP⟩ := hg e.ffmt e.rnd _ _ (elemU_lt ((readSrc f e .float a).v.get l) n _)
    (elemU_lt ((readSrc f e .float b).v.get l) n _)
  simp only [fltVal2, floatLanes, Lanes.get_ofFn, Nat.mod_eq_of_lt hl]
  rwa [elemU_packElems_of_lt hw hn hlt]

/-! ## The destination of a well-formed word -/

/-- The second check of four, as `Instr.wf` has them for a word of two sources. -/
theorem dst_checked {p q r u : Bool} (h : (p && q && r && u) = true) : q = true := by
  simp only [Bool.and_eq_true] at h
  exact h.1.1.2

/-- The second check of three, as `Instr.wf` has them for a word of one source. -/
theorem dst_checked_of_one {p q r : Bool} (h : (p && q && r) = true) : q = true := by
  simp only [Bool.and_eq_true] at h
  exact h.1.2

/-- A destination that may be read as well is a destination (R69). -/
theorem Dst.wf_of_isReg {d : Dst} (h : d.isReg = true) : d.wf = true := by
  cases d with
  | lat => rfl
  | o n => exact h
  | c n => cases h

/-! ## Signed readings -/

theorem two_pow_eq_double {w : Nat} (hw : 0 < w) : (2 : Int) ^ w = 2 * 2 ^ (w - 1) := by
  rw [← pow_succ', Nat.sub_add_cancel hw]

/-- A number of the signed range is read back from its pattern. -/
theorem toS_wrapU {w : Nat} (hw : 0 < w) {v : Int} (hlo : -(2 ^ (w - 1)) ≤ v) (hhi : v < 2 ^ (w - 1)) :
    toS w (wrapU w v) = v := by
  have hc : clampS w v = v := by rw [clampS, min_eq_left (by omega), max_eq_right hlo]
  have h := satW_governed hw true v
  simp only [Governed, satW, if_true, hc] at h
  exact h.trans hc

theorem satW_lt (sat : Bool) (w : Nat) (v : Int) : satW sat w v < 2 ^ w := wrapU_lt _ _

/-- A governed element function gives governed results (R91). -/
theorem gives_governed (v : Nat → Nat → Nat → Int) :
    Gives (fun sat w x y => satW sat w (v w x y)) fun sat w x y r => Governed sat w (v w x y) (toS w r) :=
  fun sat w x y hw _ _ => ⟨satW_lt sat w _, satW_governed hw.pos sat (v w x y)⟩

/-! ## Sums and products -/

/-- ADDI's constant is its low bits in two's complement (R260). -/
theorem addiConst_eq_toInt (w c : Nat) :
    addiConst w c = if w = 8 then (BitVec.ofNat 8 c).toInt else (BitVec.ofNat 12 c).toInt := by
  simp only [addiConst, toS, BitVec.toInt, BitVec.toNat_ofNat]
  split <;> split <;> split <;> push_cast <;> omega

/-- ADDI's result: the governed sum of every element of the old `d` and the constant (R260). -/
def addiVal (d : Dst) (c : Nat) (e : Elem) : Reg :=
  ⟨intLanes e.ifmt (fun w x _ => satW e.sat w (toS w x + addiConst w c)) (readDst e d).v (readDst e d).v, (readDst e d).poison⟩

theorem exec_addi (t : Nat) (d : Dst) (c : Nat) (s : State) :
    exec (.addi t d c) s = fireResult (.addi t d c) d (fun _ e => addiVal d c e) s := rfl

/-- ADDI gives the governed sum in every element of the old `d`, and keeps its poison (R260). -/
theorem addi_completes (t : Nat) (d : Dst) (c : Nat) :
    Completes (.addi t d c) d fun _ e r =>
      r.poison = (readDst e d).poison ∧ EachElem (intWidth e.ifmt) fun l n =>
        Governed e.sat (intWidth e.ifmt) (elemS ((readDst e d).v.get l) n (intWidth e.ifmt) + addiConst (intWidth e.ifmt) c)
          (elemS (r.v.get l) n (intWidth e.ifmt)) := by
  have hd : Instr.wf (.addi t d c) = true → d.wf = true := fun h => by
    simp only [Instr.wf, Bool.and_eq_true] at h
    exact Dst.wf_of_isReg h.1.2
  refine (fireResult_completes (exec_addi t d c) hd fun f e slot => by simp [addiVal]).mono ?_
  rintro f e r rfl
  refine ⟨rfl, fun l n hl hn => ?_⟩
  simp only [addiVal, elemS]
  rw [elemU_intLanes hl hn (satW_lt _ _ _)]
  exact satW_governed (intWidth_isWidth e.ifmt).pos e.sat _

/-- The high half of a signed product lies in the signed range. -/
theorem signed_high_range {h x y : Int} (hh : 0 < h) (hx : -h ≤ x ∧ x < h) (hy : -h ≤ y ∧ y < h) :
    -h ≤ x * y / (2 * h) ∧ x * y / (2 * h) < h := by
  have hxy : |x * y| ≤ h * h := by
    rw [abs_mul]
    exact mul_le_mul (abs_le.mpr ⟨hx.1, hx.2.le⟩) (abs_le.mpr ⟨hy.1, hy.2.le⟩) (abs_nonneg y) hh.le
  obtain ⟨hlo, hhi⟩ := abs_le.mp hxy
  constructor
  · rw [Int.le_ediv_iff_mul_le (by omega)]
    nlinarith
  · rw [Int.ediv_lt_iff_lt_mul (by omega)]
    nlinarith

theorem gives_mulh : Gives (fun _ => mulhE) fun _ w x y r => toS w r = toS w x * toS w y / 2 ^ w := by
  intro _ w x y hw hx hy
  have hp : (0 : Int) < 2 ^ (w - 1) := by positivity
  obtain ⟨hxlo, hxhi, -⟩ := toS_range hw.pos hx
  obtain ⟨hylo, hyhi, -⟩ := toS_range hw.pos hy
  obtain ⟨hlo, hhi⟩ := signed_high_range hp ⟨hxlo, hxhi⟩ ⟨hylo, hyhi⟩
  rw [← two_pow_eq_double hw.pos] at hlo hhi
  exact ⟨wrapU_lt _ _, toS_wrapU hw.pos hlo hhi⟩

theorem gives_mulhu : Gives (fun _ => mulhuE) fun _ w x y r => r = x * y / 2 ^ w := by
  intro _ w x y _ hx hy
  have hlt : x * y / 2 ^ w < 2 ^ w := Nat.div_lt_of_lt_mul (Nat.mul_lt_mul'' hx hy)
  simp only [mulhuE, Nat.mod_eq_of_lt hlt]
  exact ⟨hlt, trivial⟩

theorem integerSums : Rule.IntegerSums := by
  intro t d a b c
  refine ⟨?add, ?sub, ?mul, ?abs, ?addi, ?mad⟩
  case add => exact signedWord_of_gives (fun _ => rfl) dst_checked (gives_governed fun w x y => toS w x + toS w y)
  case sub => exact signedWord_of_gives (fun _ => rfl) dst_checked (gives_governed fun w x y => toS w x - toS w y)
  case mul => exact signedWord_of_gives (fun _ => rfl) dst_checked (gives_governed fun w x y => toS w x * toS w y)
  case abs =>
    exact signedWord_of_gives (fireResult_intVal1 _ d absE a) dst_checked_of_one (gives_governed fun w x _ => (toS w x).natAbs)
  case addi => simpa only [addiConst_eq_toInt] using addi_completes t d c
  case mad =>
    refine intVal3_completes (P := fun sat w x y z r => Governed sat w (toS w x * toS w y + toS w z) (toS w r))
      (fun _ => rfl) (fun h => Dst.wf_of_isReg (dst_checked h)) fun sat w x y z hw _ _ _ => ?_
    exact ⟨satW_lt _ _ _, satW_governed hw.pos sat _⟩

theorem highProducts : Rule.HighProducts := fun _ _ _ _ =>
  ⟨signedWord_of_gives (fun _ => rfl) dst_checked gives_mulh, patternWord_of_gives (fun _ => rfl) dst_checked gives_mulhu⟩

/-- Settles O35, from the governed element functions and the high halves of products. -/
theorem integerArithmetic : Obligations.IntegerArithmetic := ⟨integerSums, highProducts⟩

/-! ## Bitwise words -/

theorem elemU_and (x y : Word) (n w : Nat) : elemU (x &&& y) n w = elemU x n w &&& elemU y n w := by
  simp only [elemU, BitVec.toNat_and, Nat.and_div_two_pow, Nat.and_mod_two_pow]

theorem elemU_or (x y : Word) (n w : Nat) : elemU (x ||| y) n w = elemU x n w ||| elemU y n w := by
  simp only [elemU, BitVec.toNat_or, Nat.or_div_two_pow, Nat.or_mod_two_pow]

theorem elemU_xor (x y : Word) (n w : Nat) : elemU (x ^^^ y) n w = elemU x n w ^^^ elemU y n w := by
  simp only [elemU, BitVec.toNat_xor, Nat.xor_div_two_pow, Nat.xor_mod_two_pow]

/-- The element lies within its lane. -/
theorem elem_in_lane {w n : Nat} (hw : IsWidth w) (hn : n < 32 / w) : w * n + w ≤ 32 := by
  rcases hw with rfl | rfl | rfl <;> omega

theorem elemU_not (x : Word) {n w : Nat} (hw : IsWidth w) (hn : n < 32 / w) : elemU (~~~x) n w = 2 ^ w - 1 - elemU x n w := by
  apply Nat.eq_of_testBit_eq
  intro i
  rw [Nat.sub_sub, Nat.add_comm 1, Nat.testBit_two_pow_sub_succ (elemU_lt x n w)]
  simp only [testBit_elemU, BitVec.getLsbD_not]
  by_cases hi : i < w
  · have := elem_in_lane hw hn
    have hin : w * n + i < 32 := by omega
    simp [hi, hin]
  · simp [hi]

/-- BSEL takes A's bit where the mask is one and B's where it is zero (R275). -/
theorem getLsbD_select (x y m : Word) {i : Nat} (hi : i < 32) :
    ((x &&& m) ||| (y &&& ~~~m)).getLsbD i = if m.getLsbD i then x.getLsbD i else y.getLsbD i := by
  simp only [BitVec.getLsbD_or, BitVec.getLsbD_and, BitVec.getLsbD_not, hi]
  cases m.getLsbD i <;> simp

theorem bitwiseWords : Rule.BitwiseWords := by
  intro t d a b
  refine ⟨?and, ?or, ?xor, ?andn, ?bsel⟩
  case and => exact laneWord_of_gives (fun _ => rfl) dst_checked fun _ x y n w _ _ => (elemU_and x y n w).symm
  case or => exact laneWord_of_gives (fun _ => rfl) dst_checked fun _ x y n w _ _ => (elemU_or x y n w).symm
  case xor => exact laneWord_of_gives (fun _ => rfl) dst_checked fun _ x y n w _ _ => (elemU_xor x y n w).symm
  case andn =>
    refine laneWord_of_gives (op := fun x y => x &&& ~~~y) (fun _ => rfl) dst_checked fun _ x y n w hw hn => ?_
    rw [elemU_and, elemU_not y hw hn]
  case bsel =>
    refine (fireResult_completes (i := .bsel t d a b) (val := bselVal a b) (fun _ => rfl) dst_checked
      fun f e slot => by simp [bselVal]).mono ?_
    rintro f e r rfl
    refine ⟨rfl, fun l i hl hi => ?_⟩
    simp only [bselVal, Lanes.get_ofFn, Nat.mod_eq_of_lt hl]
    exact getLsbD_select _ _ _ hi

/-! ## Shifts and rotation -/

theorem shlE_lt (w x c : Nat) : shlE w x c < 2 ^ w := by
  simp only [shlE]
  split
  · exact Nat.mod_lt _ (Nat.two_pow_pos w)
  · exact Nat.two_pow_pos w

/-- A bit of a left shift (R353). -/
theorem testBit_shlE (x c : Nat) {w i : Nat} (hi : i < w) :
    (shlE w x c).testBit i = (decide (c ≤ i) && x.testBit (i - c)) := by
  simp only [shlE]
  split
  · simp [Nat.testBit_mod_two_pow, Nat.testBit_mul_two_pow, hi]
  · have hc : ¬c ≤ i := by omega
    simp [hc]

theorem shrE_lt {w x : Nat} (c : Nat) (hx : x < 2 ^ w) : shrE w x c < 2 ^ w := by
  simp only [shrE]
  split
  · exact lt_of_le_of_lt (Nat.div_le_self _ _) hx
  · exact Nat.two_pow_pos w

/-- A pattern of a width has no bit at or above it. -/
theorem testBit_of_width_le {w x i : Nat} (hx : x < 2 ^ w) (hi : w ≤ i) : x.testBit i = false :=
  Nat.testBit_lt_two_pow (lt_of_lt_of_le hx (Nat.pow_le_pow_right (by decide) hi))

/-- A bit of a logical right shift (R353). -/
theorem testBit_shrE {w x : Nat} (c i : Nat) (hx : x < 2 ^ w) :
    (shrE w x c).testBit i = (decide (i + c < w) && x.testBit (i + c)) := by
  simp only [shrE]
  by_cases h : i + c < w
  · have hc : c < w := by omega
    simp [h, hc, Nat.testBit_div_two_pow]
  · have hz := testBit_of_width_le hx (Nat.le_of_not_lt h)
    split <;> simp [h, Nat.testBit_div_two_pow, hz]

/-- A rotation puts the high bits below the others (R350). -/
theorem rotE_eq {w : Nat} (x c : Nat) (hw : 0 < w) :
    rotE w x c = 2 ^ (c % w) * (x % 2 ^ (w - c % w)) + x / 2 ^ (w - c % w) := by
  have hk : c % w ≤ w := (Nat.mod_lt c hw).le
  have hm : x * 2 ^ (c % w) % 2 ^ w = 2 ^ (c % w) * (x % 2 ^ (w - c % w)) := by
    rw [Nat.mul_comm, ← Nat.mul_mod_mul_left, ← pow_add, Nat.add_sub_cancel' hk]
  rw [rotE, hm]

/-- The bits a rotation brings round fit below the others. -/
theorem rot_low_lt {w x k : Nat} (hk : k ≤ w) (hx : x < 2 ^ w) : x / 2 ^ (w - k) < 2 ^ k := by
  apply Nat.div_lt_of_lt_mul
  rwa [← pow_add, Nat.sub_add_cancel hk]

/-- A bit of a rotation, at every position (R350). -/
theorem testBit_rotE {w x : Nat} (c j : Nat) (hw : 0 < w) (hx : x < 2 ^ w) :
    (rotE w x c).testBit j
      = if j < c % w then x.testBit (w - c % w + j) else decide (j < w) && x.testBit (j - c % w) := by
  have hk : c % w < w := Nat.mod_lt c hw
  rw [rotE_eq x c hw, Nat.testBit_two_pow_mul_add _ (rot_low_lt hk.le hx)]
  split
  · rw [Nat.testBit_div_two_pow, Nat.add_comm]
  · have hj : (j - c % w < w - c % w) ↔ j < w := by omega
    simp only [Nat.testBit_mod_two_pow, hj]

theorem rotE_lt {w x : Nat} (c : Nat) (hw : 0 < w) (hx : x < 2 ^ w) : rotE w x c < 2 ^ w := by
  have hk : c % w < w := Nat.mod_lt c hw
  apply Nat.lt_pow_two_of_testBit
  intro j hj
  rw [testBit_rotE c j hw hx, if_neg (by omega)]
  simp [Nat.not_lt.mpr hj]

/-- Bit `i` goes to place `i + c` modulo the width (R350). -/
theorem testBit_rotE_add {w x i : Nat} (c : Nat) (hi : i < w) (hx : x < 2 ^ w) :
    (rotE w x c).testBit ((i + c) % w) = x.testBit i := by
  have hw : 0 < w := by omega
  have hk : c % w < w := Nat.mod_lt c hw
  have hj : (i + c) % w = if i + c % w < w then i + c % w else i + c % w - w := by
    rw [Nat.add_mod, Nat.mod_eq_of_lt hi]
    split
    · exact Nat.mod_eq_of_lt (by assumption)
    · rw [Nat.mod_eq_sub_mod (by omega), Nat.mod_eq_of_lt (by omega)]
  rw [testBit_rotE c _ hw hx, hj]
  split
  · rw [if_neg (by omega), decide_eq_true (by assumption), Bool.true_and, Nat.add_sub_cancel]
  · rw [if_pos (by omega)]
    congr 1
    omega

/-- The model's arithmetic shift is the floor of a division, at every count (R357). -/
theorem sraE_eq_div {w x : Nat} (c : Nat) (hw : 0 < w) (hx : x < 2 ^ w) : sraE w x c = wrapU w (toS w x / 2 ^ c) := by
  obtain ⟨hlo, hhi, -⟩ := toS_range hw hx
  simp only [sraE]
  by_cases hc : c < w
  · rw [if_pos hc]
  · have hpow : (2 : Int) ^ (w - 1) ≤ 2 ^ c := pow_le_pow_right₀ (by decide) (by omega)
    rw [if_neg hc]
    split
    · rw [Int.ediv_eq_neg_one_of_neg_of_le (by assumption) (by omega)]
    · rw [Int.ediv_eq_zero_of_lt (by omega) (by omega)]

/-- A floor division by a power of two stays within a signed range. -/
theorem ediv_two_pow_range {h v : Int} (c : Nat) (hlo : -h ≤ v) (hhi : v < h) : -h ≤ v / 2 ^ c ∧ v / 2 ^ c < h := by
  have hp : (1 : Int) ≤ 2 ^ c := one_le_pow₀ (by decide)
  constructor
  · rw [Int.le_ediv_iff_mul_le (by omega)]
    nlinarith
  · rw [Int.ediv_lt_iff_lt_mul (by omega)]
    nlinarith

theorem gives_sra : Gives (fun _ => sraE) fun _ w x c r => toS w r = toS w x / 2 ^ c := by
  intro _ w x c hw hx _
  obtain ⟨hlo, hhi, -⟩ := toS_range hw.pos hx
  obtain ⟨hdlo, hdhi⟩ := ediv_two_pow_range c hlo hhi
  dsimp only
  rw [sraE_eq_div c hw.pos hx]
  exact ⟨wrapU_lt _ _, toS_wrapU hw.pos hdlo hdhi⟩

theorem shifts : Rule.Shifts := by
  intro t d a b
  refine ⟨?shl, ?shr, ?rot, ?sra⟩
  case shl =>
    exact patternWord_of_gives (fun _ => rfl) dst_checked fun _ w x c _ _ _ => ⟨shlE_lt w x c, fun _ => testBit_shlE x c⟩
  case shr =>
    exact patternWord_of_gives (fun _ => rfl) dst_checked fun _ w x c _ hx _ => ⟨shrE_lt c hx, fun i _ => testBit_shrE c i hx⟩
  case rot =>
    exact patternWord_of_gives (fun _ => rfl) dst_checked fun _ w x c hw hx _ =>
      ⟨rotE_lt c hw.pos hx, fun _ hi => testBit_rotE_add c hi hx⟩
  case sra => exact intVal2_completes (i := .sra t d a b) (fun _ => rfl) dst_checked gives_sra

/-- Settles O36, bit by bit: lanes from their elements, shifts and rotation from their bits. -/
theorem bitsAndShifts : Obligations.BitsAndShifts := ⟨bitwiseWords, shifts⟩

/-! ## Bit fields -/

theorem bfPos_eq {w : Nat} (b : Nat) (hw : IsWidth w) : bfPos w b = b % w := by
  rw [bfPos, hw.two_pow_lgW]

theorem bfLen_eq {w : Nat} (b : Nat) (hw : IsWidth w) : bfLen w b = min (b / w % w + 1) (w - b % w) := by
  rw [bfLen, bfPos_eq b hw, hw.two_pow_lgW]

/-- A field lies within its element (R272). -/
theorem bfPos_add_bfLen_le {w : Nat} (b : Nat) (hw : IsWidth w) : bfPos w b + bfLen w b ≤ w := by
  have hp : bfPos w b < w := by
    rw [bfPos_eq b hw]
    exact Nat.mod_lt b hw.pos
  have hk : bfLen w b ≤ w - bfPos w b := min_le_right _ _
  omega

theorem testBit_bfxE (w x b i : Nat) :
    (bfxE w x b).testBit i = (decide (i < bfLen w b) && x.testBit (bfPos w b + i)) := by
  simp only [bfxE, Nat.testBit_mod_two_pow, Nat.testBit_div_two_pow, Nat.add_comm]

theorem bfxE_lt (w b : Nat) {x : Nat} (hx : x < 2 ^ w) : bfxE w x b < 2 ^ w :=
  lt_of_le_of_lt ((Nat.mod_le _ _).trans (Nat.div_le_self _ _)) hx

theorem gives_bfx : Gives (fun _ => bfxE) fun _ w x b r =>
    ∀ i, i < w → r.testBit i = (decide (i < min (b / w % w + 1) (w - b % w)) && x.testBit (b % w + i)) := by
  intro _ w x b hw hx _
  refine ⟨bfxE_lt w b hx, fun i _ => ?_⟩
  rw [testBit_bfxE, bfLen_eq b hw, bfPos_eq b hw]

/-- The field of a pattern, with what stands above and below it. -/
theorem split_field (z p k : Nat) :
    z = 2 ^ p * (2 ^ k * (z / 2 ^ (p + k)) + z / 2 ^ p % 2 ^ k) + z % 2 ^ p := by
  rw [pow_add, ← Nat.div_div_eq_div_mul, Nat.div_add_mod, Nat.div_add_mod]

/-- Insertion puts the low bits of `x` between what stands above and below the field (R272). -/
theorem bfiE_eq (w x b z : Nat) :
    bfiE w x b z
      = 2 ^ bfPos w b * (2 ^ bfLen w b * (z / 2 ^ (bfPos w b + bfLen w b)) + x % 2 ^ bfLen w b) + z % 2 ^ bfPos w b := by
  have hz := split_field z (bfPos w b) (bfLen w b)
  rw [Nat.mul_add, Nat.mul_comm _ (z / _ % _)] at hz
  rw [Nat.mul_add, Nat.mul_comm _ (x % _), bfiE]
  omega

/-- A bit after insertion: of `x` within the field, of the old `z` elsewhere (R272). -/
theorem testBit_bfiE (w x b z i : Nat) :
    (bfiE w x b z).testBit i
      = if bfPos w b ≤ i ∧ i < bfPos w b + bfLen w b then x.testBit (i - bfPos w b) else z.testBit i := by
  rw [bfiE_eq, Nat.testBit_two_pow_mul_add _ (Nat.mod_lt _ (Nat.two_pow_pos _)),
    Nat.testBit_two_pow_mul_add _ (Nat.mod_lt _ (Nat.two_pow_pos _))]
  simp only [Nat.testBit_mod_two_pow, Nat.testBit_div_two_pow]
  by_cases hlo : i < bfPos w b
  · rw [if_pos hlo, if_neg (by omega), decide_eq_true hlo, Bool.true_and]
  · rw [if_neg hlo]
    by_cases hhi : i < bfPos w b + bfLen w b
    · rw [if_pos (by omega), if_pos (by omega), decide_eq_true (by omega), Bool.true_and]
    · rw [if_neg (by omega), if_neg (by omega)]
      congr 1
      omega

theorem bfiE_lt {w : Nat} (x b : Nat) {z : Nat} (hw : IsWidth w) (hz : z < 2 ^ w) : bfiE w x b z < 2 ^ w := by
  apply Nat.lt_pow_two_of_testBit
  intro i hi
  have hk := bfPos_add_bfLen_le b hw
  rw [testBit_bfiE, if_neg (by omega)]
  exact testBit_of_width_le hz hi

/-- Settles O1, bit by bit: the bits of the field, and those about it. -/
theorem bitFields : Obligations.BitFields := by
  intro t d a b
  refine ⟨patternWord_of_gives (fun _ => rfl) dst_checked gives_bfx, ?_⟩
  refine intVal3_completes (i := .bfi t d a b)
    (P := fun _ w x c z r => ∀ i, i < w → r.testBit i
      = if c % w ≤ i ∧ i < c % w + min (c / w % w + 1) (w - c % w) then x.testBit (i - c % w) else z.testBit i)
    (fun _ => rfl) (fun h => Dst.wf_of_isReg (dst_checked h)) fun _ w x c z hw _ _ hz => ?_
  refine ⟨bfiE_lt x c hw hz, fun i _ => ?_⟩
  rw [testBit_bfiE, bfLen_eq c hw, bfPos_eq c hw]

/-! ## Extrema and counts -/

theorem toS_minE (w x y : Nat) : toS w (minE w x y) = min (toS w x) (toS w y) := by
  rw [minE, apply_ite (toS w), min_def]

theorem toS_maxE (w x y : Nat) : toS w (maxE w x y) = max (toS w x) (toS w y) := by
  rw [maxE, apply_ite (toS w), max_def]

/-- One of two patterns of a width is a pattern of the width. -/
theorem ite_lt_of_lt {p : Prop} [Decidable p] {w x y : Nat} (hx : x < w) (hy : y < w) : (if p then x else y) < w := by
  split <;> assumption

theorem minimaMaxima : Rule.MinimaMaxima := by
  intro t d a b
  refine ⟨?min, ?max, ?minu, ?maxu⟩
  case min =>
    exact signedWord_of_gives (fun _ => rfl) dst_checked fun _ w x y _ hx hy => ⟨ite_lt_of_lt hx hy, toS_minE w x y⟩
  case max =>
    exact signedWord_of_gives (fun _ => rfl) dst_checked fun _ w x y _ hx hy => ⟨ite_lt_of_lt hy hx, toS_maxE w x y⟩
  case minu => exact patternWord_of_gives (fun _ => rfl) dst_checked fun _ _ _ _ _ hx _ => ⟨min_lt_of_left_lt hx, rfl⟩
  case maxu => exact patternWord_of_gives (fun _ => rfl) dst_checked fun _ _ _ _ _ hx hy => ⟨max_lt hx hy, rfl⟩

theorem clzE_le (w x : Nat) : clzE w x ≤ w := by
  simp only [clzE]
  split <;> omega

/-- Of a pattern that is not zero, the highest one bit stands below as many zeros as CLZ counts (R278). -/
theorem clzE_spec {w x : Nat} (hx : x < 2 ^ w) (h0 : x ≠ 0) :
    clzE w x < w ∧ 2 ^ (w - 1 - clzE w x) ≤ x ∧ x < 2 ^ (w - clzE w x) := by
  have hlog : x.log2 < w := (Nat.log2_lt h0).mpr hx
  have htop : w - 1 - clzE w x = x.log2 ∧ w - clzE w x = x.log2 + 1 := by
    simp only [clzE, if_neg h0]
    omega
  rw [htop.1, htop.2]
  refine ⟨by omega, Nat.log2_self_le h0, Nat.lt_log2_self⟩

theorem gives_clz : Gives (fun _ w x _ => clzE w x) fun _ w x _ r =>
    if x = 0 then r = w else r < w ∧ 2 ^ (w - 1 - r) ≤ x ∧ x < 2 ^ (w - r) := by
  intro _ w x _ _ hx _
  refine ⟨lt_of_le_of_lt (clzE_le w x) Nat.lt_two_pow_self, ?_⟩
  dsimp only
  split
  · exact if_pos (by assumption)
  · exact clzE_spec hx (by assumption)

theorem popcE_eq_countP (w x : Nat) : popcE w x = (List.range w).countP fun i => x.testBit i := by
  simp only [popcE, List.countP_eq_length_filter, Nat.testBit_eq_decide_div_mod_eq]
  rfl

theorem gives_popc : Gives (fun _ w x _ => popcE w x) fun _ w x _ r => r = (List.range w).countP fun i => x.testBit i := by
  intro _ w x _ _ _ _
  refine ⟨?_, popcE_eq_countP w x⟩
  have hle : popcE w x ≤ w := by
    rw [popcE_eq_countP]
    exact List.countP_le_length.trans_eq List.length_range
  exact lt_of_le_of_lt hle Nat.lt_two_pow_self

theorem bitCounts : Rule.BitCounts := by
  intro t d a
  constructor
  · exact patternWord_of_gives (fireResult_intVal1 _ d (fun _ => clzE) a) dst_checked_of_one gives_clz
  · exact patternWord_of_gives (fireResult_intVal1 _ d (fun _ => popcE) a) dst_checked_of_one gives_popc

/-- Settles O37, from what each element function gives. -/
theorem extremaAndCounts : Obligations.ExtremaAndCounts := ⟨minimaMaxima, bitCounts⟩

/-! ## Compare masks -/

theorem maskElem_lt (w : Nat) (b : Bool) : maskElem w b < 2 ^ w := by
  have h := Nat.two_pow_pos w
  cases b with
  | false => exact h
  | true => exact Nat.sub_one_lt h.ne'

/-- A mask is all ones where the condition that `b` decides holds, and zero where it does not (R279, R292). -/
theorem maskElem_of_iff {w : Nat} {b : Bool} {c : Prop} (h : b = true ↔ c) :
    (c → maskElem w b = 2 ^ w - 1) ∧ (¬c → maskElem w b = 0) :=
  ⟨fun hc => if_pos (h.mpr hc), fun hc => if_neg fun hb => hc (h.mp hb)⟩

theorem isNan_iff (a : FV) : a.isNan = true ↔ a = .nan := by
  cases a <;> simp [FV.isNan]

theorem isNan_eq_false_iff (a : FV) : a.isNan = false ↔ a ≠ .nan := by
  cases a <;> simp [FV.isNan]

/-- The third check of five, as `Instr.wf` has them for a comparison. -/
theorem dst_checked_of_variant {p q r u v : Bool} (h : (p && q && r && u && v) = true) : r = true := by
  simp only [Bool.and_eq_true] at h
  exact h.1.1.2

theorem compareMasks : Rule.CompareMasks := by
  intro t v d a b
  constructor
  · refine patternWord_of_gives (fun _ => rfl) dst_checked_of_variant fun _ w x y _ _ _ => ⟨maskElem_lt _ _, maskElem_of_iff ?_⟩
    match v with
    | 0 => exact beq_iff_eq
    | 1 => exact bne_iff_ne
    | 2 => exact decide_eq_true_iff
    | 3 => exact decide_eq_true_iff
    | 4 => exact decide_eq_true_iff
    | n + 5 => exact decide_eq_true_iff
  · refine floatWord_of_gives (fun _ => rfl) dst_checked_of_variant fun m _ x y _ _ => ⟨maskElem_lt _ _, maskElem_of_iff ?_⟩
    have hnan : ((fval (floatFmt m) x).isNan || (fval (floatFmt m) y).isNan) = true
        ↔ fval (floatFmt m) x = .nan ∨ fval (floatFmt m) y = .nan := by
      rw [Bool.or_eq_true, isNan_iff, isNan_iff]
    match v with
    | 0 => exact Iff.rfl
    | 1 => simp only [fcmpCond, Bool.not_eq_true', Bool.not_eq_true]
    | 2 => exact Iff.rfl
    | 3 => exact Bool.or_eq_true_iff
    | 4 => exact hnan
    | n + 5 =>
      rw [← hnan]
      simp only [fcmpCond, Bool.not_eq_true', Bool.not_eq_true]

/-! ## The order of float values -/

theorem fLt_irrefl (a : FV) : fLt a a = false := by
  cases a <;> simp [fLt]

/-- The order is asymmetric: infinities by their signs, finite values at their common exponent. -/
theorem fLt_asymm {a b : FV} (h : fLt a b = true) : fLt b a = false := by
  match a, b with
  | .inf x, .inf y =>
    simp only [fLt, Bool.and_eq_true] at h
    simp [fLt, h.1]
  | .inf x, .fin .. => simpa [fLt] using h
  | .fin .., .inf y => simpa [fLt] using h
  | .fin s m e, .fin s' m' e' =>
    rw [fLt, min_comm]
    exact decide_eq_false (lt_asymm (of_decide_eq_true h))

theorem fEq_comm (a b : FV) : fEq a b = fEq b a := by
  match a, b with
  | .nan, b => cases b <;> rfl
  | .inf _, .nan | .fin .., .nan => rfl
  | .inf x, .inf y => exact Bool.beq_comm
  | .inf _, .fin .. | .fin .., .inf _ => rfl
  | .fin s m e, .fin s' m' e' => simp only [fEq, min_comm e' e, eq_comm]

/-- Equal values are not ordered. -/
theorem fLt_of_fEq {a b : FV} (h : fEq a b = true) : fLt a b = false := by
  match a, b with
  | .inf x, .inf y =>
    obtain rfl : x = y := eq_of_beq h
    exact fLt_irrefl _
  | .fin s m e, .fin s' m' e' => exact decide_eq_false (of_decide_eq_true h).not_lt

/-- What is below is not above, where zeros are told apart as well (R300). -/
theorem fLt_of_fBelow {a b : FV} (h : fBelow a b = true) : fLt b a = false := by
  simp only [fBelow, Bool.or_eq_true, Bool.and_eq_true] at h
  rcases h with hlt | ⟨⟨heq, -⟩, -⟩
  · exact fLt_asymm hlt
  · rw [fEq_comm] at heq
    exact fLt_of_fEq heq

theorem fLt_of_not_fBelow {a b : FV} (h : fBelow a b = false) : fLt a b = false := by
  simp only [fBelow, Bool.or_eq_false_iff] at h
  exact h.1

/-- Of values that compare equal, one is below where it alone is negative (R300). -/
theorem fBelow_of_fEq {a b : FV} (h : fEq a b = true) : fBelow a b = (a.neg && !b.neg) := by
  simp [fBelow, fLt_of_fEq h, h]

theorem neg_of_fBelow {a b : FV} (h : fBelow a b = true) (heq : fEq a b = true) : a.neg = true ∧ b.neg = false := by
  simpa [fBelow_of_fEq heq] using h

theorem neg_of_not_fBelow {a b : FV} (h : fBelow a b = false) (heq : fEq a b = true) : a.neg = true → b.neg = true := by
  simpa [fBelow_of_fEq heq] using h

/-! ## Float minima and maxima -/

/-- The operand that FMIN and FMAX give: where one is NaN the other, else the second where `second` says so (R300). -/
def pickNumber (t : Fmt) (second : Bool) (x y : Nat) : Nat :=
  if (fval t x).isNan then (if (fval t y).isNan then t.nan else y)
  else if (fval t y).isNan then x else if second then y else x

theorem fminE_eq_pickNumber (t : Fmt) (rnd x y : Nat) :
    fminE t rnd x y = pickNumber t (fBelow (fval t y) (fval t x)) x y := rfl

theorem fmaxE_eq_pickNumber (t : Fmt) (rnd x y : Nat) :
    fmaxE t rnd x y = pickNumber t (fBelow (fval t x) (fval t y)) x y := rfl

/-- The canonical NaN is a pattern of its format. -/
theorem nan_lt (m : Nat) : (floatFmt m).nan < 2 ^ (floatFmt m).width := by
  rcases floatFmt_cases m with h | h | h | h | h <;> rw [h] <;> decide

theorem pickNumber_lt {m x y : Nat} (c : Bool) (hx : x < 2 ^ (floatFmt m).width) (hy : y < 2 ^ (floatFmt m).width) :
    pickNumber (floatFmt m) c x y < 2 ^ (floatFmt m).width :=
  ite_lt_of_lt (ite_lt_of_lt (nan_lt m) hy) (ite_lt_of_lt hx (ite_lt_of_lt hy hx))

/-- The result where an operand is NaN (R300). -/
theorem pickNumber_nan (t : Fmt) (c : Bool) (x y : Nat) :
    (fval t x = .nan → fval t y = .nan → pickNumber t c x y = t.nan)
      ∧ (fval t x = .nan → fval t y ≠ .nan → pickNumber t c x y = y)
      ∧ (fval t x ≠ .nan → fval t y = .nan → pickNumber t c x y = x) := by
  simp only [← isNan_iff, ne_eq, Bool.not_eq_true, pickNumber]
  refine ⟨fun hx hy => ?_, fun hx hy => ?_, fun hx hy => ?_⟩ <;> simp [hx, hy]

/-- The result where neither operand is NaN. -/
theorem pickNumber_of_numbers {t : Fmt} {x y : Nat} (c : Bool) (hx : fval t x ≠ .nan) (hy : fval t y ≠ .nan) :
    pickNumber t c x y = if c then y else x := by
  rw [← isNan_eq_false_iff] at hx hy
  simp [pickNumber, hx, hy]

/-- FMIN of two numbers: an operand, no greater than either, negative where an equal operand is. -/
theorem pickNumber_min {t : Fmt} {x y r : Nat} (hr : r = if fBelow (fval t y) (fval t x) then y else x) :
    (r = x ∨ r = y) ∧ fLt (fval t x) (fval t r) = false ∧ fLt (fval t y) (fval t r) = false
      ∧ (fEq (fval t x) (fval t y) = true → (fval t r).neg = ((fval t x).neg || (fval t y).neg)) := by
  cases hb : fBelow (fval t y) (fval t x) with
  | true =>
    obtain rfl : r = y := by simpa [hb] using hr
    refine ⟨.inr rfl, fLt_of_fBelow hb, fLt_irrefl _, fun heq => ?_⟩
    obtain ⟨hy, hx⟩ := neg_of_fBelow hb (by rwa [fEq_comm])
    rw [hx, hy, Bool.false_or]
  | false =>
    obtain rfl : r = x := by simpa [hb] using hr
    refine ⟨.inl rfl, fLt_irrefl _, fLt_of_not_fBelow hb, fun heq => ?_⟩
    exact (Bool.or_eq_left_iff_imp.mpr (neg_of_not_fBelow hb (by rwa [fEq_comm]))).symm

/-- FMAX of two numbers: an operand, no less than either, negative where both equal operands are. -/
theorem pickNumber_max {t : Fmt} {x y r : Nat} (hr : r = if fBelow (fval t x) (fval t y) then y else x) :
    (r = x ∨ r = y) ∧ fLt (fval t r) (fval t x) = false ∧ fLt (fval t r) (fval t y) = false
      ∧ (fEq (fval t x) (fval t y) = true → (fval t r).neg = ((fval t x).neg && (fval t y).neg)) := by
  cases hb : fBelow (fval t x) (fval t y) with
  | true =>
    obtain rfl : r = y := by simpa [hb] using hr
    refine ⟨.inr rfl, fLt_of_fBelow hb, fLt_irrefl _, fun heq => ?_⟩
    obtain ⟨hx, hy⟩ := neg_of_fBelow hb heq
    rw [hx, hy, Bool.true_and]
  | false =>
    obtain rfl : r = x := by simpa [hb] using hr
    refine ⟨.inl rfl, fLt_irrefl _, fLt_of_not_fBelow hb, fun heq => ?_⟩
    exact (Bool.and_eq_left_iff_imp.mpr (neg_of_not_fBelow hb heq)).symm

theorem floatMinMax : Rule.FloatMinMax := by
  intro t d a b
  constructor
  · refine floatWord_of_gives (fun _ => rfl) dst_checked fun m rnd x y hx hy => ?_
    rw [fminE_eq_pickNumber]
    exact ⟨pickNumber_lt _ hx hy, pickNumber_nan _ _ x y, fun hnx hny => pickNumber_min (pickNumber_of_numbers _ hnx hny)⟩
  · refine floatWord_of_gives (fun _ => rfl) dst_checked fun m rnd x y hx hy => ?_
    rw [fmaxE_eq_pickNumber]
    exact ⟨pickNumber_lt _ hx hy, pickNumber_nan _ _ x y, fun hnx hny => pickNumber_max (pickNumber_of_numbers _ hnx hny)⟩

/-- Settles O40, from the masks of the compare conditions and the order of float values. -/
theorem comparesAndFloatExtrema : Obligations.ComparesAndFloatExtrema := ⟨compareMasks, floatMinMax⟩

end Sys2Proof.Machine
end

section
/-!
Proofs about constants, moves between registers, lanes and the main file, and NOP (R308, R316, R321, R326, R333, R338, R346).
-/
namespace Sys2Proof.Machine

/-! ## Constants and register moves -/

/-- The second check of three, as `Instr.wf` has it for a destination that is no channel (R58, R69). -/
theorem dst_checked_of_reg {p r : Bool} {d : Dst} (h : (p && d.isReg && r) = true) : d.wf = true :=
  Dst.wf_of_isReg (dst_checked_of_one h)

/-- LI's constant is its 12 bits read in two's complement (R321). -/
theorem ofInt_toS_eq_signExtend (c : Nat) : BitVec.ofInt 32 (toS 12 (c % 4096)) = (BitVec.ofNat 12 c).signExtend 32 := by
  have h : toS 12 (c % 4096) = (BitVec.ofNat 12 c).toInt := by
    simp only [toS, BitVec.toInt, BitVec.toNat_ofNat]
    split <;> split <;> push_cast <;> omega
  rw [h, BitVec.signExtend]

/-- A lane shifted left by 12 is zero in the bits of a 12-bit constant. -/
theorem shiftLeft_and_low (x : Word) (y : BitVec 12) : x <<< 12 &&& y.setWidth 32 = 0#32 := by
  ext i hi
  simp only [BitVec.getElem_and, BitVec.getElem_shiftLeft, BitVec.getElem_setWidth, BitVec.getElem_zero]
  by_cases h : i < 12
  · simp [h]
  · simp [BitVec.getLsbD_of_ge y i (by omega)]

/-- LIH's sum puts its 12 bits below the shifted lane (R321). -/
theorem lih_lane (x : Word) (c : Nat) :
    x * (4096 : Word) + BitVec.ofNat 32 (c % 4096) = x <<< 12 ||| (BitVec.ofNat 12 c).setWidth 32 := by
  have hlow : BitVec.ofNat 32 (c % 4096) = (BitVec.ofNat 12 c).setWidth 32 := by
    apply BitVec.eq_of_toNat_eq
    simp only [BitVec.toNat_ofNat, BitVec.toNat_setWidth]
  rw [← BitVec.add_eq_or_of_and_eq_zero _ _ (shiftLeft_and_low x _), BitVec.shiftLeft_eq_mul_twoPow, hlow]
  rfl

/-- LI's result: the signed 12-bit constant in every lane (R321). -/
def liVal (c : Nat) : Reg := ⟨Lanes.rep (BitVec.ofInt 32 (toS 12 (c % 4096))), false⟩

/-- LIH's result: every lane of the old `d` moved up by 12 bits, with the constant below (R321). -/
def lihVal (d : Dst) (c : Nat) (e : Elem) : Reg :=
  ⟨(readDst e d).v.map fun x => x * 4096 + BitVec.ofNat 32 (c % 4096), (readDst e d).poison⟩

theorem exec_li (t : Nat) (d : Dst) (c : Nat) (s : State) :
    exec (.li t d c) s = fireResult (.li t d c) d (fun _ _ => liVal c) s := rfl

theorem exec_lih (t : Nat) (d : Dst) (c : Nat) (s : State) :
    exec (.lih t d c) s = fireResult (.lih t d c) d (fun _ e => lihVal d c e) s := rfl

theorem exec_mov (t : Nat) (d : Dst) (a : Src) (s : State) :
    exec (.mov t d a) s = fireResult (.mov t d a) d (fun f e => readSrc f e .int a) s := rfl

theorem exec_getm (t : Nat) (d : Dst) (m : Nat) (s : State) :
    exec (.getm t d m) s = fireResult (.getm t d m) d (fun _ e => vget e.m m) s := rfl

theorem constantsAndMoves : Rule.ConstantsAndMoves := by
  intro t d a c m
  refine ⟨?li, ?lih, ?mov, ?getm⟩
  case li =>
    refine (fireResult_completes (exec_li t d c) dst_checked_of_reg fun _ _ _ => rfl).mono ?_
    rintro f e r rfl
    exact ⟨rfl, fun l _ => by rw [liVal, Lanes.get_rep, ofInt_toS_eq_signExtend]⟩
  case lih =>
    refine (fireResult_completes (exec_lih t d c) dst_checked_of_reg fun f e slot => by simp only [lihVal, readDst_acquire]).mono ?_
    rintro f e r rfl
    exact ⟨rfl, fun l hl => by rw [lihVal, Lanes.map, Lanes.get_ofFn, Nat.mod_eq_of_lt hl, lih_lane]⟩
  case mov => exact fireResult_completes (exec_mov t d a) dst_checked_of_one fun f e slot => readSrc_acquire f f e slot _ .int a
  case getm => exact fireResult_completes (exec_getm t d m) dst_checked_of_reg fun _ _ _ => rfl

/-! ## Moves between lanes -/

theorem laneMoves : Rule.LaneMoves := by
  intro t d a b
  constructor
  · refine Completes.mono (fireResult_completes (val := lbcVal a b) (fun _ => rfl) dst_checked fun f e slot => by
      simp only [lbcVal, readSrc_acquire]) ?_
    rintro f e r rfl
    exact ⟨rfl, fun l _ => Lanes.get_rep _ l⟩
  · refine Completes.mono (fireResult_completes (val := lshfVal a b) (fun _ => rfl) dst_checked fun f e slot => by
      simp only [lshfVal, readSrc_acquire]) ?_
    rintro f e r rfl
    exact ⟨rfl, fun l hl => by rw [lshfVal, Lanes.get_ofFn, Nat.mod_eq_of_lt hl]⟩

/-! ## The main file, and NOP -/

/-- An element put back as it was leaves the fabric as it was. -/
theorem updElem_self (l th : Nat) (f : Fabric) : updElem l th (fun x => x) f = f := by
  simp only [updElem, upd, ite_self, List.map_id']

theorem putmAndNop : Rule.PutmAndNop := by
  intro t m a
  constructor
  · exact fireWord_changes (g := fun f e x => { x with m := vset x.m m (readSrc f e .int a) }) (fun _ => rfl)
      (fun _ _ _ => ⟨rfl, rfl⟩) fun f e slot => by simp only [readSrc_acquire]
  · refine fireWord_changes (g := fun _ _ x => x) (fun s => ?_) (fun _ _ _ => ⟨rfl, rfl⟩) fun _ _ _ => rfl
    simp only [updElem_self]
    rfl

/-- Settles O38, from what each word's value is in every lane, and from NOP as the change of its element to itself. -/
theorem movesAndConstants : Obligations.MovesAndConstants := ⟨constantsAndMoves, laneMoves, putmAndNop⟩

end Sys2Proof.Machine
end

section
/-!
Proofs about the predicate words PSET, PLOG, PANY and PALL (R341, R343, R345), and what a predicate reads after a write to one.
-/
namespace Sys2Proof.Machine

/-! ## Reading and writing predicates -/

/-- After a write, predicate `n` reads the value written, and every other one of p0 to p6 what it read before (R59). -/
theorem getLsbD_preds_setPred (n : Nat) (v : Bool) (e : Elem) {k : Nat} (hk : k < 7) :
    (setPred n v e).preds.getLsbD k = if k = n then v else e.preds.getLsbD k := by
  have hbit : (BitVec.ofNat 7 (2 ^ n)).getLsbD k = decide (n = k) := by
    rw [BitVec.getLsbD_ofNat, Nat.testBit_two_pow, decide_eq_true hk, Bool.true_and]
  have hset : (setPred n v e).preds.getLsbD k
      = if v then e.preds.getLsbD k || decide (n = k) else e.preds.getLsbD k && !decide (n = k) := by
    cases v <;> simp only [setPred, Bool.false_eq_true, if_false, if_true, BitVec.getLsbD_or, BitVec.getLsbD_and,
      BitVec.getLsbD_not, hbit, hk, decide_true, Bool.true_and]
  rw [hset]
  obtain rfl | hne := eq_or_ne n k
  · cases v <;> simp
  · simp [hne, hne.symm]

/-- A predicate that a word reads: p7 is whether a resumption runs, the others are the element's own (R39, R59). -/
theorem predVal_eq (f : Fabric) (e : Elem) (n : Nat) :
    predVal f e n = if n = 7 then isResuming f e else e.preds.getLsbD n := by
  have hbits : predBits f e = 2 ^ 7 * (isResuming f e).toNat + e.preds.toNat := by
    cases h : isResuming f e <;> simp [predBits, h, Nat.add_comm]
  have hbit : predVal f e n = (predBits f e).testBit n := by
    simp only [predVal, Nat.testBit_eq_decide_div_mod_eq, beq_eq_decide]
  rw [hbit, hbits, Nat.testBit_two_pow_mul_add _ e.preds.isLt]
  rcases Nat.lt_trichotomy n 7 with hlt | rfl | hgt
  · rw [if_pos hlt, if_neg (Nat.ne_of_lt hlt), BitVec.testBit_toNat]
  · cases isResuming f e <;> rfl
  · rw [if_neg (Nat.lt_asymm hgt), if_neg (Nat.ne_of_gt hgt), BitVec.getLsbD_of_ge _ _ (Nat.le_of_lt hgt)]
    exact Nat.testBit_lt_two_pow ((Bool.toNat_lt _).trans_le (Nat.le_self_pow (by omega) 2))

/-! ## The values written -/

/-- PLOG's table entry is the bit of its constant at 2·pA + pB (R343). -/
theorem truthTable_eq_testBit (tt : Nat) (pa pb : Bool) :
    truthTable tt pa pb = tt.testBit ((if pa then 2 else 0) + (if pb then 1 else 0)) := by
  have hindex : 2 * b2n pa + b2n pb = (if pa then 2 else 0) + (if pb then 1 else 0) := by cases pa <;> rfl
  rw [truthTable, hindex, Nat.testBit_eq_decide_div_mod_eq, beq_eq_decide]

theorem Lanes.toList_eq_map_get (v : Lanes) : v.toList = (List.range 8).map v.get := rfl

theorem anyLane_iff (v : Lanes) : anyLane v = true ↔ ∃ l, l < 8 ∧ v.get l ≠ 0 := by
  simp only [anyLane, Lanes.toList_eq_map_get, List.any_map, List.any_eq_true, List.mem_range, Function.comp_apply, bne_iff_ne]

theorem allLanes_iff (v : Lanes) : allLanes v = true ↔ ∀ l, l < 8 → v.get l ≠ 0 := by
  simp only [allLanes, Lanes.toList_eq_map_get, List.all_map, List.all_eq_true, List.mem_range, Function.comp_apply, bne_iff_ne]

/-! ## The words -/

/-- A word whose meaning is to write one predicate writes that one and nothing else, if the value does not depend on what is
acquired. -/
theorem firePred_writesPred {i : Instr} {p : Nat} {val : Fabric → Elem → Bool} {P : Fabric → Elem → Bool → Prop}
    (hx : ∀ s, exec i s = firePred i p val s) (hv : ∀ f e slot, val f (e.acquire f slot i) = val f e)
    (hP : ∀ f e, P f e (val f e)) : WritesPred i p P := by
  have hchange : ChangesElem i fun f e => setPred p (val f e) e :=
    fireWord_changes (g := fun f e => setPred p (val f e)) hx (fun _ _ _ => ⟨rfl, rfl⟩) fun f e slot => by rw [hv]
  intro s l th slot e hw hg hf
  obtain ⟨t, ht, helem, hframe⟩ := hchange s l th slot e hw hg hf
  exact ⟨t, (setPred p (val s.fab e) e).preds, val s.fab e, ht, hP s.fab e, fun k hk => getLsbD_preds_setPred p _ e hk, helem, hframe⟩

/-- Settles O7, from what a write of one predicate leaves and the value that each word writes. -/
theorem predicateWords : Obligations.PredicateWords := by
  intro t p pa pb tt v pred
  refine ⟨?pset, ?plog, ?pany, ?pall⟩
  case pset => exact firePred_writesPred (val := fun _ _ => v) (fun _ => rfl) (fun _ _ _ => rfl) fun _ _ => rfl
  case plog =>
    refine firePred_writesPred (val := fun f e => truthTable tt (predVal f e pa) (predVal f e pb)) (fun _ => rfl)
      (fun f e slot => by simp only [predVal_acquire]) fun f e => ?_
    rw [truthTable_eq_testBit, predVal_eq, predVal_eq]
  case pany =>
    exact firePred_writesPred (val := fun _ e => anyLane e.lat.v) (fun _ => rfl) (fun _ _ _ => rfl) fun _ e => anyLane_iff e.lat.v
  case pall =>
    exact firePred_writesPred (val := fun _ e => allLanes e.lat.v) (fun _ => rfl) (fun _ _ _ => rfl) fun _ e => allLanes_iff e.lat.v

end Sys2Proof.Machine
end
